-- ==== Sys2Proof/Word.lean ====
section
/-! DEFINITION. The widths of the Turnum N8's values (R1, R2, R4, R92) and their plainest arithmetic. -/

namespace Sys2Proof

/-- One byte of memory. -/
abbrev Byte := BitVec 8

/-- A scalar register, an address or a CSR value (R92, R131). -/
abbrev Word := BitVec 64

/-- A scalar register number, s0 to s31. -/
abbrev SReg := BitVec 5

/-- A vector register number, v0 to v63. -/
abbrev VReg := BitVec 6

/-- A predicate number, p0 to p7. -/
abbrev PReg := BitVec 3

/-- The 256 bits of a predicate, bit b guarding byte b (R210). -/
abbrev Mask := BitVec 256

/-- The 2048 data bits of a vector register. -/
abbrev VData := BitVec 2048

/-- A format tag (Table 11.1). -/
abbrev Tag := BitVec 5

/-- Sixteen 8-byte words and more: the instruction window of five 32-bit words (R251). -/
abbrev Window := BitVec 160

end Sys2Proof
end

