-- ==== Sys2Proof/Config.lean ====
section
/-! DEFINITION. What the manual leaves open: constants with no body, so that nothing in Lean can evaluate them or prove
a value of them. A free value is one of them applied to a counter of State (`free`) or to the data it depends on. -/

namespace Sys2Proof.Config

/-- A byte the manual does not fix, by the number of the draw (log entry 2). -/
opaque freeByte : Nat → Byte

/-- A natural number the manual does not fix, by the number of the draw; the user reduces it to a range (log entry 2). -/
opaque freeNat : Nat → Nat

/-- Whether a word of another module's memory, by its number there, is full at a cycle (R171, R326; log entry 10). -/
opaque remoteFull : (dev word cycle : Nat) → Bool

/-- Whether an access to an address of another module meets a frame withdrawn there, by the cycle it arrives (R26; log
entry 10). -/
opaque remoteLost : (dev tpa cycle : Nat) → Bool

/-- The entries (hash, key, value) of a map shard whose contents the manual calls unpredictable (R145, R183). -/
opaque freeShard : Nat → List (Nat × Nat × Nat)

/-- The contributions of a window whose storage was overwritten (R145), by the number of the draw. -/
opaque freeWindow : Nat → List (List Nat)

/-- The SM3 digest of a byte string (R27, R31): the manual names the algorithm and does not restate it (log entry 6). -/
opaque sm3 : List Byte → BitVec 256

/-- Whether an SM2 signature over a digest verifies under a public key (R28, R33, R46; log entry 6). -/
opaque sm2Verifies : (key : List Byte) → (digest : BitVec 256) → (signature : BitVec 512) → Bool

/-- The fused SM2 key of the firmware's signer (R27, R28; log entry 6). -/
opaque fusedKey : List Byte

/-- The device unique secret that the fuses hold (R27). -/
opaque deviceSecret : BitVec 256

/-- The private half of the identity key, which the ROM derives from the secret, and that of an alias key, which the firmware
derives from the secret and its own digest (R31; log entry 6). -/
opaque identityPrivate : (secret : BitVec 256) → BitVec 256
opaque aliasPrivate : (secret digest : BitVec 256) → BitVec 256

/-- SM2: the public half of a private key, and a signature with one (R14, R31; log entry 6). -/
opaque sm2Public : BitVec 256 → BitVec 512
opaque sm2Sign : (half : BitVec 256) → List Byte → BitVec 512

/-- Yunasan's certificate of an identity key, made at manufacture and kept in hub flash (R31; log entry 6). -/
opaque certificate : (identity : BitVec 512) → List Byte

/-- What a memory controller stores of a line: SM4-XTS under the key pair of an identifier, the line's address the tweak
(R47; log entry 56). -/
opaque sm4Xts : (id key line : Nat) → List Byte → List Byte

/-- The sealed text of a plaintext under a tenant's key, SEQ and direction (R40, R45; log entry 6). -/
opaque sealText : (key : List Byte) → (nonce : Nat) → List Byte → List Byte

/-- The opened text, or none when its tag does not verify (R40, R45, R46; log entry 6). -/
opaque openText : (key : List Byte) → (nonce : Nat) → List Byte → Option (List Byte)

/-- The key a handle is sealed with at a boot (R43), by the boot's serial (log entry 6). -/
opaque handleSeal : (boot serial : Nat) → Word

/-- Whether bytes of another module, named as `Place.behind` names them, are all zero at a cycle (R183, R195; log entry 15). -/
opaque remoteBlank : (address bytes cycle : Nat) → Bool

/-- The samples of a block, row by row, from its 64 dequantised coefficients in zigzag order: Yunasan's own integer IDCT with its
level shift, whose bits the manual does not give (R399; log entry 7). -/
opaque idct : List Int → List Byte

/-- The bytes of workspace that a progressive stream uses (R397; log entry 7). -/
opaque jpegWork : List Byte → Nat

/-- The signature and the security version that a firmware image carries, and the digests of the mask ROM and of the fuse
configuration (R28, R32: the manual gives no layout; log entry 6). -/
opaque imageSignature : List Byte → BitVec 512
opaque imageVersion : List Byte → Nat
opaque romDigest : BitVec 256
opaque fuseDigest : BitVec 256

/-- The bytes of an ATTEST report of measurement blocks and a nonce, which its signature follows (R42: the manual gives no
layout; log entry 6). -/
opaque attestReport : List (BitVec 256) → List Byte → List Byte

/-- The length of an eviction image for some cores and granted frames; its clear header, of a serial number, a counter, a
length and the wrapped image keys; and byte i of the ciphertext under an image key with the header's digest (R45: the manual
gives no layout; log entry 9). -/
opaque imageLength : (cores frames devices : Nat) → Nat
opaque imageHeader : (serial counter length : Nat) → (wraps : List (List Byte)) → List Byte
opaque imageByte : (key : Nat) → (header : BitVec 256) → (i : Nat) → Byte

/-- An image key wrapped under the Holm's sealing key, and for the holder of an SM2 key (R45; log entry 9). -/
opaque wrapSealed : (key : Nat) → List Byte
opaque sm2Encrypt : (holder : BitVec 512) → (key : Nat) → List Byte

/-- What the Holm of another module answers to VD.JOIN, by the number of the draw (R54; log entry 10): the identity key it
proves, the bound key of its virtual device, and in bits 0, 1 and 2 whether it authenticates, is in a state that joins,
and has a policy that allows the join and names this module. -/
opaque peerIdentity : Nat → BitVec 512
opaque peerTenantKey : Nat → BitVec 512
opaque peerAnswer : Nat → BitVec 3

end Sys2Proof.Config
end

