-- ==== Sys2Proof/Syntax.lean ====
section
/-! DEFINITION. The steps of the Turnum N8: one constructor per row of the table of operations and events. An
instruction's constructor holds the fields of its encoding (chapters 14 to 21); the constructor of a step of another
agent holds that step's input, or the number of the packet in flight that the step delivers. -/

namespace Sys2Proof

/-- The fields of a long vector instruction (Tables 14.4 and 14.5), all but LEN, OP and the zero bits. -/
structure LV where
  pd : BitVec 3
  ta : BitVec 3
  tc : BitVec 7
  hint : BitVec 3
  fmt : BitVec 5
  sat : BitVec 1
  d : BitVec 6
  a : BitVec 6
  b : BitVec 6
  c : BitVec 6
  e : BitVec 6
  pa : BitVec 3
  paInv : BitVec 1
  pb : BitVec 3
  pbInv : BitVec 1
  rm : BitVec 3
  fn : BitVec 21
deriving DecidableEq, Repr

/-- The fields of a long memory, map, matrix or engine instruction (Tables 14.4 and 14.6) and its literal. -/
structure LM where
  pd : BitVec 3
  ta : BitVec 3
  tc : BitVec 7
  hint : BitVec 3
  fmt : BitVec 5
  sat : BitVec 1
  sa : SReg
  sb : SReg
  sc : SReg
  v : BitVec 6
  pg : BitVec 3
  pgInv : BitVec 1
  mode : BitVec 2
  wq : BitVec 8
  wt : BitVec 6
  gq : BitVec 8
  gv : BitVec 4
  fn : BitVec 6
  lit : Option Word
deriving DecidableEq, Repr

/-- A control command (Table 2.5) and the master that issued it (R53): `oob` is 1 for the out-of-band master. -/
structure Cmd where
  oob : Bool
  code : BitVec 16
  flags : BitVec 16
  tag : BitVec 32
  p0 : Word
  p1 : Word
  p2 : Word
  p3 : Word
  p4 : Word
  p5 : Word
  p6 : Word
deriving DecidableEq, Repr

/-- An accepted tenant command (R40): the virtual function of its channel, its SEQ and the decrypted command. -/
structure TCmd where
  vf : Nat
  seq : Word
  code : BitVec 16
  flags : BitVec 16
  tag : BitVec 32
  p0 : Word
  p1 : Word
  p2 : Word
  p3 : Word
  p4 : Word
  p5 : Word
  p6 : Word
deriving DecidableEq, Repr

/-- A node of a graph: its virtual function, graph id and node index. -/
structure NodeRef where
  vf : Nat
  graph : Nat
  node : Nat
deriving DecidableEq, Repr

/-- One constructor per row of the table of operations and events. -/
inductive Instr where
  -- Boot, readiness, links, thermal and power (R12 to R30)
  | recoveryWindowWrite (oob : Bool) (off : BitVec 20) (value : Word)
  | holmSelfCheck (passed : Bool)
  | functionReady (bit : BitVec 6)
  | functionFailure (bit : BitVec 6)
  | narrowTrainingLoss (i j : BitVec 2)
  | narrowRetrainComplete (i j : BitVec 2)
  | narrowRetrainFailure (i j : BitVec 2)
  | hostLinkTraining (lanes : Nat) (flit : Bool)
  | thermalSensorRead (die : BitVec 2) (tenths : Nat)
  | powerMeasurement (watts : Nat)
  -- Management ownership (R52, R53)
  | mctpCommand (entry : BitVec 512)
  -- Channels (R36 to R38); function 0 is the control channel
  | qtailDoorbell (fn : Nat) (value : Word)
  | cheadWrite (fn : Nat) (value : Word)
  | channelEnable (fn : Nat)
  | channelDisable (fn : Nat)
  | channelRegisterWrite (fn : Nat) (off : BitVec 16) (value : Word)
  -- Control commands (Table 2.7)
  | waysSetComplete (vf : Nat)
  -- Tenant commands (Table 2.8)
  | tenantEntryRefused (vf : Nat) (entry : BitVec 1024)
  | hostTransferPiece (vf : Nat)
  | noticePost (vf : Nat)
  | pauseLimitExpiry (vf : Nat)
  | frameWaitExpiry (vf : Nat) (frame : Nat)
  -- SPDM and TDISP (R14, R32 to R35, R46)
  | spdmSessionOpen (fn : Nat) (compatible : Bool)
  | spdmGetMeasurements (fn : Nat)
  | setPolicy (vf : Nat) (bytes : List Byte)
  | approveImage (vf : Nat) (digest : BitVec 256) (sig : BitVec 512)
  | startInterfaceRequest (vf : Nat)
  | stopInterfaceRequest (vf : Nat)
  | functionLevelReset (vf : Nat)
  -- The graph scheduler (R78 to R91)
  | nodePlace (die : BitVec 2)
  | nodeLaunch (n : NodeRef)
  | nodeSteal (die : BitVec 2) (n : NodeRef)
  | priorityAging (n : NodeRef)
  | holdBegin (die : BitVec 2)
  | nodeComplete (n : NodeRef)
  | sliceExpiry (atoll : Nat)
  | preemptRequest (vf : Nat) (core : Nat)
  | contextSaveComplete (vf : Nat) (core : Nat)
  | resume (vf : Nat)
  | rampWindow (isle : Nat)
  -- Results, waits and non-instructions (R95, R96, R106, R107, R261)
  | classFResultVisible (vf core slot : Nat)
  | waitConditionMet (vf core slot seq : Nat)
  | waitTimeout (vf core slot seq : Nat)
  | nonInstruction (word0 : BitVec 32)
  -- Page faults and translation (R119 to R122, R149, R286)
  | faultRecordDelivery (vf fid : Nat)
  -- Places and homes (R66, R104, R109, R153, R157, R159, R169, R175, R187, R199, R205, R207, R208, R341)
  | transitEntryFree (slice : Nat) (id : Nat)
  -- The matrix unit (R90, R366, R375)
  | matrixOpStart (vf core : Nat)
  | matrixOpComplete (vf core : Nat)
  | mmarExchangeTimeout (vf core : Nat)
  -- Copy engines and decoders (R59, R137, R382, R387)
  | engineTakeJob (isle engine units : Nat)
  | decoderTakeJob (die decoder units : Nat)
  | jobEnd (isle job : Nat)
  -- Scalar arithmetic (Table 15.2)
  | add (d a b : SReg)
  | sub (d a b : SReg)
  | mul (d a b : SReg)
  | mulh (d a b : SReg)
  | mulhu (d a b : SReg)
  | div (d a b : SReg)
  | divu (d a b : SReg)
  | rem (d a b : SReg)
  | remu (d a b : SReg)
  | and (d a b : SReg)
  | or (d a b : SReg)
  | xor (d a b : SReg)
  | shl (d a b : SReg)
  | shr (d a b : SReg)
  | sra (d a b : SReg)
  | min (d a b : SReg)
  | max (d a b : SReg)
  | minu (d a b : SReg)
  | maxu (d a b : SReg)
  | cmp (d a b : SReg) (cond : BitVec 7)
  | sel (d a b c : SReg)
  | clz (d a : SReg)
  | ctz (d a : SReg)
  | popc (d a : SReg)
  | bfx (d a : SReg) (pos len1 : BitVec 6)
  | bfi (d a : SReg) (pos len1 : BitVec 6)
  | waddr (d a b : SReg) (mode : BitVec 7)
  | addi (d a : SReg) (imm : BitVec 12)
  | andi (d a : SReg) (imm : BitVec 12)
  | ori (d a : SReg) (imm : BitVec 12)
  | xori (d a : SReg) (imm : BitVec 12)
  | shli (d a : SReg) (imm : BitVec 12)
  | shri (d a : SReg) (imm : BitVec 12)
  | srai (d a : SReg) (imm : BitVec 12)
  | ldi (d : SReg) (imm : BitVec 17)
  | ldl (d : SReg) (lit : Word)
  -- Predicates (R282 to R284); a predicate field is five bits wide in the word
  | pand (d a b : SReg)
  | por (d a b : SReg)
  | pxor (d a b : SReg)
  | pandn (d a b : SReg)
  | plen (d a : SReg) (width : BitVec 12)
  | pcnt (d a : SReg) (width : BitVec 7)
  | pany (d a : SReg)
  | pfirst (d a : SReg) (width : BitVec 7)
  -- CSRs, branches, traps and thread control (R285 to R297)
  | mfcsr (d : SReg) (csr : BitVec 12)
  | mtcsr (d a : SReg) (csr : BitVec 12)
  | br (a : SReg) (cc : BitVec 3) (off : BitVec 14)
  | jmp (off : BitVec 22)
  | call (off : BitVec 22)
  | jr (a : SReg)
  | callr (d a : SReg)
  | trap (code : BitVec 12)
  | sleep (d : SReg) (te : BitVec 5)
  | brk (code : BitVec 12)
  | mclaim (d : SReg) (te : BitVec 5)
  | gsub (d a : SReg)
  | evsig (d a : SReg) (code : BitVec 12)
  | fwake (d a b : SReg)
  -- Scalar memory and synchronisation (R318 to R338)
  | ldb (d a : SReg) (imm : BitVec 12)
  | ldbu (d a : SReg) (imm : BitVec 12)
  | ldh (d a : SReg) (imm : BitVec 12)
  | ldhu (d a : SReg) (imm : BitVec 12)
  | ldw (d a : SReg) (imm : BitVec 12)
  | ldwu (d a : SReg) (imm : BitVec 12)
  | ldd (d a : SReg) (imm : BitVec 12)
  | stb (d a : SReg) (imm : BitVec 12)
  | sth (d a : SReg) (imm : BitVec 12)
  | stw (d a : SReg) (imm : BitVec 12)
  | std (d a : SReg) (imm : BitVec 12)
  | ldf (d a b : SReg) (te : BitVec 5) (consume : BitVec 1)
  | stf (d a : SReg) (imm : BitVec 12)
  | feclr (a b : SReg)
  | amo (d a b : SReg) (op : BitVec 4) (scope : BitVec 3)
  | cas (d a b : SReg) (scope : BitVec 3)
  | acqRead (d a : SReg) (scope : BitVec 3)
  | acqWrite (d a : SReg) (scope : BitVec 3) (te : BitVec 5)
  | rel (d a : SReg) (scope : BitVec 3)
  | relYield (d a : SReg) (scope : BitVec 3)
  | fence (scope : BitVec 3)
  | pref (kind a : SReg) (imm : BitVec 12)
  | flush (a b : SReg)
  | inval (a b : SReg)
  -- Vector instructions (Table 16.1)
  | vadd (f : LV)
  | vsub (f : LV)
  | vmul (f : LV)
  | vfma (f : LV)
  | vfms (f : LV)
  | vmin (f : LV)
  | vmax (f : LV)
  | vabs (f : LV)
  | vneg (f : LV)
  | vand (f : LV)
  | vor (f : LV)
  | vxor (f : LV)
  | vandn (f : LV)
  | vshl (f : LV)
  | vshr (f : LV)
  | vsra (f : LV)
  | vmulh (f : LV)
  | vdiv (f : LV)
  | vsqrt (f : LV)
  | vrcp (f : LV)
  | vrsq (f : LV)
  | vexp2 (f : LV)
  | vlog2 (f : LV)
  | vsint (f : LV)
  | vcost (f : LV)
  | vtanh (f : LV)
  | vcmp (f : LV)
  | vsel (f : LV)
  | vmov (f : LV)
  | vbcast (f : LV)
  | vextr (f : LV)
  | vins (f : LV)
  | vcvt (f : LV)
  | vqnt (f : LV)
  | vdq (f : LV)
  | vretag (f : LV)
  | vperm (f : LV)
  | vrotl (f : LV)
  | vzip (f : LV)
  | vunzip (f : LV)
  | vredadd (f : LV)
  | vredmax (f : LV)
  | vredmin (f : LV)
  | vscan (f : LV)
  | vnzs (f : LV)
  | vdot4 (f : LV)
  | vclz (f : LV)
  | vpopc (f : LV)
  | vidx (f : LV)
  -- Vector memory, semaphores, barriers and messages (Table 17.2)
  | vld (f : LM)
  | vst (f : LM)
  | vlds (f : LM)
  | vsts (f : LM)
  | vgath (f : LM)
  | vscat (f : LM)
  | vldf (f : LM)
  | vstf (f : LM)
  | vamo (f : LM)
  | qwait (f : LM)
  | qsig (f : LM)
  | barArriveWait (f : LM)
  | barArrive (f : LM)
  | barWait (f : LM)
  | msend (f : LM)
  | mrecv (f : LM)
  -- Maps, windows and bounded sums (Table 19.1)
  | mprobe (f : LM)
  | mins (f : LM)
  | mset (f : LM)
  | mrem (f : LM)
  | mprobev (f : LM)
  | msetv (f : LM)
  | mstat (f : LM)
  | miter (f : LM)
  | wfeed (f : LM)
  | wread (f : LM)
  | wlen (f : LM)
  | badd (f : LM)
  | bload (f : LM)
  | bdrain (f : LM)
  -- The matrix unit's instructions (Table 20.1)
  | tld (f : LM)
  | tst (f : LM)
  | tzero (f : LM)
  | mma (f : LM)
  | mmas (f : LM)
  | mmar (f : LM)
  | adrain (f : LM)
  | ald (f : LM)
  | msync (f : LM)
  -- Copy engine and decoder commands (Table 21.2)
  | cpy (f : LM)
  | cpyBrdx (f : LM)
  | cpyBrdc (f : LM)
  | cpyMig (f : LM)
  | cpy2 (f : LM)
  | cgath (f : LM)
  | cscat (f : LM)
  | cdec (f : LM)
  | cfill (f : LM)
  | bxf (f : LM)
  | cpoll (f : LM)
  | cwait (f : LM)
  | cwpos (f : LM)
  | ccancel (f : LM)
  | cred (f : LM)
  -- Errors, joins, straits and scalar replies (R35, R53, R54, R95)
  | vdUncorrectableError (vf : Nat)
  | peerJoinRequest (vf dev peerVf : Nat) (identity tenantKey : BitVec 512) (peerOk : Bool)
  | peerJoinEnd (vf dev : Nat)
  | straitHopForward (dest : BitVec 5) (hops : Nat)
  -- Steps whose operand, if any, stands in the state: the packet at its place (State.turn), the command under service
  -- (State.cmd, State.tcmd) or the issuing thread (State.cur)
  -- Boot, readiness, links, thermal and power (R12 to R30)
  | powerOnBoot
  | recoveryImageCheck
  | holmUncorrectableError
  | moduleResetTakesEffect
  | thermalStep
  | thermalShutdown
  -- Management ownership (R52, R53)
  | heartbeat
  | heartbeatGapExpiry
  | ownerClaim
  | ownerHandover
  | ownerAccept
  | handoverTimeout
  | mctpClaim
  | mctpHeartbeat
  | mctpHandover
  | mctpAccept
  -- Control commands (Table 2.7)
  | controlEntryRefused
  | vdCreate
  | vdDestroy
  | vdPause
  | vdResume
  | vdEvict
  | vdRestore
  | vdReset
  | frameGrant
  | frameReclaim
  | sliceSet
  | atollSplit
  | atollMerge
  | waysSet
  | powerCap
  | query
  | domainSet
  | routeSet
  | moduleReset
  | vdJoin
  -- Tenant commands (Table 2.8)
  | progLoad
  | memWrite
  | memRead
  | graphSubmit
  | hostWindow
  | attest
  | routeWaitExpiry
  -- Results, waits and non-instructions (R95, R96, R106, R107, R261)
  | classVReply
  -- Page faults and translation (R119 to R122, R149, R286)
  | faultMessageAtSlice
  | fwakeAtSlice
  | wakeArrival
  | tlbInvalidation
  | faultSliceCsrAccess
  -- Places and homes (R66, R104, R109, R153, R157, R159, R169, R175, R187, R199, R205, R207, R208, R341)
  | memoryAccessAtPlace
  | atomicAtPlace
  | migrationForward
  | syncOpAtObject
  | haloPush
  | barrierArrivalAtHome
  | messageArrival
  | qsigAddAtCore
  | mapOpAtHome
  | windowOpAtHome
  | grantRequestAtHome
  | partialSumAtHome
  | bloadAtHome
  | forcedDrainRequest
  -- The matrix unit (R90, R366, R375)
  | mmarLanding
  -- Copy engines and decoders (R59, R137, R382, R387)
  | bxfChunkAtBank
  -- CSRs, branches, traps and thread control (R285 to R297)
  | eret
  | halt
  | yield
  | nop
  | mfree
  -- Errors, joins, straits and scalar replies (R35, R53, R54, R95)
  | scalarLoadReply
deriving DecidableEq, Repr

end Sys2Proof
end

