-- ==== Sys2Proof/WellFormed.lean ====
section
/-! DEFINITION. Which instruction words are instructions: the checks of Table 14.9 and of the field tables 16.1, 17.2,
19.1, 20.1 and 21.2. A step of another agent than an issuing slot has no word and is well formed as it stands. -/

namespace Sys2Proof

/-- The reasons for which a word pattern is no instruction (Table 14.9). Each raises ILLEGAL alike. -/
inductive Bad where
  | unassigned      -- an opcode of either space that Tables 14.7 and 14.8 leave unassigned
  | permanent       -- an opcode of 0xF8 to 0xFF
  | length          -- a LEN the opcode does not have
  | reserved        -- a zero field that is not zero (R258)
  | fmt             -- an element type the instruction does not accept
  | rounding        -- rm 5 to 7, or rm on an instruction that never rounds (R213)
  | saturation      -- sat where the entry defines none
  | hint            -- hint 3 to 7, or a hint where none is accepted
  | tag             -- ta on a class F instruction or an engine command (R98)
  | guard           -- `not p0`, or a guard where none is taken
  | semaphore       -- wq with wt 0, gq with gv 0, or QWAIT with wt 0
  | sub             -- an fn value, condition, scope, operation or immediate the entry does not assign
  | register        -- a register number outside the kind of register the field names
  | mode            -- an address mode the instruction does not take, or a literal with mode 2
deriving DecidableEq, Repr

/-- What a register field of a long instruction names. -/
inductive Field where
  | zero            -- not used: must be zero (R258)
  | any             -- every value names a register
  | below (n : Nat) -- the value is below n
  | even            -- the even vector registers (R349)
deriving DecidableEq, Repr

/-- The field holds a value its kind admits. -/
def Field.ok (k : Field) (x : Nat) : Bool :=
  match k with
  | .zero => x == 0
  | .any => true
  | .below n => decide (x < n)
  | .even => x % 2 == 0

/-! ### The type sets of R302 and their neighbours -/

def isFL (t : Nat) : Bool := t == 6 || t == 7 || t == 8
def isIN (t : Nat) : Bool := decide (1 ≤ t ∧ t ≤ 5)
def isLG (t : Nat) : Bool := decide (t ≤ 5) || t == 14
def isLP (t : Nat) : Bool := decide (t ≤ 5)
def isEL (t : Nat) : Bool := decide (t ≤ 10) || t == 14
def isBlock (t : Nat) : Bool := decide (11 ≤ t ∧ t ≤ 13)

/-- The element width in bits of a format tag (Table 11.1); SP24 has no element and reads as eight bits. -/
def tagWidth (t : Nat) : Nat :=
  match t with
  | 3 | 6 | 7 => 16
  | 4 | 8 => 32
  | 5 => 64
  | 13 | 14 => 4
  | _ => 8

/-- When an LV instruction takes a rounding mode: never, for the float types only, or always (Table 16.1). -/
inductive When where
  | never
  | floats
  | ints
  | always
deriving DecidableEq, Repr

def When.holds (k : When) (t : Nat) : Bool :=
  match k with
  | .never => false
  | .floats => isFL t
  | .ints => isIN t
  | .always => true

/-- The first of a list of checks that fails. -/
def firstBad : List (Bool × Bad) → Option Bad
  | [] => none
  | (ok, b) :: rest => if ok then firstBad rest else some b

/-- A guard pair: `not p0` is no guard (Table 14.9). -/
def guardOk (p : BitVec 3) (inv : BitVec 1) : Bool := !(p == 0#3 && inv == 1#1)

/-- One row of Table 16.1: class V, the fields d a b c, the types, rm, sat, whether a guard is taken, and fn21. -/
def checkLV (classV : Bool) (d a b c : Field) (types : Nat → Bool) (rm sat : When) (guard : Bool)
    (fn : Bool) (f : LV) : Option Bad :=
  firstBad [
    (classV || f.ta == 0#3, .tag),
    (f.hint == 0#3, .hint),
    (types f.fmt.toNat, .fmt),
    (if rm.holds f.fmt.toNat then decide (f.rm.toNat ≤ 4) else f.rm == 0#3, .rounding),
    (sat.holds f.fmt.toNat || f.sat == 0#1, .saturation),
    (d.ok f.d.toNat && a.ok f.a.toNat && b.ok f.b.toNat && c.ok f.c.toNat, .register),
    (f.e == 0#6, .reserved),
    (guardOk f.pa f.paInv && guardOk f.pb f.pbInv, .guard),
    (guard || (f.pa == 0#3 && f.paInv == 0#1 && f.pb == 0#3 && f.pbInv == 0#1), .guard),
    (fn, .sub)]

/-- What a literal is for an LM instruction (R256, R385): not defined, an offset beside the base, or a length. -/
inductive Literal where
  | none
  | offset
  | length
deriving DecidableEq, Repr

def literalOk (k : Literal) (f : LM) : Bool :=
  match k, f.lit with
  | _, Option.none => true
  | .none, some _ => false
  | .offset, some _ => f.sb == 0#5 && f.mode != 2#2
  | .length, some _ => f.v == 0#6

/-- One row of Tables 17.2, 19.1, 20.1 or 21.2: class V, the fields sa sb sc v, the types, whether a guard, a mode, a
hint or saturation is taken, the literal, and the row's own conditions. -/
def checkLM (classV : Bool) (sa sb sc v : Field) (types : Nat → Bool) (guard mode hint sat : Bool)
    (lit : Literal) (own : Bool) (f : LM) : Option Bad :=
  firstBad [
    (literalOk lit f, .length),
    (classV || f.ta == 0#3, .tag),
    (f.hint == 0#3 || (hint && decide (f.hint.toNat ≤ 2)), .hint),
    (types f.fmt.toNat, .fmt),
    (sat || f.sat == 0#1, .saturation),
    (sa.ok f.sa.toNat && sb.ok f.sb.toNat && sc.ok f.sc.toNat && v.ok f.v.toNat, .register),
    (guardOk f.pg f.pgInv, .guard),
    (guard || (f.pg == 0#3 && f.pgInv == 0#1), .guard),
    (mode || f.mode == 0#2, .mode),
    (f.wt != 0#6 || f.wq == 0#8, .semaphore),
    (f.gv != 0#4 || f.gq == 0#8, .semaphore),
    (own, .sub)]

def onlyZero (t : Nat) : Bool := t == 0

/-- A predicate field of a short instruction (R274). -/
def predOk (r : SReg) : Bool := decide (r.toNat < 8)

def allOk (l : List (Bool × Bad)) : Option Bad := firstBad l

/-- The types of Table 11.10's A operands. -/
def isProductType (t : Nat) : Bool :=
  t == 1 || t == 6 || t == 7 || t == 9 || t == 10 || t == 11 || t == 12 || t == 13 || t == 14

/-- The types of Table 20.6. -/
def isDrainType (t : Nat) : Bool :=
  t == 1 || t == 4 || (decide (6 ≤ t ∧ t ≤ 13))

/-- The source type of a TLD: zero in fn6[3:0] stands for fmt (Table 20.1). -/
def tldSource (f : LM) : Nat :=
  let s := f.fn.toNat % 16
  if s = 0 then f.fmt.toNat else s

/-- The pairs of Table 20.5 and the further conditions of R362. -/
def tldOk (f : LM) : Bool :=
  let t := f.fmt.toNat
  let s := tldSource f
  if f.fn.getLsbD 5 then
    t == 0 && f.fn.toNat % 32 == 0 && f.sat == 0#1 && f.sc == 0#5
  else
    t != 0 &&
    (s == t || ((t == 6 || t == 7 || t == 9 || t == 10) && decide (6 ≤ s ∧ s ≤ 13))) &&
    !(f.fn.getLsbD 4 && (isBlock s || s == 14)) &&
    (f.sc == 0#5 || isBlock s || isBlock t)

/-- The source and part of a VCVT (R309). -/
def vcvtOk (f : LV) : Bool :=
  let s := f.fn.toNat % 32
  let t := f.fmt.toNat
  let j := f.fn.toNat / 32 % 16
  let ws := tagWidth s
  let wd := tagWidth t
  isEL s && s != 0 && s != t && decide (f.fn.toNat < 512) && decide (j < max ws wd / min ws wd)

/-- The source and half of a VNZS (R315). -/
def vnzsOk (f : LV) : Bool :=
  let s := f.fn.toNat % 32
  let h := f.fn.toNat / 32 % 2
  decide (f.fn.toNat < 64) && (s == 3 || s == 4 || s == 5 || isFL s) && (h == 0 || tagWidth s == 16)

/-- A 16-byte key register is even (R349). -/
def k16Ok (f : LM) : Bool := !(f.fn.getLsbD 0 && f.sb.getLsbD 0)

/-- Table 14.9 for one instruction: none when it is an instruction, else the first reason found. -/
def check (i : Instr) : Option Bad :=
  match i with
  | .cmp _ _ _ cond => allOk [(decide (cond.toNat < 10), .sub)]
  | .waddr _ a _ mode => allOk [(decide (mode.toNat < 4), .sub), (mode != 1#7 || a == 0#5, .reserved)]
  | .shli _ _ imm => allOk [(decide (imm.toNat < 64), .sub)]
  | .shri _ _ imm => allOk [(decide (imm.toNat < 64), .sub)]
  | .srai _ _ imm => allOk [(decide (imm.toNat < 64), .sub)]
  | .pand d a b => allOk [(predOk d && predOk a && predOk b, .register)]
  | .por d a b => allOk [(predOk d && predOk a && predOk b, .register)]
  | .pxor d a b => allOk [(predOk d && predOk a && predOk b, .register)]
  | .pandn d a b => allOk [(predOk d && predOk a && predOk b, .register)]
  | .plen d _ width => allOk [(predOk d, .register), (decide (width.toNat < 5), .sub)]
  | .pcnt _ a width => allOk [(predOk a, .register), (decide (width.toNat < 4), .sub)]
  | .pany _ a => allOk [(predOk a, .register)]
  | .pfirst _ a width => allOk [(predOk a, .register), (decide (width.toNat < 4), .sub)]
  | .br a cc _ => allOk [(decide (cc.toNat < 6) || predOk a, .register)]
  | .ldf d _ b _ _ => allOk [(b != d || d == 0#5, .register)]
  | .amo _ _ _ op scope => allOk [(decide (op.toNat < 9), .sub), (decide (scope.toNat < 5), .sub)]
  | .cas _ _ _ scope => allOk [(decide (scope.toNat < 5), .sub)]
  | .acqRead _ _ scope => allOk [(decide (scope.toNat < 5), .sub)]
  | .acqWrite _ _ scope _ => allOk [(decide (scope.toNat < 5), .sub)]
  | .rel _ _ scope => allOk [(decide (scope.toNat < 5), .sub)]
  | .relYield _ _ scope => allOk [(decide (scope.toNat < 5), .sub)]
  | .fence scope => allOk [(decide (scope.toNat < 5), .sub)]
  | .pref kind _ _ => allOk [(decide (kind.toNat < 3), .sub)]
  -- Table 16.1
  | .vadd f => checkLV false .any .any .any .zero (fun t => isFL t || isIN t) .floats .ints true (f.fn == 0#21) f
  | .vsub f => checkLV false .any .any .any .zero (fun t => isFL t || isIN t) .floats .ints true (f.fn == 0#21) f
  | .vmul f => checkLV false .any .any .any .zero (fun t => isFL t || isIN t) .floats .ints true (f.fn == 0#21) f
  | .vfma f => checkLV false .any .any .any .any isFL .always .never true (f.fn == 0#21) f
  | .vfms f => checkLV false .any .any .any .any isFL .always .never true (f.fn == 0#21) f
  | .vmin f => checkLV false .any .any .any .zero (fun t => isFL t || isIN t) .never .never true (f.fn == 0#21) f
  | .vmax f => checkLV false .any .any .any .zero (fun t => isFL t || isIN t) .never .never true (f.fn == 0#21) f
  | .vabs f => checkLV false .any .any .zero .zero (fun t => isFL t || (isIN t && t != 2)) .never .ints true
      (f.fn == 0#21) f
  | .vneg f => checkLV false .any .any .zero .zero (fun t => isFL t || (isIN t && t != 2)) .never .ints true
      (f.fn == 0#21) f
  | .vand f => checkLV false .any .any .any .zero isLG .never .never true (f.fn == 0#21) f
  | .vor f => checkLV false .any .any .any .zero isLG .never .never true (f.fn == 0#21) f
  | .vxor f => checkLV false .any .any .any .zero isLG .never .never true (f.fn == 0#21) f
  | .vandn f => checkLV false .any .any .any .zero isLG .never .never true (f.fn == 0#21) f
  | .vshl f => checkLV false .any .any .any .zero isIN .never .never true (f.fn == 0#21) f
  | .vshr f => checkLV false .any .any .any .zero isIN .never .never true (f.fn == 0#21) f
  | .vsra f => checkLV false .any .any .any .zero isIN .never .never true (f.fn == 0#21) f
  | .vmulh f => checkLV false .any .any .any .zero isIN .never .never true (f.fn == 0#21) f
  | .vdiv f => checkLV true .any .any .any .zero isFL .always .never true (f.fn == 0#21) f
  | .vsqrt f => checkLV true .any .any .zero .zero isFL .always .never true (f.fn == 0#21) f
  | .vrcp f => checkLV true .any .any .zero .zero (· == 8) .always .never true (f.fn == 0#21) f
  | .vrsq f => checkLV true .any .any .zero .zero (· == 8) .always .never true (f.fn == 0#21) f
  | .vexp2 f => checkLV true .any .any .zero .zero (· == 8) .always .never true (f.fn == 0#21) f
  | .vlog2 f => checkLV true .any .any .zero .zero (· == 8) .always .never true (f.fn == 0#21) f
  | .vsint f => checkLV true .any .any .zero .zero (· == 8) .always .never true (f.fn == 0#21) f
  | .vcost f => checkLV true .any .any .zero .zero (· == 8) .always .never true (f.fn == 0#21) f
  | .vtanh f => checkLV true .any .any .zero .zero (· == 8) .always .never true (f.fn == 0#21) f
  | .vcmp f => checkLV false (.below 8) .any .any .zero (fun t => isFL t || isIN t) .never .never true
      (decide (f.fn.toNat < 6)) f
  | .vsel f => checkLV false .any .any .any .zero isEL .never .never true (f.fn == 0#21) f
  | .vmov f => checkLV false .any .any .zero .zero onlyZero .never .never true (f.fn == 0#21) f
  | .vbcast f => checkLV false .any (.below 32) .zero .zero isEL .never .never true (f.fn == 0#21) f
  | .vextr f => checkLV false (.below 32) .any (.below 32) .zero isEL .never .never false (f.fn == 0#21) f
  | .vins f => checkLV false .any (.below 32) (.below 32) .zero isEL .never .never false (f.fn == 0#21) f
  | .vcvt f => checkLV false .any .any .zero .zero (fun t => isEL t && t != 0) .always .always true (vcvtOk f) f
  | .vqnt f => checkLV false .any .any (if f.fmt.toNat = 13 then .any else .zero) .zero isBlock .never .never false
      (decide (f.fn.toNat < (if f.fmt.toNat = 13 then 8 else 4))) f
  | .vdq f => checkLV false .any .any .zero .zero (· == 8) .never .never true (decide (f.fn.toNat < 8)) f
  | .vretag f => checkLV false .any .any .zero .zero (fun t => decide (t < 16)) .never .never false (f.fn == 0#21) f
  | .vperm f => checkLV false .any .any .any .any isLP .never .never true (f.fn == 0#21) f
  | .vrotl f => checkLV false .any .any (.below 32) .zero isLP .never .never true (f.fn == 0#21) f
  | .vzip f => checkLV false .any .any .any .zero isLP .never .never true (decide (f.fn.toNat < 2)) f
  | .vunzip f => checkLV false .any .any .any .zero isLP .never .never true (decide (f.fn.toNat < 2)) f
  | .vredadd f => checkLV true .any .any .zero .zero (fun t => isFL t || isIN t) .floats .ints true (f.fn == 0#21) f
  | .vredmax f => checkLV true .any .any .zero .zero (fun t => isFL t || isIN t) .never .never true (f.fn == 0#21) f
  | .vredmin f => checkLV true .any .any .zero .zero (fun t => isFL t || isIN t) .never .never true (f.fn == 0#21) f
  | .vscan f => checkLV true .any .any .zero .zero (fun t => isFL t || isIN t) (if f.fn == 0#21 then .floats else .never)
      (if f.fn == 0#21 then .ints else .never) true (decide (f.fn.toNat < 3)) f
  | .vnzs f => checkLV true .any .any (.below 32) (.below 32) (· == 4) .never .never true (vnzsOk f) f
  | .vdot4 f => checkLV false .any .any .any .any (· == 4) .never .always true (f.fn == 0#21) f
  | .vclz f => checkLV false .any .any .zero .zero isIN .never .never true (f.fn == 0#21) f
  | .vpopc f => checkLV false .any .any .zero .zero isIN .never .never true (f.fn == 0#21) f
  | .vidx f => checkLV false .any (.below 32) (.below 32) .zero isIN .never .never true (f.fn == 0#21) f
  -- Table 17.2
  | .vld f => checkLM true .any .any (if isBlock f.fmt.toNat then .any else .zero) .any (fun t => decide (t < 15))
      (!isBlock f.fmt.toNat) (!isBlock f.fmt.toNat) true false .offset (f.fn == 0#6) f
  | .vst f => checkLM true .any .any (if isBlock f.fmt.toNat then .any else .zero) .any (fun t => decide (t < 15))
      (!isBlock f.fmt.toNat) (!isBlock f.fmt.toNat) true false .offset (f.fn == 0#6) f
  | .vlds f => checkLM true .any .any .any .any (fun t => decide (1 ≤ t ∧ t ≤ 10)) true true true false .offset
      (f.fn == 0#6) f
  | .vsts f => checkLM true .any .any .any .any (fun t => decide (1 ≤ t ∧ t ≤ 10)) true true true false .offset
      (f.fn == 0#6) f
  | .vgath f => checkLM true .any .any .any .any (fun t => decide (1 ≤ t ∧ t ≤ 10)) true true true false .offset
      (decide (f.fn.toNat < 4)) f
  | .vscat f => checkLM true .any .any .any .any (fun t => decide (1 ≤ t ∧ t ≤ 10)) true true true false .offset
      (decide (f.fn.toNat < 4)) f
  | .vldf f => checkLM true .any .any .any .any (fun t => decide (t ≤ 10)) true true false false .offset true f
  | .vstf f => checkLM true .any .any .zero .any (fun t => decide (t ≤ 10)) true true false false .offset
      (f.fn == 0#6) f
  | .vamo f => checkLM true .any .any (.below 5) .any (fun t => t == 4 || t == 5 || t == 8) true true false false .offset
      (if f.fmt.toNat = 8 then f.fn == 9#6 else decide (f.fn.toNat < 9)) f
  | .qwait f => checkLM true .zero .zero .any .zero onlyZero false false false false .none
      (decide (f.fn.toNat < 32) && f.wt != 0#6) f
  | .qsig f => checkLM true .any .any .any .zero onlyZero false false false false .none (decide (f.fn.toNat < 5)) f
  | .barArriveWait f => checkLM true .any .any .any (.below 32) onlyZero false false false false .none
      (f.fn.toNat % 4 == 0 && decide (f.fn.toNat / 4 < 5)) f
  | .barArrive f => checkLM true .any .any .any .zero onlyZero false false false false .none
      (f.fn.toNat % 4 == 1 && decide (f.fn.toNat / 4 < 5)) f
  | .barWait f => checkLM true .any .any .any (.below 32) onlyZero false false false false .none
      (f.fn.toNat % 4 == 2 && decide (f.fn.toNat / 4 < 5)) f
  | .msend f => checkLM true .any .zero .any .any onlyZero false false false false .none (decide (f.fn.toNat < 8)) f
  | .mrecv f => checkLM true .zero .zero .any .any onlyZero false false false false .none (decide (f.fn.toNat < 32)) f
  -- Table 19.1
  | .mprobe f => checkLM true .any .any .any .any onlyZero false false false false .none
      (decide (f.fn.toNat < 2) && k16Ok f) f
  | .mins f => checkLM true .any .any .any .any onlyZero false false false false .none
      (decide (f.fn.toNat < 2) && k16Ok f) f
  | .mset f => checkLM true .any .any .any .any onlyZero false false false false .none
      (decide (f.fn.toNat / 2 < 5) && k16Ok f) f
  | .mrem f => checkLM true .any .any .any .any onlyZero false false false false .none
      (decide (f.fn.toNat < 2) && k16Ok f) f
  | .mprobev f => checkLM true .any .zero .any .even onlyZero true false false false .none (f.fn == 0#6) f
  | .msetv f => checkLM true .any .zero .any .even onlyZero true false false false .none
      (f.fn.toNat % 2 == 0 && decide (f.fn.toNat / 2 < 5)) f
  | .mstat f => checkLM true .any .any .any .any onlyZero false false false false .none (f.fn == 0#6) f
  | .miter f => checkLM true .any .any .any .any onlyZero false false false false .none
      (decide (f.fn.toNat < 4) && k16Ok f && f.sc != f.sb &&
        !(f.fn.getLsbD 0 && f.sc.toNat == f.sb.toNat + 1)) f
  | .wfeed f => checkLM true .any .zero .any .any onlyZero false false false false .none (f.fn == 0#6) f
  | .wread f => checkLM true .any .zero .any .any onlyZero false false false false .none (f.fn == 0#6) f
  | .wlen f => checkLM true .any .any .any .zero onlyZero false false false false .none (f.fn == 0#6) f
  | .badd f => checkLM true .any .any .any .any (fun t => t == 4 || t == 8) true false false false .none (f.fn == 0#6) f
  | .bload f => checkLM true .any .any .any .any (fun t => t == 4 || t == 8) false false false false .none
      (f.fn == 0#6) f
  | .bdrain f => checkLM true (if f.fn.getLsbD 0 then .zero else .any) .zero .any .zero onlyZero false false false false
      .none (decide (f.fn.toNat < 2)) f
  -- Table 20.1
  | .tld f => checkLM false .any .any .any (.below 8) (fun t => isProductType t || t == 0) false true false true .offset
      (tldOk f) f
  | .tst f => checkLM false .any .any .any (.below 8) onlyZero false true false false .offset (decide (f.fn.toNat < 5)) f
  | .tzero f => checkLM false .zero .zero .zero (.below (if f.fn.getLsbD 0 then 4 else 8)) onlyZero false false false
      false .none (decide (f.fn.toNat < 2)) f
  | .mma f => checkLM false (.below 4) (.below 8) (.below 8) .zero isProductType false false false false .none
      (f.fn == 0#6) f
  | .mmas f => checkLM false (.below 4) (.below 8) (.below 8) (.below 8) isProductType false false false false .none
      (decide (f.fn.toNat < 4)) f
  | .mmar f => checkLM false (.below 4) (.below 8) (.below 8) .zero isProductType false false false false .none
      (f.fn == 0#6) f
  | .adrain f => checkLM false .any .any (if isBlock f.fmt.toNat then .any else .zero) (.below 4) isDrainType false true
      false true .offset
      (decide (f.fn.toNat < 8) && f.fn.toNat % 4 != 3 && (f.fn.toNat % 4 == 0 || f.fmt.toNat == 8)) f
  | .ald f => checkLM false .any .any .zero (.below 4) (fun t => t == 4 || t == 8) false true false false .offset
      (f.fn == 0#6) f
  | .msync f => checkLM false .zero .zero .zero .zero onlyZero false false false false .none (f.fn == 0#6) f
  -- Table 21.2
  | .cpy f => checkLM false .any .any .any (.below 32) onlyZero false false false false .length
      (decide (f.fn.toNat < 5)) f
  | .cpyBrdx f => checkLM false .any .any .any (.below 32) onlyZero false false false false .length
      (f.fn.toNat / 8 == 1 && decide (f.fn.toNat % 8 < 5)) f
  | .cpyBrdc f => checkLM false .any .any .any (.below 32) onlyZero false false false false .length
      (f.fn.toNat / 8 == 2 && decide (f.fn.toNat % 8 < 5)) f
  | .cpyMig f => checkLM false .any .zero .any .zero onlyZero false false false false .length
      (f.fn.toNat / 8 == 3 && decide (f.fn.toNat % 8 < 5)) f
  | .cpy2 f => checkLM false .any .any .any (.below 32) onlyZero false false false false .none
      (decide (f.fn.toNat < 5)) f
  | .cgath f => checkLM false .any .any .any (.below 32) onlyZero false false false false .none
      (decide (f.fn.toNat < 5)) f
  | .cscat f => checkLM false .any .any .any (.below 32) onlyZero false false false false .none
      (decide (f.fn.toNat < 5)) f
  | .cdec f => checkLM false .any .any .any (.below 32) (fun t => t == 2 || t == 7) false false false false .none
      (decide (f.fn.toNat < 5)) f
  | .cfill f => checkLM false .any .any .any (.below 32) onlyZero false false false false .length
      (decide (f.fn.toNat < 5)) f
  | .bxf f => checkLM false .any .any .any (.below 32) (fun t => t == 0 || isFL t) false false false false .length
      (decide (f.fn.toNat < 32) && decide (f.fn.toNat % 8 < 5) && ((f.fn.toNat / 8 == 0) == (f.fmt.toNat == 0))) f
  | .cpoll f => checkLM true .any .zero .any .zero onlyZero false false false false .none (f.fn == 0#6) f
  | .cwait f => checkLM true .any .zero .any .zero onlyZero false false false false .none (decide (f.fn.toNat < 32)) f
  | .cwpos f => checkLM true .any .zero .any .zero onlyZero false false false false .none (f.fn == 0#6) f
  | .ccancel f => checkLM true .any .zero .any .zero onlyZero false false false false .none (f.fn == 0#6) f
  | .cred f => checkLM false .any .any .any (.below 32) (fun t => t == 4 || t == 5 || t == 8) false false false false
      .length (decide (f.fn.toNat % 8 < 5) &&
        (f.fmt.toNat != 8 || f.fn.toNat / 8 == 0 || f.fn.toNat / 8 == 4 || f.fn.toNat / 8 == 5)) f
  | _ => none

/-- The instruction meets every check of Table 14.9. -/
def WellFormed (i : Instr) : Prop := check i = none

end Sys2Proof
end

