-- ==== Sys2Proof/Machine/Bits.lean ====
section
/-! DEFINITION. Bit fields, sign extension, little-endian bytes and the elements of vector data (R4, R7, R210). -/

namespace Sys2Proof.Machine

/-- Bits [hi:lo] of a number. -/
def bits (x hi lo : Nat) : Nat := x / 2 ^ lo % 2 ^ (hi + 1 - lo)

/-- One bit of a number. -/
def bit (x i : Nat) : Bool := x.testBit i

/-- The signed value of the low w bits. -/
def toSigned (w x : Nat) : Int :=
  let y := x % 2 ^ w
  if w ≠ 0 ∧ 2 ^ (w - 1) ≤ y then (y : Int) - 2 ^ w else y

/-- The low w bits of an integer (R7: arithmetic is exact, then narrowed). -/
def ofSigned (w : Nat) (x : Int) : Nat := (x % (2 ^ w : Int)).toNat

/-- A 64-bit word from an integer, modulo 2^64. -/
def wordOfInt (x : Int) : Word := BitVec.ofInt 64 x

/-- Limit to a range (R283). -/
def clampInt (lo hi x : Int) : Int := if x < lo then lo else if hi < x then hi else x

/-! ### Little-endian bytes -/

/-- The number that bytes spell, the first the least significant (R4). -/
def leNat : List Byte → Nat
  | [] => 0
  | b :: bs => b.toNat + 256 * leNat bs

/-- The first n bytes of a number, least significant first. -/
def leBytes : Nat → Nat → List Byte
  | 0, _ => []
  | n + 1, x => BitVec.ofNat 8 x :: leBytes n (x / 256)

/-- A field of some bytes, read little-endian. -/
def fieldLE (bs : List Byte) (off size : Nat) : Nat := leNat ((bs.drop off).take size)

/-- Bytes off to off + new.length − 1 of old replaced by new. -/
def spliceBytes (old : List Byte) (off : Nat) (new : List Byte) : List Byte :=
  old.take off ++ new ++ old.drop (off + new.length)

/-- n bytes of zero. -/
def zeroBytes (n : Nat) : List Byte := List.replicate n 0

/-! ### Elements of a packed number: element i of width w lies at bit w × i (R210) -/

/-- Element i of width w. -/
def elem (w x i : Nat) : Nat := x / 2 ^ (w * i) % 2 ^ w

/-- The number whose elements of width w are the list, the first the least significant. -/
def packElems (w : Nat) : List Nat → Nat
  | [] => 0
  | x :: xs => x % 2 ^ w + 2 ^ w * packElems w xs

/-- The first n elements of width w. -/
def unpackElems (w : Nat) : Nat → Nat → List Nat
  | 0, _ => []
  | n + 1, x => x % 2 ^ w :: unpackElems w n (x / 2 ^ w)

/-- Element i of width w replaced. -/
def setElem (w x i v : Nat) : Nat :=
  x - elem w x i * 2 ^ (w * i) + v % 2 ^ w * 2 ^ (w * i)

/-- Element i of width w is active: bit w × i / 8 of the mask (R210). -/
def active (m : Mask) (w i : Nat) : Bool := m.getLsbD (w * i / 8)

/-- 0, 1, …, n − 1. -/
def upTo (n : Nat) : List Nat := List.range n

/-- The count of leading zeros of the low w bits. -/
def clzNat (w x : Nat) : Nat := if x % 2 ^ w = 0 then w else w - 1 - Nat.log2 (x % 2 ^ w)

/-- The count of trailing zeros of the low w bits. -/
def ctzNat : Nat → Nat → Nat
  | 0, _ => 0
  | w + 1, x => if x % 2 = 1 then 0 else 1 + ctzNat w (x / 2)

/-- The count of set bits of the low w bits. -/
def popNat : Nat → Nat → Nat
  | 0, _ => 0
  | w + 1, x => x % 2 + popNat w (x / 2)

/-- The signed or unsigned value of an integer element by its tag: U8 and RAW unsigned (R301, R308). -/
def intVal (t x : Nat) : Int :=
  if t = 1 ∨ t = 3 ∨ t = 4 ∨ t = 5 ∨ t = 14 then toSigned (tagWidth t) x else (x % 2 ^ tagWidth t : Nat)

/-- The least and the greatest value of an integer type. -/
def intRange (t : Nat) : Int × Int :=
  let w := tagWidth t
  if t = 0 ∨ t = 2 then (0, 2 ^ w - 1) else (-(2 ^ (w - 1)), 2 ^ (w - 1) - 1)

end Sys2Proof.Machine
end

