-- ==== Sys2Proof/Machine/State.lean ====
section
/-! DEFINITION. The state of the Turnum N8 module: plain data, every piece of state the manual names, and the model's
own bookkeeping of what is in flight between two of its steps. -/

namespace Sys2Proof.Machine

/-! ### Threads: what a slot owns (Table 5.1) -/

/-- A vector register: 2048 data bits, a 128-bit side word and a format tag (R92, R210). -/
structure VVal where
  data : VData
  side : BitVec 128
  tag : Tag
deriving DecidableEq, Repr

/-- A zero register tagged RAW (Table 4.8). -/
def VVal.zero : VVal := ⟨0, 0, 0⟩

/-- The name of a thread's slot: virtual function, core as an offset from the atoll's first core, slot number. -/
structure Tid where
  vf : Nat
  core : Nat
  slot : Nat
deriving DecidableEq, Repr

/-- A class F result that is not visible yet (R96): its registers, its flags and the cycle it becomes visible. -/
structure Pending where
  due : Nat
  seq : Nat
  v : List (VReg × VVal)
  s : List (SReg × Word)
  p : List (PReg × Mask)
  flags : BitVec 6
deriving DecidableEq, Repr

/-- A request to a synchronisation object (R159). -/
structure SyncReq where
  rel : Bool
  write : Bool                  -- write mode of ACQ
  yield : Bool
  handle : Nat
  row : Nat
  col : Nat
  scope : Nat
  halt : Bool                   -- made by HALT for a kept token (R168)
  object : Nat                  -- virtual address
  stage : Nat                   -- steps already made: sums sent (1), pushes started (2), token granted (3)
deriving DecidableEq, Repr

/-- The kinds of access of R118's KIND field and the fetch. -/
inductive AccKind where
  | read
  | write
  | fetch
  | atomic
deriving DecidableEq, Repr

/-- What an access to one single-copy-atomic unit does there (R155). -/
inductive AccOp where
  | loadS (signed : Bool)       -- a scalar load of `size` bytes
  | loadV                       -- bytes into the op's vector result at `dst`
  | store                       -- bytes of `data`
  | storeFull                   -- STF, VSTF (R327)
  | setEmpty                    -- FECLR
  | loadFull (consume : Bool)   -- LDF, VLDF: a full word's value (R326)
deriving DecidableEq, Repr

/-- One access: its virtual address, its bytes (bit i of `mask` is byte i), the byte of the result it fills, and the bytes of
each of its elements. -/
structure Access where
  va : Nat
  size : Nat
  mask : Nat
  op : AccOp
  data : Nat
  dst : Nat
  elem : Nat
deriving DecidableEq, Repr

/-- A read-modify-write (R175): operation code of R329, 9 for .fadd, 15 for compare-and-exchange. -/
structure AtomicReq where
  code : Nat
  width : Nat                   -- bits
  va : Nat
  operand : Nat
  compare : Nat
  scope : Nat
  dst : Option Nat              -- element of the vector result; none: the scalar result
deriving DecidableEq, Repr

/-- One part of an instruction's work in memory. -/
inductive Part where
  | access (a : Access)
  | atomic (r : AtomicReq)
deriving DecidableEq, Repr

/-- Why an outstanding instruction waits (R106, R107). -/
inductive WaitKind where
  | none
  | latch                                   -- SLEEP (R294)
  | claim                                   -- MCLAIM (R102, R296)
  | full                                    -- LDF and VLDF: their packets wait at their words (R326, R328)
  | token (r : SyncReq)                     -- a write acquire queued at its object (R164)
  | sem (q amount : Nat)                    -- QWAIT (R340)
  | phase (va : Nat) (parity : Bool) (counted : Bool) (scope : Nat)   -- BAR (R109)
  | inbox (v : VReg)                        -- MRECV (R344)
  | job (id : Nat)                          -- CWAIT (R401)
deriving DecidableEq, Repr

/-- An instruction that has issued and whose results have not been written: a class V instruction, a scalar load, or an
instruction that stalls its slot until its result arrives (R95, R98). -/
structure Op where
  seq : Nat                     -- its position in the slot's stream
  pc : Word
  words : Nat
  ta : Nat                      -- its tag; 0 when it has none
  sync : Bool                   -- the slot issues nothing until it ends
  issued : Nat                  -- the cycle it issued
  left : Nat                    -- parts not performed yet
  wait : WaitKind
  deadline : Option Nat         -- the cycle its timeout expires (R106)
  v : List (VReg × VVal)        -- vector results as far as they are known
  s : List (SReg × Word)        -- scalar results; their registers are interlocked
  p : List (PReg × Mask)
  flags : BitVec 6
  gq : Nat                      -- the semaphore signalled on completion (R257)
  gv : Nat
  dropped : Bool                -- a refused access: nothing is written (R122)
  scalar : Bool                 -- a scalar load, delivered by SCALAR_LOAD_REPLY
  note : Nat                    -- a count the reply reports (forced drains, lines drained)
  again : List Part             -- what an LDF or VLDF sends when it issues afresh after pre-emption (R88)
  since : Nat                   -- the cycle its wait began: waiters are met in this order (R107)
  dies : List Nat               -- dies its replies come from (R12)
deriving DecidableEq, Repr

/-- Where an address leads (R131, R140): a core's storage, device memory, a host window or another module. -/
inductive Place where
  | window (core off : Nat)               -- core as an offset from the atoll's first core (R132)
  | dram (pa : Nat) (cls : Nat) (cmp bs : Bool) (mig : Option (Nat × Nat × Nat))
      -- mig: destination device and address, and the virtual address of the access
  | host (addr : Nat)
  | remote (dev tpa : Nat)
deriving DecidableEq, Repr

/-- An access held by a page fault (R118), or, with cause 0, by a missing frame (R49). With a flight it waits at its
home (R192); with neither flight nor access it is an instruction fetch, or the launch read of TRAPVEC (R116). -/
structure Held where
  seq : Nat
  va : Nat
  cause : Nat
  frame : Nat                   -- the missing tenant frame
  kind : AccKind
  pc : Word                     -- of its instruction
  words : Nat
  part : Option Part
  flight : Option Nat
  woken : Bool                  -- woken while saved: it retries on resume (R130)
deriving DecidableEq, Repr

/-- A token's record at the core (R167). -/
structure Token where
  lo : Nat
  hi : Nat
  object : Nat                  -- virtual address of the object
  handle : Nat
  halo : Bool
  scope : Nat
  row : Nat
  col : Nat
deriving DecidableEq, Repr

/-- Which node a thread belongs to. -/
structure TeamRef where
  graph : Nat
  node : Nat
  gang : Bool
  leader : Nat                  -- core offset of rank 0
  dist : Nat                    -- cycles behind the leader (R84)
deriving DecidableEq, Repr

/-- One of a core's four slots (Table 5.1, Table 4.8, Table 14.11). -/
structure Slot where
  live : Bool
  s : Vector Word 32
  v : Vector VVal 64
  p : Vector Mask 8
  pc : Word
  priv : Bool                   -- true: S mode
  tags : BitVec 8               -- bit t: tag t is busy (R98)
  claim : Bool
  gen : BitVec 16
  latch : Bool                  -- R294
  fpflags : BitVec 6
  rmode : BitVec 3
  waitlim : BitVec 5
  trapcause : BitVec 4
  trappc : Word
  trapval : Word
  trapvec : Word
  trapst : BitVec 8
  tdim : Vector Word 8
  adim : Vector Word 4
  rank : BitVec 12
  tsize : BitVec 13
  mailbox : Nat                 -- outstanding faults (R118)
  record : Option (Nat × Nat)   -- the first one's page and cause
  held : List Held
  tokens : List Token           -- R167
  team : Option TeamRef
  seq : Nat                     -- the number of the next instruction; 0 is never one
  halting : Option Bool         -- HALT or a double trap (true: aborted) under way (R292)
  dying : Bool                  -- after a double trap it still waits for its tags, as HALT does (R116, R292)
  pend : List Pending           -- R96
  ops : List Op
  semWait : Option Nat          -- the cycle the semaphore-field wait began (R257)
  yielded : Option (Nat × List Nat)   -- cycle of a YIELD and the slots that still have to issue (R293)
  took : Option (Nat × Nat)     -- semaphore and amount the instruction at pc has already taken (R386)
  lapsed : Bool                 -- its wait for a semaphore field has run out; its gang has yet to issue (R111, R257)
  hub : Option Nat              -- the cycle in which its instruction at pc began to wait for a strait (R17, R76)
  refusal : Option (Nat × Nat × Word × Nat)   -- lowest refused address; seq, pc, words of its instruction (R122)
  tokenless : Bool              -- what is refused are accesses that found no token when they were tried again (R318)
  traps : Nat                   -- trap entries so far
  bootVec : Bool                -- TRAPVEC is still to be read (R116)
  away : Option Nat             -- the cycle in which its fetch began to wait for a strait (R17)
  born : Nat                    -- the number of the thread's first instruction
  late : Option (SReg × Nat)    -- a scalar result on its way, and the cycle of its arrival (R95, R274)
deriving DecidableEq, Repr

/-- An idle slot as R129 leaves it. -/
def Slot.idle : Slot where
  live := false
  s := Vector.replicate 32 0
  v := Vector.replicate 64 VVal.zero
  p := Vector.replicate 8 0
  pc := 0
  priv := false
  tags := 0
  claim := false
  gen := 0
  latch := false
  fpflags := 0
  rmode := 0
  waitlim := 31
  trapcause := 0
  trappc := 0
  trapval := 0
  trapvec := 0
  trapst := 0
  tdim := Vector.replicate 8 0
  adim := Vector.replicate 4 0
  rank := 0
  tsize := 0
  mailbox := 0
  record := none
  held := []
  tokens := []
  team := none
  seq := 1
  halting := none
  dying := false
  pend := []
  ops := []
  semWait := none
  yielded := none
  took := none
  lapsed := false
  hub := none
  refusal := none
  tokenless := false
  traps := 0
  bootVec := false
  away := none
  born := 1
  late := none

/-! ### Cores: what the slots share (Table 5.2, Table 6.9) -/

/-- A tile: 64 rows of 96 bytes, 256 side bytes, a tag (R92). -/
structure Tile where
  data : BitVec 49152
  side : BitVec 2048
  tag : Tag
deriving DecidableEq, Repr

/-- An accumulator: 64 × 64 elements of 32 bits, a tag. -/
structure Acc where
  data : BitVec 131072
  tag : Tag
deriving DecidableEq, Repr

/-- The nine matrix instructions. -/
inductive MatKind where
  | tld
  | tst
  | tzero
  | mma
  | mmas
  | mmar
  | adrain
  | ald
  | msync
deriving DecidableEq, Repr

/-- An accepted matrix operation (R365): the instruction with every operand as it stood at acceptance. -/
structure MatOp where
  kind : MatKind
  f : LM
  slot : Nat
  seq : Nat
  tdim : Vector Word 8
  adim : Vector Word 4
  rmode : Nat
  te : Nat
  priv : Bool
  sum : Nat                     -- s[sa] + off, the displacement 0 of R321
  core : Nat                    -- the core of mode 2
  off : Nat                     -- off of R321, for the side offsets
  side : Nat                    -- s[sc]
  moved : Nat                   -- pieces of a transfer already moved
  got : List Byte               -- bytes a load has already read
  fault : Option Nat            -- waits on a fault of this page (R379)
  frame : Option (Nat × Nat)    -- waits for a tenant frame at an address (R49)
  away : Option Nat             -- the cycle it began to wait for a strait (R17)
  exchange : Option Nat         -- the cycle MMAR's exchange began (R375)
  refused : Bool                -- R379
  done : Bool
  flags : BitVec 6
deriving DecidableEq, Repr

/-- An inbox entry (Table 5.6): the header's low 35 bits and the payload, in order of arrival. -/
structure Message where
  entry : Nat                   -- entry number 0–63
  header : BitVec 64
  payload : BitVec 448
deriving DecidableEq, Repr

/-- A line of the sum buffer (R205, R206). -/
structure SumLine where
  handle : Nat
  line : Nat                    -- unit number
  va : Nat                      -- of its first byte
  float : Bool
  grant : Nat                   -- g, as an integer or as FP32 bits
  p : List Nat                  -- 32 partial sums
  t : List Nat                  -- 32 magnitude trackers
deriving DecidableEq, Repr

/-- An L1 line (R138, R158): which of its bytes are dirty. -/
structure L1Line where
  line : Nat                    -- pa / 128
  va : Nat                      -- the virtual address it was filled under
  data : BitVec 1024
  dirty : BitVec 128
  home : Nat                    -- die of its home
deriving DecidableEq, Repr

/-- A combined translation of the TLB (R148): the page key, its value, and the fill's order. -/
structure TlbEntry where
  key : Nat
  value : BitVec 128
deriving DecidableEq, Repr

/-- A descriptor held by a region cache (R145). -/
structure RegionEntry where
  handle : Nat
  bytes : BitVec 512
deriving DecidableEq, Repr

/-- A core's context of one virtual device. -/
structure Core where
  slots : Vector Slot 4
  tiles : List (Nat × Tile)     -- a tile not listed is zero, tagged RAW
  accs : List (Nat × Acc)
  queue : List MatOp
  claims : List (Nat × Nat)     -- waiting claims: slot and seq, in issue order (R102)
  fault : Bool                  -- MATQ.FAULT, MATQ.ROTTO (R364)
  rotto : Bool
  la : Option (BitVec 49152 × BitVec 2048)   -- landing buffers (R375)
  lb : Option (BitVec 49152 × BitVec 2048)
  sems : List (Nat × Nat)       -- a semaphore not listed is 0
  inbox : List Message          -- the valid entries, in order of arrival
  taken : List Message          -- the entries that have been freed, the one freed first leading, as a window reads them (R104)
  spill : List Message          -- R125
  sram : List Host.Cell         -- scratchpad bytes; a byte not listed is 0
  sramFull : List Nat           -- scratchpad words (offset / 8) that are full
  l1size : Nat                  -- SRAMCFG.L1SIZE in force
  rampdummy : Nat               -- R91
  sums : List SumLine           -- R205, most recently used last
  l1 : List L1Line
  tlb : List TlbEntry
  regions : List RegionEntry
  fetched : List (Nat × Word)   -- the fetch buffer, by 8-byte units of virtual addresses (R262)
  last : Nat                    -- the slot that issued last (R93)
  lastCycle : Option Nat        -- the cycle in which the core last issued
  table : Word                  -- the RGNTAB in force for this core (R286)
  halted : Bool                 -- stopped for a context save (R125)
deriving DecidableEq, Repr

/-- The core of R129: idle slots, zero storage. L1SIZE is set at the first start (R63). Before any slot has issued, the search of
R93 begins at slot 0 (DESIGN CHOICE, log entry 128). -/
def Core.zero : Core where
  slots := Vector.replicate 4 Slot.idle
  tiles := []
  accs := []
  queue := []
  claims := []
  fault := false
  rotto := false
  la := none
  lb := none
  sems := []
  inbox := []
  taken := []
  spill := []
  sram := []
  sramFull := []
  l1size := 1
  rampdummy := 0
  sums := []
  l1 := []
  tlb := []
  regions := []
  fetched := []
  last := 3
  lastCycle := none
  table := 0
  halted := false

/-! ### Objects at the homes -/

/-- A waiter for a write token (R164). -/
structure TokenWaiter where
  tid : Tid
  seq : Nat
  req : SyncReq
  token : Token                 -- what it is granted, as the descriptor stood at its request
deriving DecidableEq, Repr

/-- One shard of a map (R183, R187): its layout as the manual describes it, beyond the private arrangement. -/
structure Shard where
  backs : List (Nat × Nat × Nat)   -- where its slab lies: offset, address behind it, bytes (R192)
  size : Nat
  desc : Nat                    -- KINDF it is laid out by
  entries : List (Nat × Nat × Nat)   -- hash, key, value, in increasing (h, key)
  c : Nat                       -- log2 of the capacity
  growing : Bool
  next : Nat
  zeroed : List (Nat × Nat)     -- byte ranges zeroed since its last operation (R183)
deriving DecidableEq, Repr

/-- A window (R199). -/
structure Win where
  backs : List (Nat × Nat × Nat)
  size : Nat
  desc : Nat
  zeroed : List (Nat × Nat)
  w : Nat
  front : List (List Nat)       -- suffix aggregates, the top first
  back : List (List Nat)        -- contributions, oldest first
  agg : List Nat
deriving DecidableEq, Repr

/-- The grants of one line of bounded sums (R205, R208): core offsets holding a non-zero grant, and BLOADs waiting. -/
structure Grants where
  handle : Nat
  line : Nat
  holders : List (Nat × Nat)    -- core offset, grant
  waiting : List Nat            -- flights of BLOADs that wait
deriving DecidableEq, Repr

/-- A fault outstanding at the fault slice (R119). -/
structure SliceFault where
  fid : Nat
  page : Nat
  va : Nat
  cause : Nat
  kind : AccKind
  engine : Bool
  first : Nat                   -- SRC bits [27:0] of the first requester
  merged : Nat
  threads : List Tid            -- the slots a wake must reach
  jobs : List (Nat × Nat)       -- engine jobs a wake must reach: isle and key
  launches : List (Nat × Nat)   -- nodes whose launch waits: graph and node
  matrix : List Nat             -- cores whose matrix queue waits
  sent : Bool                   -- its record has reached the pager
deriving DecidableEq, Repr

/-! ### Graphs (chapter 4) -/

/-- A node's progress. -/
inductive NodeState where
  | waiting                     -- PREDS not zero
  | pooled (die : Nat)
  | placed (die : Nat)          -- cores reserved, not launched
  | running
  | draining (aborted : Bool)   -- every thread has ended; stores and sum buffers drain (R77)
  | done
deriving DecidableEq, Repr

/-- A node of an accepted graph's snapshot (R72, R75). -/
structure Node where
  entry : Nat
  args : Nat
  shape : Nat
  isles : Nat
  slots : Nat                   -- slots per core
  prio : Nat
  gang : Bool
  preds : Nat
  succ : List Nat
  evt : Nat
  homes : List (Nat × Nat × Bool × Nat)   -- operand objects found at acceptance: die, pa, token counts, mode (R81)
  state : NodeState
  ready : Nat                   -- the cycle it became ready
  aged : Nat                    -- steps of effective priority gained (R79)
  place : List (Nat × List Nat) -- core offset and slots, once placed
  count : Nat                   -- threads not yet ended (Table 4.9)
  aborted : Bool
  faulted : Option Nat          -- the page its launch waits on (R83)
  frame : Option Nat            -- the tenant frame its launch waits for (R49)
  away : Option Nat             -- the cycle its launch began to wait for a strait (R17)
deriving DecidableEq, Repr

/-- A live graph (R71, R75). -/
structure Graph where
  id : Nat
  evt : Nat
  user : Nat
  nodes : List Node
  aborted : Bool
deriving DecidableEq, Repr

/-! ### Engines (chapter 21) -/

/-- A job's state (Table 21.8). -/
inductive JobState where
  | queued
  | running (engine : Nat)
  | parked
  | ended (status : Nat)
deriving DecidableEq, Repr

/-- The kinds of job (Table 21.2). -/
inductive JobKind where
  | cpy
  | brdx
  | brdc
  | mig
  | cpy2
  | cgath
  | cscat
  | cfill
  | cred
  | bxf
  | cdec
deriving DecidableEq, Repr

/-- One write of a job: bytes, or one element of w bits combined at its place, or one element of 4 bits with the bytes it
brings the write position on; bytes of a side base or a patch table, which the write position does not count; or an element
that is dropped and counts as delivered (R388, R396). -/
inductive Put where
  | bytes (va : Nat) (bs : List Byte)
  | combine (va w op x : Nat)
  | nibble (va : Nat) (hi : Bool) (x n : Nat)
  | side (va : Nat) (bs : List Byte)
  | skip (n : Nat)
deriving DecidableEq, Repr

/-- A job (R382, R383): the command with every operand as it stood at acceptance. -/
structure Job where
  id : Nat
  vf : Nat
  core : Nat                    -- issuing core's offset
  slot : Nat
  gen : Nat                     -- of the issuing thread
  seq : Nat                     -- of its command
  kind : JobKind
  f : LM
  prio : Nat
  age : Nat                     -- the cycle of acceptance
  dst : Nat
  src : Nat                     -- s[sb]: an address or an operand
  len : Nat
  desc : BitVec 512
  rmode : Nat
  priv : Bool
  pos : Nat                     -- what has been produced: bytes, elements, or patches
  spos : Nat                    -- source bytes used (a BRD stream); 1 once a migration has switched
  wpos : Nat                    -- WPOS: what has been written (R388)
  carry : List Byte             -- source bytes read and not used yet
  cells : List (Nat × Nat)      -- source units of 8 bytes read and still of use: address / 8 and value
  staged : List Put             -- produced and not written yet
  entries : List (Nat × Nat)    -- list entries read: number and value
  state : JobState
  faultPage : Option Nat
  frame : Option (Nat × Nat × AccKind)   -- waits for a tenant frame at an address (R49)
  away : Option Nat             -- the cycle it began to wait for a strait (R17)
  saved : Bool                  -- parked by pre-emption (R125)
  decoder : Option Nat          -- the decoder bound to it
  begun : Bool                  -- an engine has begun it: its thread's accesses before it have been performed (R172)
  uneven : Bool                 -- it stopped between two delivery boundaries, where a fault parked it (R123)
  cancels : List (Nat × Nat × Nat)   -- CCANCELs that wait for its next delivery boundary: slot, generation, number (R401)
deriving DecidableEq, Repr

/-- An isle's copy unit (R382, R383) and ramp limiter (R89). -/
structure Isle where
  lastJob : Nat
  jobs : List Job               -- live and retained, oldest first
  ended : List Nat              -- ended jobs, most recent first
  sNow : Nat                    -- S(n) and S(n − 1) of R89
  sPrev : Nat
  window : Nat                  -- n
  per : List Nat                -- array cycles of each of its sixteen units in window n (R90)
deriving DecidableEq, Repr

def Isle.zero : Isle := ⟨0, [], [], 0, 0, 0, List.replicate 16 0⟩

/-! ### Channels (R36 to R40) -/

/-- A command channel and its completion ring (Table 2.4). -/
structure Channel where
  qbase : Nat
  qsize : Nat
  qtail : Nat
  qhead : Nat
  cbase : Nat
  csize : Nat
  chead : Nat
  enabled : Bool
  idle : Bool
  ci : Nat                      -- completion index (R38)
  phase : Bool
  notices : List (List Byte)    -- records that wait for room (R37)
deriving DecidableEq, Repr

def Channel.zero : Channel := ⟨0, 0, 0, 0, 0, 0, 0, false, true, 0, true, []⟩

/-! ### Virtual devices (chapters 2 and 3) -/

/-- The states of Table 2.3. -/
inductive VdState where
  | created
  | locked
  | running
  | paused
  | evicted
  | failed
deriving DecidableEq, Repr

/-- A stage-2 grant (R41, R48): tenant frames `first …` mapped to device frames. -/
structure Grant where
  serial : Nat
  first : Nat
  frames : List Nat             -- device frame numbers (STACK × 2^15 + OFF / 2^21)
deriving DecidableEq, Repr

/-- An open host window (R42): its permissions are bit 0 read, bit 1 write. -/
structure HostWin where
  slot : Nat
  va : Nat
  host : Nat
  size : Nat
  perm : Nat
deriving DecidableEq, Repr

/-- A visitor line of a die (R64, R141). -/
structure Visitor where
  die : Nat
  line : Nat
  cls : Nat
  way : Nat
  used : Nat                    -- the cycle of its last use
  data : BitVec 1024
deriving DecidableEq, Repr

/-- A long transfer of a channel (R37, R44). -/
structure Transfer where
  cmd : TCmd
  pos : Nat
  frame : Option Nat            -- the tenant frame its next piece waits for (R42)
  away : Option Nat             -- the cycle it began to wait for a strait (R17)
  failed : Bool                 -- the frame it waited for has not come (R49): its record is still to be written
  data : List Byte              -- of PROG.LOAD: the bytes copied so far
deriving DecidableEq, Repr

/-- What an eviction image holds beyond the contexts (R45): its header's fields and the image key; the grants' ranges, the
bytes of the frames by tenant physical address, and the live jobs. -/
structure Sealed where
  serial : Nat                  -- of the virtual device
  counter : Nat
  length : Nat
  key : Nat                     -- the image key, by the draw that made it
  devices : List (BitVec 512)   -- the keys of other modules that it is wrapped for
  serials : List (Nat × Nat × Nat)   -- serial of a grant, first tenant frame, frames
  cells : List Host.Cell
  full : List Nat               -- full words, by tenant physical address / 8
  jobs : List Job
deriving DecidableEq, Repr

/-- A virtual device. -/
structure VD where
  vf : Nat
  node : Nat                    -- its atoll's node; 0 when it holds none
  state : VdState
  tdisp : Nat                   -- TDISP interface state (R35)
  serial : Nat                  -- of its handle
  policy : Option (List Byte)   -- the accepted policy's bytes (Table 2.2)
  boundKey : List Byte
  policyCounter : Nat
  session : Option Nat          -- the SPDM session's key, by the draw that made it
  seqNo : Nat                   -- SEQ expected next (R40)
  noticeNo : Nat                -- notice counter N
  evictions : Nat               -- eviction counter E (R45)
  image : Option Sealed         -- of an evicted virtual device
  memKey : Option Nat           -- the memory key in force, by the draw that made it (R47); none once destroyed (R45)
  approval : Option (BitVec 256 × BitVec 512)   -- a header digest and its signature (R46)
  grants : List Grant
  saveFrames : List Nat         -- device frames of the save area (R127)
  reclaimed : List (Nat × Nat)  -- reclaim notices to be posted: first frame, frames (R48)
  entries : List (Nat × Nat × Nat)   -- entry ranges: base, length, image index (R42)
  windows : List HostWin
  digests : List (BitVec 256)
  vdlim : Word
  remask : Option Word          -- a WAYS.SET in its phases (R65)
  sliceUs : Nat
  weight : Nat
  vtime : Nat
  busy : Nat
  turnStart : Option Nat        -- the cycle its turn began; none when it is not resident
  started : Bool                -- it has had a turn since VD.CREATE or VD.RESET (R63, R129)
  graphsDone : Nat
  paused : Option Nat
  transfer : Option Transfer
  aborting : Option Nat         -- commands of its ring still to end ABORTED after a VD.RESET or VD.DESTROY (R50)
  pager : Word
  rgntab : Word
  faults : List SliceFault
  frameWaits : List (Nat × Nat) -- tenant frame, cycle posted (R49)
  joins : List (Nat × Nat)
  graphs : List Graph
  lastGraph : Nat
  holds : List (Nat × Nat × Nat)   -- die, graph, node (R80)
  shards : List Shard
  wins : List Win
  sums : List Grants
  waiters : List (Nat × List TokenWaiter)   -- object, waiting threads in arrival order (R164)
  visitors : List Visitor       -- R141
  arrived : List Nat            -- flights that have met a fault at their home: no later one on their object passes (R192)
  hubs : List (Nat × Nat)       -- forwards that wait at the hub, each with the cycle its wait began (R17)
  cores : List (Nat × Core)     -- by offset from the atoll's first core; one not listed is Core.zero
  saving : List Nat             -- cores whose save is not complete (R125)
  channel : Channel
deriving DecidableEq, Repr

/-! ### The module -/

/-- A narrow between two dies (R11, R12). -/
structure Narrow where
  i : Nat
  j : Nat
  up : Bool
  since : Nat
deriving DecidableEq, Repr

/-- The module outside its virtual devices (chapters 1 to 3). -/
structure Module where
  ready : BitVec 64             -- READY (Table 1.3)
  booted : Bool
  recovery : Bool
  halted : Bool                 -- the Holm has stopped (R30)
  flash : List Byte             -- the flash image (R28)
  image : List Byte             -- what the recovery window holds (R29)
  boots : Nat                   -- boots so far: names the handle key (R43)
  log : List Nat                -- the protected log (R22)
  holder : Nat                  -- OWNER (Table 2.9)
  pending : Bool
  offered : Nat
  heartbeatAt : Nat
  offerAt : Nat
  dev : Option Nat              -- device number (R16)
  route : List (Nat × Nat)      -- ROUTE table: destination, strait
  powerCap : Option Nat
  thermalCeil : List Nat        -- eighths of isle peak, one for the isles of each die (R22)
  powerCeil : Nat               -- eighths, one for every isle (R23)
  temp : List Nat               -- junction temperature per die in tenths as last read
  hotSince : Option Nat
  measured : Nat                -- watts as last measured
  narrows : List Narrow
  hostLanes : Nat
  hostFlit : Bool
  atolls : List (Nat × Nat)     -- live nodes and the serials of their handles (R55 to R58)
  resetDue : Option Nat         -- a MODULE.RESET under way (R53)
  control : Channel
  serving : Nat                 -- the control command under service: 0 none, 1 read, 2 waiting for cores or slices
  lastVf : Nat                  -- the command channel served last (R37)
  ghosts : List VD              -- destroyed virtual devices some of whose commands still have to end ABORTED (R37, R50)
  oob : List (Nat × BitVec 512) -- MCTP entries, each with the ring commands still before it (R53)
  replies : List (List Byte)    -- records returned over MCTP and responses of the SPDM responders, newest last
  events : List (Nat × Nat)     -- what the MP has told the masters: a code and its argument, newest last
  irqs : List Nat               -- functions whose MSI-X vector 0 has been raised, newest last (R37)
  passed : List (Nat × Bool)    -- requests of other modules at the straits: device number, and whether forwarded (R53)
  checkedAt : Nat               -- the cycles of the last self-check, thermal step and power measurement
  thermalAt : Nat
  powerAt : Nat
deriving DecidableEq, Repr

/-! ### Packets in flight between two steps -/

/-- A map operation at a shard (R185): code 0 probe, 1 insert, 2 set, 3 remove, 4 stat, 5 iterate. -/
structure MapReq where
  code : Nat
  handle : Nat
  shard : Nat
  key : Nat
  k16 : Bool
  first : Bool
  operand : Nat
  combine : Nat
  lane : Option Nat             -- of a batched form
  page : Bool                   -- on the page map
deriving DecidableEq, Repr

/-- A window operation: code 0 feed, 1 read, 2 length (R198). -/
structure WinReq where
  code : Nat
  handle : Nat
  data : Nat                    -- the operand register's bits
  length : Nat
deriving DecidableEq, Repr

/-- What a packet in flight is: the step of the table that delivers it is its name. -/
inductive Packet where
  | access (a : Access) (at' : Place)
  | transit (p : Part) (at' : Place)                -- holds an entry of the transit buffer (R66)
  | wanting (a : Access) (at' : Place)              -- waits at its word for a full bit (R326, R328)
  | atomic (r : AtomicReq) (at' : Place)
  | vreply
  | sreply
  | sync (r : SyncReq)
  | halo (target : Nat) (off : Nat) (bytes : List Byte)   -- core offset, scratchpad offset
  | barrier (va form : Nat) (parity : Bool) (scope : Nat)
  | message (core slot : Nat) (gen : BitVec 16) (header : BitVec 64) (payload : BitVec 448)
  | qsig (core q amount : Nat) (notice : Option (Word × Nat))   -- of EVSIG: result 0 and the code of its notice (R295)
  | map (r : MapReq)
  | window (r : WinReq)
  | grant (handle line : Nat) (lanes : List (Nat × Nat)) (rest : List (Nat × List (Nat × Nat))) (float : Bool)
  | partialSum (handle line : Nat) (lanes : List (Nat × Nat)) (float : Bool) (returned : Bool)
  | bload (handle line : Nat) (lane : Option Nat) (eps : Nat) (float : Bool)
  | drain (handle line : Nat) (holder : Nat)
  | fault (page va cause : Nat) (kind : AccKind) (engine : Bool) (isle job : Nat) (launch : Option (Nat × Nat))
  | fwake (fid : Nat) (refuse : Bool)
  | wake (page : Nat) (refuse : Bool) (tids : List Tid) (jobs : List (Nat × Nat)) (launches : List (Nat × Nat))
      (matrix : List Nat)
  | inval (key : Nat) (big : Bool) (target : Nat) (old : Option (List (Tid × Nat)))
      -- to one core, whose operation of `seq` waits for it; once there, the accesses under the old entry
  | csr (pager : Bool) (write : Option Word)
  | forward (va pa dev tpa : Nat) (bytes : List Byte) (full : Option Bool)
  | tile (core : Nat) (toLa : Bool) (data : BitVec 49152) (side : BitVec 2048)
  | bxf (isle job : Nat) (core off : Nat)
  | route (dev : Nat) (part : Part) (at' : Place)      -- waits at the hub for a ready strait (R17)
  | walk (part : Part)          -- waits in its core for a walk that a narrow holds (R12)
deriving DecidableEq, Repr

/-- A packet in flight: its number, who sent it, and the first cycle it can be delivered. -/
structure Flight where
  id : Nat
  tid : Tid
  seq : Nat
  notBefore : Nat
  pk : Packet
deriving DecidableEq, Repr

/-- Which agent moves next (the model's own: log entry 1). -/
inductive Mover where
  | issue (t : Tid)
  | flight (id : Nat)
  | serveControl
  | serveTenant (vf : Nat)
  | event (i : Instr)
  | pass (cycles : Nat)
  | evictL1 (vf core line : Nat)
  | evictVisitor (vf die line : Nat)
  | evictTlb (vf core key : Nat)
  | evictRegion (vf core handle : Nat)
  | dropFetched (vf core : Nat)
deriving DecidableEq, Repr

/-- The state of the module. -/
structure State where
  cycle : Nat                   -- CYCLE.COUNT (R287)
  powers : Nat                  -- times that COUNT has begun again, at a later power-on (R287; the model's own)
  mem : List Host.Cell          -- device memory by STACK × 2^36 + OFF; a byte not listed is 0
  full : List Nat               -- device words (pa / 8) whose full/empty bit is full (R171)
  host : List Host.Cell         -- host memory as the module and the host have written it
  module : Module
  fused : Nat                   -- blown security-version bits (R27, R28)
  serials : Nat                 -- handle serials issued (R43)
  vds : List (Nat × VD)         -- by virtual function
  isles : List (Nat × Isle)     -- by isle number 0–63; one not listed is Isle.zero
  flights : List Flight         -- oldest first
  nextId : Nat
  free : Nat                    -- free values drawn so far (log entry 2)
  cur : Tid                     -- the issuing thread
  turn : Nat                    -- the packet under delivery
  cmd : Cmd                     -- the control command under service
  tcmd : TCmd                   -- the tenant command under service
  agenda : List Mover
  still : Bool                  -- the step last named had nothing to do (log entry 11)
deriving DecidableEq, Repr

/-! ### Power-on -/

/-- The module at power-on (R24, R28, R56): nothing ready, the root atoll alone live. -/
def Module.zero : Module where
  ready := 0
  booted := false
  recovery := false
  halted := false
  flash := []
  image := []
  boots := 0
  log := []
  holder := 0
  pending := false
  offered := 0
  heartbeatAt := 0
  offerAt := 0
  dev := none
  route := []
  powerCap := none
  thermalCeil := [8, 8, 8, 8]
  powerCeil := 8
  temp := [0, 0, 0, 0]
  hotSince := none
  measured := 0
  narrows := [⟨0, 1, true, 0⟩, ⟨0, 2, true, 0⟩, ⟨0, 3, true, 0⟩, ⟨1, 2, true, 0⟩, ⟨1, 3, true, 0⟩, ⟨2, 3, true, 0⟩]
  hostLanes := 16
  hostFlit := true
  atolls := [(1, 0)]
  resetDue := none
  control := Channel.zero
  serving := 0
  lastVf := 0
  ghosts := []
  oob := []
  replies := []
  events := []
  irqs := []
  passed := []
  checkedAt := 0
  thermalAt := 0
  powerAt := 0

def Cmd.zero : Cmd := ⟨false, 0, 0, 0, 0, 0, 0, 0, 0, 0, 0⟩
def TCmd.zero : TCmd := ⟨0, 0, 0, 0, 0, 0, 0, 0, 0, 0, 0, 0⟩

/-- The machine right after power-on. -/
def State.reset : State where
  cycle := 0
  powers := 0
  mem := []
  full := []
  host := []
  module := Module.zero
  fused := 0
  serials := 1
  vds := []
  isles := []
  flights := []
  nextId := 1
  free := 0
  cur := ⟨0, 0, 0⟩
  turn := 0
  cmd := Cmd.zero
  tcmd := TCmd.zero
  agenda := []
  still := false

/-! ### How a step can stop -/

/-- The reasons for which the module stops for good: the manual names none, so no step of this model ends in a fault.
A shutdown and a halt of the Holm (R22, R30) are states, and every trap and page fault is taken as the manual says. -/
inductive Fault where
deriving DecidableEq, Repr

/-- Refusals. -/
inductive Refusal where
  /-- Raised by an arm of exec whose instruction has no meaning yet; no arm is left that raises it. Safe. -/
  | notModelled (mnemonic : String)
deriving DecidableEq, Repr

end Sys2Proof.Machine
end

