-- ==== Sys2Proof/Machine/Ops.lean ====
section
/-! DEFINITION. The named operations over the state. Every step of the model is a list of effects, applied in order:
what a step can do to the state at all is said once, by `Eff.apply`. Taking an exception and returning from one stand
here (R114, R116, R291), beside the end of a thread (R85, R292). -/

namespace Sys2Proof.Machine

/-! ### Byte memories in canonical form: addresses strictly rising, no byte equal to zero -/

/-- One byte. -/
def readCell : List Host.Cell → Nat → Byte
  | [], _ => 0
  | (k, b) :: rest, a => if k = a then b else readCell rest a

/-- One byte written; writing zero removes the entry. -/
def writeCell : List Host.Cell → Nat → Byte → List Host.Cell
  | [], a, b => if b = 0 then [] else [(a, b)]
  | (k, c) :: rest, a, b =>
    if a < k then (if b = 0 then (k, c) :: rest else (a, b) :: (k, c) :: rest)
    else if a = k then (if b = 0 then rest else (a, b) :: rest)
    else (k, c) :: writeCell rest a b

/-- The canonical form, above a bound. -/
def wfCells : Option Nat → List Host.Cell → Bool
  | _, [] => true
  | lo, (k, b) :: rest => (match lo with | none => true | some l => decide (l < k)) && b != 0 && wfCells (some k) rest

/-- The canonical form of a memory. -/
def Memory.wf (m : List Host.Cell) : Bool := wfCells none m

/-- n bytes from an address up. -/
def readBytes (m : List Host.Cell) (a n : Nat) : List Byte := (List.range n).map fun i => readCell m (a + i)

/-- Bytes written from an address up. -/
def writeBytes (m : List Host.Cell) (a : Nat) : List Byte → List Host.Cell
  | [] => m
  | b :: bs => writeBytes (writeCell m a b) (a + 1) bs

/-! ### Sorted sets of numbers -/

def setInsert : List Nat → Nat → List Nat
  | [], a => [a]
  | k :: rest, a => if a < k then a :: k :: rest else if a = k then k :: rest else k :: setInsert rest a

def setErase : List Nat → Nat → List Nat
  | [], _ => []
  | k :: rest, a => if a = k then rest else k :: setErase rest a

def setMem (l : List Nat) (a : Nat) : Bool := l.any (· == a)

/-! ### Tables by number, keys strictly rising -/

def lookup {α : Type} : List (Nat × α) → Nat → Option α
  | [], _ => none
  | (k, x) :: rest, a => if k = a then some x else lookup rest a

def put {α : Type} : List (Nat × α) → Nat → α → List (Nat × α)
  | [], a, y => [(a, y)]
  | (k, x) :: rest, a, y =>
    if a < k then (a, y) :: (k, x) :: rest else if a = k then (a, y) :: rest else (k, x) :: put rest a y

def erase {α : Type} : List (Nat × α) → Nat → List (Nat × α)
  | [], _ => []
  | (k, x) :: rest, a => if k = a then rest else (k, x) :: erase rest a

/-! ### Looking up -/

def VD.coreAt (v : VD) (off : Nat) : Core := (lookup v.cores off).getD Core.zero

def Core.slotAt (c : Core) (i : Nat) : Slot := c.slots[i % 4]'(Nat.mod_lt _ (by decide))

def Core.setSlot (c : Core) (i : Nat) (x : Slot) : Core :=
  { c with slots := c.slots.set (i % 4) x (Nat.mod_lt _ (by decide)) }

def State.vdAt (s : State) (vf : Nat) : Option VD := lookup s.vds vf

def State.coreAt (s : State) (vf off : Nat) : Core :=
  match s.vdAt vf with
  | some v => v.coreAt off
  | none => Core.zero

def State.slotOf (s : State) (t : Tid) : Slot := (s.coreAt t.vf t.core).slotAt t.slot

def State.isleAt (s : State) (n : Nat) : Isle := (lookup s.isles n).getD Isle.zero

def State.flightAt (s : State) (id : Nat) : Option Flight := s.flights.find? (·.id == id)

/-- The first core and the size of an atoll node (R55). -/
def atollFirst (n : Nat) : Nat := (n - 2 ^ Nat.log2 n) * (1024 / 2 ^ Nat.log2 n)
def atollSize (n : Nat) : Nat := 1024 / 2 ^ Nat.log2 n

/-- The device core number of a virtual device's core. -/
def VD.coreNo (v : VD) (off : Nat) : Nat := atollFirst v.node + off

def State.coreNo (s : State) (vf off : Nat) : Nat :=
  match s.vdAt vf with
  | some v => v.coreNo off
  | none => off

/-- A core number of the virtual device's atoll, as an offset. -/
def VD.offset? (v : VD) (core : Nat) : Option Nat :=
  if atollFirst v.node ≤ core ∧ core < atollFirst v.node + atollSize v.node then some (core - atollFirst v.node)
  else none

def State.offset? (s : State) (vf core : Nat) : Option Nat := (s.vdAt vf).bind (·.offset? core)

/-- The die, and the isle 0–63, of a device core (R2). -/
def dieOf (core : Nat) : Nat := core / 256
def isleOf (core : Nat) : Nat := core / 16

/-! ### Registers of a slot (Table 5.1): s0 reads zero, p0 reads all true -/

def Slot.rs (x : Slot) (r : SReg) : Word := if r = 0 then 0 else x.s[r.toNat]'r.isLt

def Slot.setS (x : Slot) (r : SReg) (w : Word) : Slot :=
  if r = 0 then x else { x with s := x.s.set r.toNat w r.isLt }

def Slot.rp (x : Slot) (r : PReg) : Mask := if r = 0 then BitVec.allOnes 256 else x.p[r.toNat]'r.isLt

def Slot.setP (x : Slot) (r : PReg) (m : Mask) : Slot :=
  if r = 0 then x else { x with p := x.p.set r.toNat m r.isLt }

def Slot.rv (x : Slot) (r : VReg) : VVal := x.v[r.toNat]'r.isLt

def Slot.setV (x : Slot) (r : VReg) (y : VVal) : Slot := { x with v := x.v.set r.toNat y r.isLt }

/-- Several results written at once. -/
def Slot.setAll (x : Slot) (v : List (VReg × VVal)) (s : List (SReg × Word)) (p : List (PReg × Mask)) (fl : BitVec 6) :
    Slot :=
  let x := v.foldl (fun x w => x.setV w.1 w.2) x
  let x := s.foldl (fun x w => x.setS w.1 w.2) x
  let x := p.foldl (fun x w => x.setP w.1 w.2) x
  { x with fpflags := x.fpflags ||| fl }

/-- The instruction at pc has issued: its number is taken and the pc moves to `next`. -/
def Slot.advance (x : Slot) (next : Word) : Slot :=
  { x with pc := next, seq := x.seq + 1, semWait := none, lapsed := false, hub := none, took := none }

/-- The pc after an instruction of n words that does not branch (R251). -/
def Slot.after (x : Slot) (n : Nat) : Word := x.pc + BitVec.ofNat 64 (4 * n)

/-- An operation becomes outstanding: its tag is busy (R98). -/
def Slot.start (x : Slot) (o : Op) : Slot :=
  { x.advance (x.after o.words) with
    ops := x.ops ++ [o], tags := if o.ta = 0 then x.tags else x.tags ||| (1#8 <<< o.ta) }

/-! ### Storage of a core -/

def Core.tile (c : Core) (i : Nat) : Tile := (lookup c.tiles i).getD ⟨0, 0, 0⟩
def Core.acc (c : Core) (i : Nat) : Acc := (lookup c.accs i).getD ⟨0, 0⟩
def Core.sem (c : Core) (q : Nat) : Nat := (lookup c.sems q).getD 0
def Core.setSem (c : Core) (q x : Nat) : Core :=
  { c with sems := if x = 0 then erase c.sems q else put c.sems q x }

/-- Bytes of scratchpad: 448 KiB − 64 KiB × L1SIZE (R62). -/
def Core.spSize (c : Core) : Nat := 458752 - 65536 * c.l1size

/-- An addition to a semaphore saturates at 65,535 (R339). -/
def satAdd (q amount : Nat) : Nat := min 65535 (q + amount)

/-- A non-zero addition to a semaphore: it sets the wake latch of every slot of the core (R294). -/
def Core.addSem (c : Core) (q amount : Nat) : Core :=
  if amount = 0 then c
  else
    let c := c.setSem q (satAdd (c.sem q) amount)
    { c with slots := c.slots.map (fun x => { x with latch := true }) }

/-! ### The inbox (R104, R105, R125, R128) -/

/-- The free inbox entry a message is written to, the one free for longest (R104): an entry that has held no message yet,
the lowest number first, else the one freed first. -/
def Core.freeEntry (c : Core) : Option Nat :=
  match (List.range 64).find? fun e => !c.inbox.any (·.entry == e) && !c.taken.any (·.entry == e) with
  | some e => some e
  | none => c.taken.head?.map (·.entry)

/-- A message enters the inbox and sets the slot's wake latch (R294). -/
def Core.receive (c : Core) (e slot : Nat) (header : BitVec 64) (payload : BitVec 448) : Core :=
  let c := { c with
    inbox := c.inbox ++ [(⟨e, header, payload⟩ : Message)], taken := c.taken.filter (·.entry != e) }
  c.setSlot slot { c.slotAt slot with latch := true }

/-- Messages of the spill enter the inbox in arrival order as entries free (R128). -/
def Core.refill : Nat → Core → Core
  | 0, c => c
  | n + 1, c =>
    match c.spill, c.freeEntry with
    | m :: rest, some e =>
      Core.refill n (({ c with spill := rest } : Core).receive e (bits m.header.toNat 29 28) m.header m.payload)
    | _, _ => c

/-- An entry taken: VALID clears (R344), and the spill refills. -/
def Core.takeMessage (c : Core) (m : Message) : Core :=
  Core.refill 64 { c with
    inbox := c.inbox.filter (·.entry != m.entry)
    taken := c.taken ++ [({ m with header := m.header &&& ~~~(1#64 <<< 33) } : Message)] }

/-- Every entry of a slot whose thread ends is cleared (R105), and the spill refills. -/
def Core.clearInbox (c : Core) (slot : Nat) : Core :=
  let mine (m : Message) : Bool := bits m.header.toNat 29 28 == slot
  Core.refill 64 { c with
    inbox := c.inbox.filter (!mine ·)
    taken := c.taken ++ (c.inbox.filter mine).map fun m => ⟨m.entry, 0, 0⟩
    spill := c.spill.filter (!mine ·) }

/-! ### Effects -/

/-- What a step can do to the state. -/
inductive Eff where
  | slot (t : Tid) (g : Slot → Slot)
  | core (vf off : Nat) (g : Core → Core)
  | vd (vf : Nat) (g : VD → VD)
  | newVd (v : VD)
  | dropVd (vf : Nat)
  | isle (n : Nat) (g : Isle → Isle)
  | module (g : Module → Module)
  | mem (pa : Nat) (b : Byte)
  | full (word : Nat) (on : Bool)
  | host (a : Nat) (b : Byte)
  | send (t : Tid) (seq delay : Nat) (pk : Packet)     -- a packet, deliverable `delay` cycles from now
  | drop (id : Nat)
  | swap (id : Nat) (pk : Packet)   -- a packet in place of one on its way: it keeps its number and its turn
  | tick (n : Nat)
  | clock                       -- COUNT begins again at 0 (R287)
  | draw (n : Nat)              -- n free values are used
  | fuse (n : Nat)              -- fuse bits are blown until n are (R28)
  | serial (n : Nat)            -- n handle serials are issued
  | cur (t : Tid)
  | turn (id : Nat)
  | cmd (c : Cmd)
  | tcmd (c : TCmd)
  | agenda (l : List Mover)

/-- One effect. A virtual device keeps its function number. -/
def Eff.apply (e : Eff) (s : State) : State :=
  match e with
  | .slot t g =>
    match s.vdAt t.vf with
    | none => s
    | some v =>
      let c := v.coreAt t.core
      let c := c.setSlot t.slot (g (c.slotAt t.slot))
      { s with vds := put s.vds t.vf { v with cores := put v.cores t.core c } }
  | .core vf off g =>
    match s.vdAt vf with
    | none => s
    | some v => { s with vds := put s.vds vf { v with cores := put v.cores off (g (v.coreAt off)) } }
  | .vd vf g =>
    match s.vdAt vf with
    | none => s
    | some v => { s with vds := put s.vds vf { g v with vf := v.vf } }
  | .newVd v => { s with vds := put s.vds v.vf v }
  | .dropVd vf => { s with vds := erase s.vds vf }
  | .isle n g => { s with isles := put s.isles n (g (s.isleAt n)) }
  | .module g => { s with module := g s.module }
  | .mem pa b => { s with mem := writeCell s.mem pa b }
  | .full w on => { s with full := if on then setInsert s.full w else setErase s.full w }
  | .host a b => { s with host := writeCell s.host a b }
  | .send t seq delay pk =>
    { s with flights := s.flights ++ [⟨s.nextId, t, seq, s.cycle + delay, pk⟩], nextId := s.nextId + 1 }
  | .drop id => { s with flights := s.flights.filter (·.id != id) }
  | .swap id pk =>
    { s with flights := s.flights.map fun f => if f.id = id then { f with notBefore := s.cycle, pk := pk } else f }
  | .tick n => { s with cycle := s.cycle + n }
  | .clock => { s with cycle := 0, powers := s.powers + 1 }
  | .draw n => { s with free := s.free + n }
  | .fuse n => { s with fused := max s.fused n }
  | .serial n => { s with serials := s.serials + n }
  | .cur t => { s with cur := t }
  | .turn id => { s with turn := id }
  | .cmd c => { s with cmd := c }
  | .tcmd c => { s with tcmd := c }
  | .agenda l => { s with agenda := l }

/-- Effects in order. -/
def applyAll : List Eff → State → State
  | [], s => s
  | e :: es, s => applyAll es (e.apply s)

/-- Why a step has nothing to do: what it is about does not stand in this state (a reply that is not in flight, a limit
that has not passed), or, for an instruction, no thread is there to issue it. -/
inductive Absent where
  | event (mnemonic : String)
  | thread
deriving DecidableEq, Repr

/-- What a step is before it is run: its effects, or why it has none. -/
abbrev Plan := Except Absent (List Eff)

/-- A step from its plan. A step that has nothing to do leaves the module as it is, and the model notes so in `still`
(log entry 11). -/
def run (p : Plan) (s : State) : Host.Outcome State Fault Refusal :=
  match p with
  | .ok es => .next (applyAll es s)
  | .error _ => .next { s with still := true }

/-- A step that the manual gives only under a condition. -/
def when (mnemonic : String) (b : Bool) (es : List Eff) : Plan :=
  if b then .ok es else .error (.event mnemonic)

/-- An instruction issues from the thread that `cur` names. -/
def issuing (s : State) (f : Tid → Slot → List Eff) : Plan :=
  if (s.slotOf s.cur).live && (s.vdAt s.cur.vf).isSome then .ok (f s.cur (s.slotOf s.cur)) else .error .thread

/-- Bytes written to device memory. -/
def memEffs (pa : Nat) : List Byte → List Eff
  | [] => []
  | b :: bs => .mem pa b :: memEffs (pa + 1) bs

/-- Bytes written to host memory. -/
def hostEffs (a : Nat) : List Byte → List Eff
  | [] => []
  | b :: bs => .host a b :: hostEffs (a + 1) bs

/-! ### The end of a thread (R85, R116, R292) -/

/-- The node of a thread loses one of its threads; at zero it begins to drain (Table 4.9). -/
def Node.lose (n : Node) (aborted : Bool) : Node :=
  let n := { n with count := n.count - 1, aborted := n.aborted || aborted }
  if n.count = 0 then { n with state := .draining n.aborted } else n

/-- A node of a graph changed. -/
def VD.modNode (v : VD) (graph node : Nat) (g : Node → Node) : VD :=
  { v with graphs := v.graphs.map fun gr =>
      if gr.id = graph then { gr with nodes := gr.nodes.modify node g } else gr }

def VD.nodeAt (v : VD) (graph node : Nat) : Option Node :=
  (v.graphs.find? (·.id == graph)).bind fun g => g.nodes[node]?

/-- The seats of a team in order of rank. -/
def Node.ranks (n : Node) : List (Nat × Nat) := n.place.flatMap fun (off, ks) => ks.map fun k => (off, k)

/-- The live members of a thread's gang in order of rank; of any other thread, itself. -/
def State.members (s : State) (t : Tid) : List Tid :=
  match (s.slotOf t).team with
  | some r =>
    if r.gang then
      match (s.vdAt t.vf).bind (·.nodeAt r.graph r.node) with
      | some n => (n.ranks.map fun (off, k) => (⟨t.vf, off, k⟩ : Tid)).filter fun u =>
          (s.slotOf u).live && (s.slotOf u).halting.isNone && (s.slotOf u).team.any fun q => q.graph == r.graph && q.node == r.node
      | none => [t]
    else [t]
  | none => [t]

/-- Whether a thread is the pager of its virtual device (R120). -/
def State.isPager (s : State) (t : Tid) : Bool :=
  match s.vdAt t.vf with
  | some v =>
    let p := v.pager.toNat
    bit p 28 && bits p 9 0 == v.coreNo t.core && bits p 11 10 == t.slot && bits p 27 12 == (s.slotOf t).gen.toNat
  | none => false

/-- The slot under which a core's buffer sends its sums on its own account, whose fault they become: one that is not the
pager's, so that no sum is refused (R120, R207; log entry 117). -/
def State.drainTid (s : State) (vf off : Nat) : Tid := if s.isPager ⟨vf, off, 0⟩ then ⟨vf, off, 1⟩ else ⟨vf, off, 0⟩

/-- The slot under which a thread's instruction sends sums that its core withheld. -/
def State.sumTid (s : State) (t : Tid) : Tid := if s.isPager t then s.drainTid t.vf t.core else t

/-- The partial sums a line withholds: its lanes that are not zero. -/
def SumLine.lanes (l : SumLine) : List (Nat × Nat) :=
  ((List.range 32).map fun j => (j, l.p.getD j 0)).filter fun x => if l.float then x.2 % 2 ^ 31 != 0 else x.2 != 0

/-- The messages that send a core's withheld sums to their homes, returning its grants (Table 10.7). -/
def sumDrains (t : Tid) (lines : List SumLine) (returned : Bool) : List Eff :=
  lines.map fun l =>
    .send t 0 0 (.partialSum l.handle l.line l.lanes l.float returned)

/-- Once a halting slot waits for no tag and holds no token, none of its matrix operations is left, and no access of it is held
for a fault or a frame, it becomes idle (R77, R292, R381). -/
def finishHalt (s : State) (t : Tid) : List Eff :=
  let c := s.coreAt t.vf t.core
  let x := c.slotAt t.slot
  match x.halting with
  | none => []
  | some aborted =>
    if x.dying = true ∨ x.tokens ≠ [] ∨ x.held ≠ [] ∨ (x.claim ∧ (c.queue.any (·.slot == t.slot)) = true) then []
    else
      [.core t.vf t.core fun c =>
        let x := { c.slotAt t.slot with
          live := false, claim := false, halting := none, ops := [], pend := [], tags := 0, mailbox := 0,
          record := none, semWait := none, lapsed := false, hub := none, took := none, yielded := none, refusal := none,
          tokenless := false, team := none }
        (c.setSlot t.slot x).clearInbox t.slot] ++
      (match x.team with
        | none => []
        | some r =>
          let last : Bool := match (s.vdAt t.vf).bind (·.nodeAt r.graph r.node) with
            | some n => decide (n.count ≤ 1)
            | none => false
          [.vd t.vf (fun v => v.modNode r.graph r.node (·.lose aborted))] ++
          -- the node's last thread: each of its cores drains its sum buffer (R77, Table 10.7)
          (if last = true then
            match (s.vdAt t.vf).bind (·.nodeAt r.graph r.node) with
            | some n => n.place.flatMap fun (off, _) =>
                sumDrains (s.drainTid t.vf off) (s.coreAt t.vf off).sums true ++
                [.core t.vf off fun c => { c with sums := [] }]
            | none => []
          else []))

/-- A packet of an LDF or a VLDF, on its way to its word or waiting there. -/
def Packet.wants (pk : Packet) : Bool :=
  match pk with
  | .wanting .. => true
  | .access a _ | .transit (.access a) _ | .route _ (.access a) _ | .walk (.access a) => (match a.op with | .loadFull _ => true | _ => false)
  | _ => false

/-- A thread begins to end: what it still asks of full words is dropped, it gives up its place among the waiting claims, and
each token it holds is released by a yielding REL at the scope kept with it (R168). -/
def endThread (s : State) (t : Tid) (aborted : Bool) : List Eff :=
  let x := s.slotOf t
  let es : List Eff :=
    .slot t (fun x =>
      { x with halting := some aborted, dying := false, seq := x.seq + 1, pend := [], ops := [], tags := 0 }) ::
    (if (s.coreAt t.vf t.core).claims.any (·.1 == t.slot) then
      [.core t.vf t.core fun c => { c with claims := c.claims.filter (·.1 != t.slot) }] else []) ++
    (s.flights.filter fun f => f.tid == t && f.pk.wants).map (fun f => .drop f.id) ++
    x.tokens.map fun k => .send t x.seq 0 (.sync
      { rel := true, write := false, yield := true, handle := k.handle, row := k.row, col := k.col, scope := k.scope,
        halt := true, object := k.object, stage := 0 })
  es ++ finishHalt (applyAll es s) t

/-! ### Traps (R112 to R116) -/

/-- Causes of Table 6.1. -/
def cILLEGAL : Nat := 1
def cPRIV : Nat := 2
def cMISALIGN : Nat := 3
def cTAG : Nat := 4
def cSHAPE : Nat := 5
def cTOKEN : Nat := 6
def cADDR : Nat := 7
def cCLAIM : Nat := 8
def cBREAK : Nat := 9
def cSYSCALL : Nat := 10

/-- TRAPST from its fields (Table 6.5): ACTIVE is set. -/
def trapStatus (ppriv late gang : Bool) (ilen : Nat) : BitVec 8 :=
  BitVec.ofNat 8 ((if ppriv then 1 else 0) + 2 + (if late then 4 else 0) + (if gang then 8 else 0) + 16 * ilen)

/-- Entry to the handler (R114), for a slot whose ACTIVE is 0 and whose TRAPVEC is not 0. -/
def Slot.enterTrap (x : Slot) (cause : Nat) (val : Word) (ilen : Nat) (late gang : Bool) : Slot :=
  { x with
    trapcause := BitVec.ofNat 4 cause
    trapval := val
    trappc := x.pc
    trapst := trapStatus x.priv late gang (if late then 0 else ilen)
    priv := true
    pc := x.trapvec
    traps := x.traps + 1 }

/-- A trap is a double trap while ACTIVE is 1 or with TRAPVEC 0 (R116). -/
def Slot.doubleTrap (x : Slot) : Bool := x.trapst.getLsbD 1 || x.trapvec == 0

/-- A thread waits for no tag and for no instruction that stalls it. -/
def Slot.settled (x : Slot) : Bool := x.tags == 0 && x.ops.all (!·.sync)

/-- A double trap: the thread ends as HALT ends it, once its tags are released (R116, R292). -/
def dieAt (s : State) (t : Tid) : List Eff :=
  if (s.slotOf t).settled then .slot t (fun x => { x with traps := x.traps + 1, took := none }) :: endThread s t true
  else
    [.slot t fun x => { x with
      traps := x.traps + 1, took := none, halting := some true, dying := true, seq := x.seq + 1, semWait := none,
      lapsed := false, hub := none }]

/-- A trap of a thread (R114): entry to its handler, or the end of the thread with its node ABORTED (R116). The trapping
instruction has no effect (R113); it counts as a position of the stream (R97), unless it took its position when it issued
(`issued`, R122). -/
def trapAt (s : State) (t : Tid) (cause : Nat) (val : Word) (ilen : Nat) (late gang issued : Bool) :
    List Eff :=
  -- an amount that the instruction's wait has taken is returned (R257, R386)
  (match (s.slotOf t).took with
    | some (q, n) => [.core t.vf t.core fun c => c.setSem q (satAdd (c.sem q) n)]
    | none => []) ++
  (if (s.slotOf t).doubleTrap then dieAt s t
  else
    [.slot t fun x => { x.enterTrap cause val ilen late gang with
      seq := if issued then x.seq else x.seq + 1, semWait := none, lapsed := false, hub := none, took := none }])

/-- A precise trap of the issuing instruction, which is `ilen` words long. -/
def trap (s : State) (t : Tid) (cause : Nat) (val : Word) (ilen : Nat) : List Eff :=
  trapAt s t cause val ilen false false false

/-- Return from a trap (R116): to TRAPPC, at PPRIV, ACTIVE cleared. -/
def Slot.leaveTrap (x : Slot) : Slot :=
  { x with
    pc := x.trappc
    priv := x.trapst.getLsbD 0
    trapst := x.trapst &&& 0xFD#8
    seq := x.seq + 1 }

end Sys2Proof.Machine
end

