-- ==== Sys2Proof/Machine/Images.lean ====
section
/-! DEFINITION. What the image decoders make of a stream (R398, R399): Group 4 (ITU-T T.6) and JPEG (ITU-T T.81, baseline
sequential and progressive with Huffman coding). The manual names the two standards and does not restate them; what is taken
from them is PRESUMED (log entry 7). -/

namespace Sys2Proof.Machine

/-! ### Bits -/

/-- The bits of some bytes, the most significant of each byte first. -/
def bitsOf (bs : List Byte) : List Bool := bs.flatMap fun b => (List.range 8).map fun i => b.toNat.testBit (7 - i)

/-- The number that n bits spell, and the bits after them. -/
def takeBits : Nat → List Bool → Option (Nat × List Bool)
  | 0, bs => some (0, bs)
  | _ + 1, [] => none
  | n + 1, b :: bs => (takeBits n bs).map fun (x, rest) => (b.toNat * 2 ^ n + x, rest)

def be16 (bs : List Byte) : Nat := (bs.getD 0 0).toNat * 256 + (bs.getD 1 0).toNat

/-! ### Group 4 (T.6) -/

/-- Code words as (length, bits): white runs of 0 to 63, and of the multiples of 64 up to 1,728. -/
def whiteRuns : List (Nat × Nat) := [
  (8, 53), (6, 7), (4, 7), (4, 8), (4, 11), (4, 12), (4, 14), (4, 15), (5, 19), (5, 20), (5, 7), (5, 8), (6, 8),
  (6, 3), (6, 52), (6, 53), (6, 42), (6, 43), (7, 39), (7, 12), (7, 8), (7, 23), (7, 3), (7, 4), (7, 40), (7, 43),
  (7, 19), (7, 36), (7, 24), (8, 2), (8, 3), (8, 26), (8, 27), (8, 18), (8, 19), (8, 20), (8, 21), (8, 22), (8, 23),
  (8, 40), (8, 41), (8, 42), (8, 43), (8, 44), (8, 45), (8, 4), (8, 5), (8, 10), (8, 11), (8, 82), (8, 83), (8, 84),
  (8, 85), (8, 36), (8, 37), (8, 88), (8, 89), (8, 90), (8, 91), (8, 74), (8, 75), (8, 50), (8, 51), (8, 52)]
def whiteMakeUp : List (Nat × Nat) := [
  (5, 27), (5, 18), (6, 23), (7, 55), (8, 54), (8, 55), (8, 100), (8, 101), (8, 104), (8, 103), (9, 204), (9, 205),
  (9, 210), (9, 211), (9, 212), (9, 213), (9, 214), (9, 215), (9, 216), (9, 217), (9, 218), (9, 219), (9, 152),
  (9, 153), (9, 154), (6, 24), (9, 155)]

/-- Black runs, likewise. -/
def blackRuns : List (Nat × Nat) := [
  (10, 55), (3, 2), (2, 3), (2, 2), (3, 3), (4, 3), (4, 2), (5, 3), (6, 5), (6, 4), (7, 4), (7, 5), (7, 7), (8, 4),
  (8, 7), (9, 24), (10, 23), (10, 24), (10, 8), (11, 103), (11, 104), (11, 108), (11, 55), (11, 40), (11, 23),
  (11, 24), (12, 202), (12, 203), (12, 204), (12, 205), (12, 104), (12, 105), (12, 106), (12, 107), (12, 210),
  (12, 211), (12, 212), (12, 213), (12, 214), (12, 215), (12, 108), (12, 109), (12, 218), (12, 219), (12, 84),
  (12, 85), (12, 86), (12, 87), (12, 100), (12, 101), (12, 82), (12, 83), (12, 36), (12, 55), (12, 56), (12, 39),
  (12, 40), (12, 88), (12, 89), (12, 43), (12, 44), (12, 90), (12, 102), (12, 103)]
def blackMakeUp : List (Nat × Nat) := [
  (10, 15), (12, 200), (12, 201), (12, 91), (12, 51), (12, 52), (12, 53), (13, 108), (13, 109), (13, 74), (13, 75),
  (13, 76), (13, 77), (13, 114), (13, 115), (13, 116), (13, 117), (13, 118), (13, 119), (13, 82), (13, 83), (13, 84),
  (13, 85), (13, 90), (13, 91), (13, 100), (13, 101)]

/-- The multiples of 64 from 1,792 to 2,560, for both colours. -/
def longMakeUp : List (Nat × Nat) := [
  (11, 8), (11, 12), (11, 13), (12, 18), (12, 19), (12, 20), (12, 21), (12, 22), (12, 23), (12, 28), (12, 29),
  (12, 30), (12, 31)]

/-- The codes of a colour's runs: length, bits and run. -/
def runCodes (black : Bool) : List (Nat × Nat × Nat) :=
  let (t, m) := if black then (blackRuns, blackMakeUp) else (whiteRuns, whiteMakeUp)
  (t.zipIdx.map fun (c, i) => (c.1, c.2, i)) ++ (m.zipIdx.map fun (c, i) => (c.1, c.2, 64 * (i + 1))) ++
    longMakeUp.zipIdx.map fun (c, i) => (c.1, c.2, 64 * (i + 28))

/-- The one code word of some that bits begin with: what it stands for, and the bits after it. -/
def codeWord {α : Type} (codes : List (Nat × Nat × α)) (bs : List Bool) : Option (α × List Bool) :=
  codes.findSome? fun (n, x, a) =>
    match takeBits n bs with
    | some (y, rest) => if x = y then some (a, rest) else none
    | none => none

/-- A run: make-up codes, and the code of fewer than 64 that ends it. -/
def runOf (black : Bool) : Nat → List Bool → Option (Nat × List Bool)
  | 0, _ => none
  | k + 1, bs =>
    match codeWord (runCodes black) bs with
    | some (n, rest) => if n < 64 then some (n, rest) else (runOf black k rest).map fun (m, rest) => (n + m, rest)
    | none => none

/-- A mode of T.6: pass, horizontal, or vertical with a displacement. -/
inductive Mode where
  | pass
  | horizontal
  | vertical (d : Int)
deriving DecidableEq, Repr

def modeCodes : List (Nat × Nat × Mode) := [
  (1, 1, .vertical 0), (3, 3, .vertical 1), (3, 2, .vertical (-1)), (3, 1, .horizontal), (4, 1, .pass),
  (6, 3, .vertical 2), (6, 2, .vertical (-2)), (7, 3, .vertical 3), (7, 2, .vertical (-3))]

/-- The first position from one on at which the reference line changes to a colour; its end without one. -/
def changeTo (ref : List Bool) (black : Bool) (start : Nat) : Nat :=
  (((List.range ref.length).drop start).find? fun i =>
    ref.getD i false == black && (if i = 0 then false else ref.getD (i - 1) false) != black).getD ref.length

/-- A line decoded against the line above it: `line` is what stands of it, `begun` that a0 is past the imaginary element before
its first. -/
def decodeLine (ref : List Bool) : Nat → (black begun : Bool) → List Bool → List Bool → Option (List Bool × List Bool)
  | 0, _, _, _, _ => none
  | k + 1, black, begun, line, bs =>
    let cols := ref.length
    let a0 := line.length
    if cols ≤ a0 ∧ begun = true then some (line, bs)
    else
      let b1 := changeTo ref (!black) (if begun then a0 + 1 else 0)
      let fill (n : Nat) (c : Bool) (l : List Bool) : List Bool := l ++ List.replicate n c
      match codeWord modeCodes bs with
      | some (.pass, rest) =>
        let b2 := changeTo ref black (b1 + 1)
        decodeLine ref k black true (fill (b2 - a0) black line) rest
      | some (.horizontal, rest) =>
        (match runOf black (rest.length + 1) rest with
          | some (m, rest) =>
            (match runOf (!black) (rest.length + 1) rest with
              | some (n, rest) =>
                if cols < a0 + m + n then none
                else decodeLine ref k black true (fill n (!black) (fill m black line)) rest
              | none => none)
          | none => none)
      | some (.vertical d, rest) =>
        let a1 : Int := b1 + d
        if a1 < a0 ∨ (cols : Int) < a1 then none
        else decodeLine ref k (!black) true (fill (a1.toNat - a0) black line) rest
      | none => none

/-- The lines of a Group 4 stream, true for black, as far as it is sound: up to a number of rows or an EOFB. -/
def group4Lines (ref : List Bool) : Nat → List Bool → List (List Bool)
  | 0, _ => []
  | k + 1, bs =>
    if (takeBits 24 bs).map (·.1) = some 0x001001 then []
    else
      match decodeLine ref (bs.length + 1) false false [] bs with
      | some (line, rest) => line :: group4Lines line k rest
      | none => []

def group4 (cols rows : Nat) (bs : List Byte) : List (List Bool) :=
  group4Lines (List.replicate cols false) rows (bitsOf bs)

/-! ### JPEG: the frame and its tables (T.81, annex B) -/

/-- A JPEG frame header: progressive or baseline, rows, columns, and each component's identifier, sampling factors
(horizontal, vertical) and quantisation table. -/
structure JpegFrame where
  progressive : Bool
  rows : Nat
  cols : Nat
  comps : List (Nat × Nat × Nat × Nat)
deriving DecidableEq, Repr

/-- A Huffman table: how many codes each length has, and the values in the order of their codes. -/
structure Huffman where
  counts : List Nat
  vals : List Nat
deriving DecidableEq, Repr

/-- Blocks of a component: those decoded, row by row, as their 64 coefficients in zigzag order. -/
abbrev Blocks := List (Option (List Int))

/-- A decoder between two markers: the tables in force, the restart interval, and of each component its blocks, the
quantisation table taken at its first scan, and of each coefficient the bit position it has come down to. -/
structure JpegState where
  quant : List (Nat × List Nat)
  huff : List (Nat × Huffman)           -- by destination, 16 more for an AC table
  restart : Nat
  frame : Option JpegFrame
  blocks : List Blocks
  scales : List (Option (List Nat))
  low : List (List (Option Nat))
deriving DecidableEq, Repr

def JpegState.zero : JpegState := ⟨[], [], 0, none, [], [], []⟩

/-- The header in a SOF segment that the decoders accept (R398): 8-bit samples, 1 or 3 components, sampling factors 1 or 2. -/
def jpegFrame (progressive : Bool) (seg : List Byte) : Option JpegFrame :=
  let n := (seg.getD 5 0).toNat
  let comps := (List.range n).map fun i =>
    let b := (seg.getD (6 + 3 * i + 1) 0).toNat
    ((seg.getD (6 + 3 * i) 0).toNat, b / 16, b % 16, (seg.getD (6 + 3 * i + 2) 0).toNat)
  let ok (x : Nat) : Bool := x == 1 || x == 2
  if seg.length = 6 + 3 * n ∧ seg.getD 0 0 = 8 ∧ (n = 1 ∨ n = 3) ∧ be16 (seg.drop 1) ≠ 0 ∧ be16 (seg.drop 3) ≠ 0 ∧
      (comps.all fun c => ok c.2.1 && ok c.2.2.1 && decide (c.2.2.2 < 4)) = true ∧
      (comps.map (·.1)).eraseDups.length = n then
    some ⟨progressive, be16 (seg.drop 1), be16 (seg.drop 3), comps⟩
  else none

def JpegFrame.hmax (f : JpegFrame) : Nat := (f.comps.map (·.2.1)).foldl max 1
def JpegFrame.vmax (f : JpegFrame) : Nat := (f.comps.map (·.2.2.1)).foldl max 1

/-- Interleaved units across and down. -/
def JpegFrame.across (f : JpegFrame) : Nat := (f.cols + 8 * f.hmax - 1) / (8 * f.hmax)
def JpegFrame.down (f : JpegFrame) : Nat := (f.rows + 8 * f.vmax - 1) / (8 * f.vmax)

/-- A component's own columns and rows of samples. -/
def JpegFrame.width (f : JpegFrame) (c : Nat) : Nat := (f.cols * (f.comps.getD c (0, 1, 1, 0)).2.1 + f.hmax - 1) / f.hmax
def JpegFrame.height (f : JpegFrame) (c : Nat) : Nat := (f.rows * (f.comps.getD c (0, 1, 1, 0)).2.2.1 + f.vmax - 1) / f.vmax

/-- The blocks in a row of a component's array. -/
def JpegFrame.stride (f : JpegFrame) (c : Nat) : Nat := f.across * (f.comps.getD c (0, 1, 1, 0)).2.1

/-- The frame taken in: no block decoded; a progressive decoder begins with blocks of zeros. -/
def JpegState.withFrame (j : JpegState) (f : JpegFrame) : JpegState :=
  let b := if f.progressive then some (List.replicate 64 (0 : Int)) else none
  { j with
    frame := some f
    blocks := f.comps.map fun c => List.replicate (f.across * c.2.1 * (f.down * c.2.2.1)) b
    scales := f.comps.map fun _ => none
    low := f.comps.map fun _ => List.replicate 64 none }

/-- Quantisation tables of a DQT segment: 8-bit elements that are not zero. -/
def quantTables : Nat → List Byte → List (Nat × List Nat) → Option (List (Nat × List Nat))
  | _, [], l => some l
  | 0, _, _ => none
  | k + 1, x :: bs, l =>
    let q := (bs.take 64).map (·.toNat)
    if x.toNat < 4 ∧ q.length = 64 ∧ (q.all (· != 0)) = true then quantTables k (bs.drop 64) (put l x.toNat q) else none

/-- No length has more codes than are left for it. -/
def codesFit : List Nat → Nat → Bool
  | [], _ => true
  | n :: ns, room => decide (n ≤ room) && codesFit ns ((room - n) * 2)

/-- Huffman tables of a DHT segment. -/
def huffTables : Nat → List Byte → List (Nat × Huffman) → Option (List (Nat × Huffman))
  | _, [], l => some l
  | 0, _, _ => none
  | k + 1, x :: bs, l =>
    let counts := (bs.take 16).map (·.toNat)
    let vals := ((bs.drop 16).take counts.sum).map (·.toNat)
    if x.toNat / 16 < 2 ∧ x.toNat % 16 < 4 ∧ counts.length = 16 ∧ vals.length = counts.sum ∧
        codesFit counts 2 = true then
      huffTables k (bs.drop (16 + counts.sum)) (put l x.toNat ⟨counts, vals⟩)
    else none

/-! ### Entropy-coded data (T.81, annexes F and G) -/

/-- The value of the Huffman code that bits begin with: codes of each length follow those of the length before. -/
def huffWord : List Nat → List Nat → (code first : Nat) → List Bool → Option (Nat × List Bool)
  | [], _, _, _, _ => none
  | _ :: _, _, _, _, [] => none
  | n :: ns, vals, code, first, b :: bs =>
    let code := code * 2 + b.toNat
    let first := first * 2
    if code < first + n then (vals[code - first]?).map (·, bs) else huffWord ns (vals.drop n) code (first + n) bs

def Huffman.next (h : Huffman) (bs : List Bool) : Option (Nat × List Bool) := huffWord h.counts h.vals 0 0 bs

/-- A difference or coefficient of s bits. -/
def receive (s : Nat) (bs : List Bool) : Option (Int × List Bool) :=
  (takeBits s bs).map fun (x, rest) => (if s ≠ 0 ∧ x < 2 ^ (s - 1) then (x : Int) - 2 ^ s + 1 else x, rest)

/-- A DC difference, at most 11 bits long. -/
def dcDiff (h : Huffman) (bs : List Bool) : Option (Int × List Bool) :=
  match h.next bs with
  | some (s, bs) => if s ≤ 11 then receive s bs else none
  | none => none

/-- What a scan reads with: its first and last coefficient and its bit positions (high, low). -/
structure Scan where
  comps : List (Nat × Nat × Nat)        -- component, DC and AC table
  first : Nat
  last : Nat
  high : Nat
  low : Nat
deriving DecidableEq, Repr

/-- What a scan carries from block to block: the DC predictions, the blocks that an end-of-band run still skips, and the
bits. -/
structure Entropy where
  preds : List Int
  run : Nat
  bits : List Bool
deriving DecidableEq, Repr

/-- Coefficients of a band in their first scan: the block and the state after it. -/
def acFirst (h : Huffman) (last shift : Nat) (progressive : Bool) :
    Nat → (k : Nat) → List Int → List Bool → Option (List Int × Nat × List Bool)
  | 0, _, _, _ => none
  | n + 1, k, b, bs =>
    if last < k then some (b, 0, bs)
    else
      match h.next bs with
      | some (x, bs) =>
        let r := x / 16
        let s := x % 16
        if s = 0 then
          if r = 15 then acFirst h last shift progressive n (k + 16) b bs
          else if r = 0 then some (b, 0, bs)
          else if progressive then (takeBits r bs).map fun (e, bs) => (b, 2 ^ r + e - 1, bs)
          else none
        else if s ≤ 10 ∧ k + r ≤ last then
          (match receive s bs with
            | some (v, bs) => acFirst h last shift progressive n (k + r + 1) (b.set (k + r) (v * 2 ^ shift)) bs
            | none => none)
        else none
      | none => none

/-- One more bit of a coefficient that is not zero. -/
def refineBit (shift : Nat) (v : Int) (bs : List Bool) : Option (Int × List Bool) :=
  match bs with
  | [] => none
  | x :: bs => some (if x then (if v < 0 then v - 2 ^ shift else v + 2 ^ shift) else v, bs)

/-- Coefficients refined from k on until a number of zeros has been passed and another is found: where that one is, or one
more than the last. -/
def refineRun (last shift : Nat) : Nat → (zeros k : Nat) → List Int → List Bool → Option (Nat × List Int × List Bool)
  | 0, _, _, _, _ => none
  | n + 1, zeros, k, b, bs =>
    if last < k then some (k, b, bs)
    else
      let v := b.getD k 0
      if v = 0 then if zeros = 0 then some (k, b, bs) else refineRun last shift n (zeros - 1) (k + 1) b bs
      else
        match refineBit shift v bs with
        | some (v, bs) => refineRun last shift n zeros (k + 1) (b.set k v) bs
        | none => none

/-- A band refined by a bit: the block, the blocks after it that an end-of-band run covers, and the bits. -/
def acRefine (h : Huffman) (last shift : Nat) : Nat → (k : Nat) → List Int → List Bool → Option (List Int × Nat × List Bool)
  | 0, _, _, _ => none
  | n + 1, k, b, bs =>
    if last < k then some (b, 0, bs)
    else
      match h.next bs with
      | some (x, bs) =>
        let r := x / 16
        let s := x % 16
        if s = 0 ∧ r < 15 then
          (match takeBits r bs with
            | some (e, bs) => (refineRun last shift 65 64 k b bs).map fun (_, b, bs) => (b, 2 ^ r + e - 1, bs)
            | none => none)
        else if 1 < s then none
        else
          match (if s = 0 then some (0, bs) else takeBits 1 bs) with
          | none => none
          | some (sign, bs) =>
            match refineRun last shift 65 r k b bs with
            | none => none
            | some (k, b, bs) =>
              if s = 0 then acRefine h last shift n (k + 1) b bs
              else if last < k then none
              else acRefine h last shift n (k + 1) (b.set k (if sign = 1 then 2 ^ shift else -(2 ^ shift))) bs
      | none => none

/-- A block of a scan, by its component's place in the scan, its tables, and what stood of it before. -/
def Scan.block (c : Scan) (progressive : Bool) (i : Nat) (dc ac : Option Huffman) (b : List Int) (e : Entropy) :
    Option (List Int × Entropy) :=
  let dcFirst : Option (List Int × Entropy) :=
    match dc with
    | some h =>
      (dcDiff h e.bits).map fun (d, bs) =>
        let p := e.preds.getD i 0 + d
        (b.set 0 (p * 2 ^ c.low), { e with preds := e.preds.set i p, bits := bs })
    | none => none
  if progressive = false then
    match dcFirst, ac with
    | some (b, e), some h => (acFirst h 63 0 false 65 1 b e.bits).map fun (b, _, bs) => (b, { e with bits := bs })
    | _, _ => none
  else if c.first = 0 then
    if c.high = 0 then dcFirst
    else (takeBits 1 e.bits).map fun (x, bs) => (b.set 0 (b.getD 0 0 + x * 2 ^ c.low), { e with bits := bs })
  else
    match ac with
    | none => none
    | some h =>
      if c.high = 0 then
        if e.run ≠ 0 then some (b, { e with run := e.run - 1 })
        else (acFirst h c.last c.low true 65 c.first b e.bits).map fun (b, r, bs) => (b, { e with run := r, bits := bs })
      else if e.run ≠ 0 then
        (refineRun c.last c.low 65 64 c.first b e.bits).map fun (_, b, bs) => (b, { e with run := e.run - 1, bits := bs })
      else (acRefine h c.last c.low 65 c.first b e.bits).map fun (b, r, bs) => (b, { e with run := r, bits := bs })

/-- The units of a scan, each a list of blocks: a component's place in the scan and the block's number. A scan of one component
has its own blocks one by one, one of several the blocks of each that lie together. -/
def Scan.units (c : Scan) (f : JpegFrame) : List (List (Nat × Nat)) :=
  match c.comps with
  | [(k, _, _)] =>
    let wide := (f.width k + 7) / 8
    (List.range (wide * ((f.height k + 7) / 8))).map fun m => [(0, m / wide * f.stride k + m % wide)]
  | l =>
    (List.range (f.across * f.down)).map fun m =>
      l.zipIdx.flatMap fun ((k, _, _), i) =>
        let (_, h, v, _) := f.comps.getD k (0, 1, 1, 0)
        (List.range (h * v)).map fun n => (i, (m / f.across * v + n / h) * f.stride k + m % f.across * h + n % h)

/-- Blocks decoded one after another, as far as the bits are sound. -/
def Scan.decode (c : Scan) (j : JpegState) (progressive : Bool) :
    List (Nat × Nat) → List Blocks → Entropy → List Blocks × Option Entropy
  | [], bl, e => (bl, some e)
  | (i, n) :: us, bl, e =>
    let (k, dc, ac) := c.comps.getD i (0, 0, 0)
    let b := ((bl.getD k []).getD n none).getD (List.replicate 64 0)
    match c.block progressive i (lookup j.huff dc) (lookup j.huff (16 + ac)) b e with
    | some (b, e) => Scan.decode c j progressive us (bl.set k ((bl.getD k []).set n (some b))) e
    | none => (bl, none)

/-- Restart intervals decoded one after another: each begins anew, and ends within a byte of its data's end. -/
def Scan.intervals (c : Scan) (j : JpegState) (progressive : Bool) :
    List (List Byte) → List (List (Nat × Nat)) → List Blocks → List Blocks × Bool
  | [], us, bl => (bl, us == [])
  | d :: ds, us, bl =>
    let n := if j.restart = 0 then us.length else j.restart
    match Scan.decode c j progressive (us.take n).flatten bl ⟨c.comps.map fun _ => 0, 0, bitsOf d⟩ with
    | (bl, some e) =>
      if us ≠ [] ∧ e.run = 0 ∧ e.bits.length < 8 then Scan.intervals c j progressive ds (us.drop n) bl else (bl, false)
    | (bl, none) => (bl, false)

/-- The data of a scan, without its stuffed bytes, divided at its restart markers, which count up from `n`; and what follows:
another marker, or nothing. -/
def scanData : List Byte → (n : Nat) → (cur : List Byte) → List (List Byte) × List Byte
  | [], _, cur => ([cur], [])
  | x :: [], _, cur => ([cur ++ [x]], [])
  | x :: y :: rest, n, cur =>
    if x ≠ 0xFF then scanData (y :: rest) n (cur ++ [x])
    else if y = 0xFF then scanData (y :: rest) n cur
    else if y = 0 then scanData rest n (cur ++ [x])
    else if y.toNat = 0xD0 + n then
      let (ds, rest) := scanData rest ((n + 1) % 8) []
      (cur :: ds, rest)
    else ([cur], x :: y :: rest)

/-- A scan header (annex B) that its frame allows. -/
def scanOf (f : JpegFrame) (j : JpegState) (seg : List Byte) : Option Scan :=
  let n := (seg.getD 0 0).toNat
  let b (i : Nat) : Nat := (seg.getD i 0).toNat
  let c : Scan :=
    { comps := (List.range n).filterMap fun i =>
        (f.comps.findIdx? fun x => x.1 == b (1 + 2 * i)).map fun k => (k, b (2 + 2 * i) / 16, b (2 + 2 * i) % 16)
      first := b (1 + 2 * n), last := b (2 + 2 * n), high := b (3 + 2 * n) / 16, low := b (3 + 2 * n) % 16 }
  let blocks := (c.comps.map fun x => let y := f.comps.getD x.1 (0, 1, 1, 0); y.2.1 * y.2.2.1).sum
  let ok := c.comps.all fun (k, dc, ac) =>
    let low := j.low.getD k []
    if f.progressive then
      dc < 4 && ac < 4 && decide (c.low ≤ 13) && (c.high == 0 || c.high == c.low + 1) &&
        (if c.first = 0 then c.last == 0 else decide (c.first ≤ c.last ∧ c.last ≤ 63 ∧ n = 1) && (low.getD 0 none).isSome) &&
        (((List.range 64).drop c.first).take (c.last + 1 - c.first)).all fun i =>
          low.getD i none == if c.high = 0 then none else some c.high
    else
      decide (dc < 2 ∧ ac < 2 ∧ c.first = 0 ∧ c.last = 63 ∧ c.high = 0 ∧ c.low = 0) && (j.scales.getD k none).isNone
  let rising := (c.comps.zip c.comps.tail).all fun x => decide (x.1.1 < x.2.1)
  if seg.length = 4 + 2 * n ∧ 1 ≤ n ∧ c.comps.length = n ∧ rising = true ∧ (n = 1 ∨ blocks ≤ 10) ∧ ok = true then some c
  else none

/-- A scan taken in: the state after it, whether it was sound, and what follows. A component keeps the quantisation table in
force at its first scan. -/
def JpegState.scan (j : JpegState) (f : JpegFrame) (c : Scan) (bs : List Byte) : JpegState × Bool × List Byte :=
  let (ds, rest) := scanData bs 0 []
  let table (k : Nat) : Option (List Nat) :=
    match j.scales.getD k none with
    | some q => some q
    | none => lookup j.quant (f.comps.getD k (0, 1, 1, 0)).2.2.2
  if (c.comps.all fun x => (table x.1).isSome) = false then (j, false, rest)
  else
    let (bl, ok) := c.intervals j f.progressive ds (c.units f) j.blocks
    let down (l : List (Option Nat)) : List (Option Nat) :=
      l.zipIdx.map fun (x, i) => if c.first ≤ i ∧ i ≤ c.last then some c.low else x
    ({ j with
        blocks := bl
        scales := c.comps.foldl (fun l x => l.set x.1 (table x.1)) j.scales
        low := c.comps.foldl (fun l x => l.set x.1 (down (l.getD x.1 []))) j.low }, ok, rest)

/-- The segments of a stream after SOI, to the end of the image: what has been decoded, and whether the stream was sound. APP
and COM segments are passed over; a frame of another kind (extended, lossless, hierarchical, arithmetic) is none that the
decoders accept. A baseline image ends with the last scan of its components, a progressive one at EOI. -/
def jpegMarkers : Nat → JpegState → List Byte → JpegState × Bool
  | 0, j, _ => (j, false)
  | k + 1, j, bs =>
    match bs with
    | x :: m :: rest =>
      if x ≠ 0xFF then (j, false)
      else if m = 0xFF then jpegMarkers k j (m :: rest)
      else if m = 0xD9 then (j, j.low.all fun l => (l.getD 0 none).isSome)
      else
        let n := be16 rest
        let seg := (rest.take n).drop 2
        let rest' := rest.drop n
        if n < 2 ∨ rest.length < n then (j, false)
        else if m = 0xC0 ∨ m = 0xC2 then
          (match j.frame, jpegFrame (m == 0xC2) seg with
            | none, some f => jpegMarkers k (j.withFrame f) rest'
            | _, _ => (j, false))
        else if m = 0xC4 then
          (match huffTables seg.length seg j.huff with
            | some l => jpegMarkers k { j with huff := l } rest'
            | none => (j, false))
        else if m = 0xDB then
          (match quantTables seg.length seg j.quant with
            | some l => jpegMarkers k { j with quant := l } rest'
            | none => (j, false))
        else if m = 0xDD then
          if seg.length = 2 then jpegMarkers k { j with restart := be16 seg } rest' else (j, false)
        else if m = 0xFE ∨ m.toNat / 16 = 0xE then jpegMarkers k j rest'
        else if m = 0xDA then
          (match j.frame with
            | some f =>
              (match scanOf f j seg with
                | some c =>
                  (match j.scan f c rest' with
                    | (j, false, _) => (j, false)
                    | (j, true, rest) =>
                      if f.progressive = false ∧ (j.scales.all (·.isSome)) = true then (j, true) else jpegMarkers k j rest)
                | none => (j, false))
            | none => (j, false))
        else (j, false)
    | _ => (j, false)

/-- A JPEG stream decoded as far as it is sound: its frame, and of each component the blocks and their quantisation table. Of a
progressive image nothing stands before its last scan. -/
def jpegOf (bs : List Byte) : Option (JpegFrame × List (Blocks × List Nat)) :=
  match bs with
  | x :: y :: rest =>
    if x = 0xFF ∧ y = 0xD8 then
      let (j, sound) := jpegMarkers bs.length JpegState.zero rest
      j.frame.map fun f =>
        (f, (j.blocks.zip j.scales).map fun (b, q) =>
          (if f.progressive && !sound then b.map fun _ => none else b, q.getD []))
    else none
  | _ => none

/-! ### Samples and pixels (R399) -/

/-- Component c of the pixel at a row and column: its own sample or, of a component of fewer samples, the one it is replicated
from. -/
def JpegFrame.sample (f : JpegFrame) (planes : List (Blocks × List Nat)) (c y x : Nat) : Option Nat :=
  let (_, h, v, _) := f.comps.getD c (0, 1, 1, 0)
  let row := y * v / f.vmax
  let col := x * h / f.hmax
  let (bl, q) := planes.getD c ([], [])
  (bl.getD (row / 8 * f.stride c + col / 8) none).bind fun b =>
    ((Config.idct ((b.zip q).map fun (x, y) => x * (y : Int)))[row % 8 * 8 + col % 8]?).map (·.toNat)

/-- A channel of RGB from YCbCr by the equations of JFIF with coefficients of 16 fraction bits, rounded to nearest and clamped
(R399; log entry 112). -/
def jfif (h y cb cr : Nat) : Nat :=
  let b : Int := (cb : Int) - 128
  let r : Int := (cr : Int) - 128
  let x : Int := ((y : Int) * 65536 + (match h with | 0 => 91881 * r | 1 => -(22554 * b) - 46802 * r | _ => 116130 * b) + 32768) / 65536
  if x < 0 then 0 else if 255 < x then 255 else x.toNat

/-- A pixel's channel of a JPEG image (R399): Y or grey alone with CH 1, a grey image replicated, or RGB. -/
def JpegFrame.pixel (f : JpegFrame) (planes : List (Blocks × List Nat)) (ch h y x : Nat) : Option Nat :=
  match f.sample planes 0 y x with
  | none => none
  | some l =>
    if ch = 1 ∨ f.comps.length = 1 then some l
    else
      match f.sample planes 1 y x, f.sample planes 2 y x with
      | some cb, some cr => some (jfif h l cb cr)
      | _, _ => none

end Sys2Proof.Machine
end

