-- ==== Sys2Proof/Machine/Flags.lean ====
section
/-! DEFINITION. The six FPFLAGS bits and every flag computation of rounding and clamping (R211 to R217). -/

namespace Sys2Proof.Machine

/-- FPFLAGS bits (Table 11.5). -/
abbrev Flags := BitVec 6

def flNV : Flags := 0x01#6
def flDZ : Flags := 0x02#6
def flOF : Flags := 0x04#6
def flUF : Flags := 0x08#6
def flNX : Flags := 0x10#6
def flSAT : Flags := 0x20#6

def flagIf (b : Bool) (f : Flags) : Flags := if b then f else 0#6

/-- The union of many flags. -/
def orFlags (l : List Flags) : Flags := l.foldl (· ||| ·) 0#6

/-- A floating-point format (Table 11.2). -/
structure FFmt where
  ebits : Nat
  fbits : Nat
  bias : Nat
  hasInf : Bool
  maxFinite : Nat
  defaultNaN : Nat
deriving DecidableEq, Repr

/-- The format of a float tag; any other tag reads as F32, and no caller asks for one. -/
def ffmt (t : Nat) : FFmt :=
  match t with
  | 6 => ⟨5, 10, 15, true, 0x7BFF, 0x7E00⟩
  | 7 => ⟨8, 7, 127, true, 0x7F7F, 0x7FC0⟩
  | 9 => ⟨4, 3, 7, false, 0x7E, 0x7F⟩
  | 10 => ⟨5, 2, 15, true, 0x7B, 0x7E⟩
  | _ => ⟨8, 23, 127, true, 0x7F7FFFFF, 0x7FC00000⟩

/-- A tag of a plain float format: F16, BF16, F32, E4M3 or E5M2. -/
def isFloat (t : Nat) : Bool := decide (6 ≤ t ∧ t ≤ 10)

/-- An exact value: a NaN (signalling or quiet), an infinity, a zero, or a non-zero real. A `num` with `sticky` stands
for a real strictly between m × 2^e and (m + 1) × 2^e, and without it for m × 2^e. -/
inductive FVal where
  | nan (signal : Bool)
  | inf (neg : Bool)
  | zero (neg : Bool)
  | num (neg : Bool) (m : Nat) (e : Int) (sticky : Bool)
deriving DecidableEq, Repr

/-- The value of a bit pattern (R211). -/
def unpackF (f : FFmt) (x : Nat) : FVal :=
  let neg := bit x (f.ebits + f.fbits)
  let e := x / 2 ^ f.fbits % 2 ^ f.ebits
  let fr := x % 2 ^ f.fbits
  if e = 2 ^ f.ebits - 1 ∧ f.hasInf then
    if fr = 0 then .inf neg else .nan (!bit fr (f.fbits - 1))
  else if e = 2 ^ f.ebits - 1 ∧ fr = 2 ^ f.fbits - 1 then .nan false
  else if e = 0 then
    if fr = 0 then .zero neg else .num neg fr (1 - (f.bias : Int) - f.fbits) false
  else .num neg (2 ^ f.fbits + fr) ((e : Int) - f.bias - f.fbits) false

def FVal.isNaN : FVal → Bool
  | .nan _ => true
  | _ => false

def FVal.signalling : FVal → Bool
  | .nan s => s
  | _ => false

def FVal.neg : FVal → Bool
  | .nan _ => false
  | .inf n => n
  | .zero n => n
  | .num n _ _ _ => n

def FVal.negate : FVal → FVal
  | .nan s => .nan s
  | .inf n => .inf (!n)
  | .zero n => .zero (!n)
  | .num n m e s => .num (!n) m e s

/-- m shifted right, rounded in a mode of Table 11.3, and whether that was inexact. -/
def roundShift (rm : Nat) (neg : Bool) (m shift : Nat) (sticky : Bool) : Nat × Bool :=
  let q := m / 2 ^ shift
  let r := m % 2 ^ shift
  let inexact := r != 0 || sticky
  let up :=
    match rm with
    | 0 => decide (2 ^ shift < 2 * r) || (2 * r == 2 ^ shift && (sticky || q % 2 == 1))
    | 1 => false
    | 2 => neg && inexact
    | 3 => !neg && inexact
    | _ => decide (2 ^ shift ≤ 2 * r)
  (if up then q + 1 else q, inexact)

/-- m × 2^e as a multiple of 2^q. -/
def roundTo (rm : Nat) (neg : Bool) (m : Nat) (e : Int) (sticky : Bool) (q : Int) : Nat × Bool :=
  if e ≤ q then roundShift rm neg m (q - e).toNat sticky else (m * 2 ^ (e - q).toNat, sticky)

/-- Rounding to a format (R213, R215, R217): the bits and the flags. -/
def roundF (f : FFmt) (rm : Nat) (sat : Bool) (x : FVal) : Nat × Flags :=
  let top := 2 ^ (f.ebits + f.fbits)
  let signed (neg : Bool) (v : Nat) : Nat := if neg then top + v else v
  let infBits (neg : Bool) : Nat := if f.hasInf then signed neg (2 ^ f.fbits * (2 ^ f.ebits - 1)) else f.defaultNaN
  match x with
  | .nan s => (f.defaultNaN, flagIf s flNV)
  | .inf neg => if sat then (signed neg f.maxFinite, flSAT) else (infBits neg, 0)
  | .zero neg => (signed neg 0, 0)
  | .num neg m e sticky =>
    let emin : Int := 1 - f.bias
    let lead : Int := e + Nat.log2 m
    let q : Int := max (lead - f.fbits) (emin - f.fbits)
    let (n, inexact) := roundTo rm neg m e sticky q
    -- n × 2^q; a carry out of the fraction leaves n = 2^(fbits+1)
    let raw := if n < 2 ^ f.fbits then n else ((q + f.fbits + f.bias).toNat - 1) * 2 ^ f.fbits + n
    if f.maxFinite < raw then
      let toInf := rm = 0 ∨ rm = 4 ∨ (rm = 3 ∧ neg = false) ∨ (rm = 2 ∧ neg = true)
      if toInf then
        if sat then (signed neg f.maxFinite, flOF ||| flNX ||| flSAT) else (infBits neg, flOF ||| flNX)
      else (signed neg f.maxFinite, flOF ||| flNX)
    else
      -- tiny after rounding: the result rounded with an unbounded exponent lies below 2^emin
      let (n', _) := roundTo rm neg m e sticky (lead - f.fbits)
      let tiny := decide (lead < emin) && !(lead == emin - 1 && n' == 2 ^ (f.fbits + 1))
      (signed neg raw, flagIf inexact flNX ||| flagIf (inexact && tiny) flUF)

/-- Exact sum; an exact zero from a cancellation or from zeros of opposite sign is −0 in RDN only (R303). -/
def addV (rm : Nat) (x y : FVal) : FVal :=
  match x, y with
  | .nan s, .nan t => .nan (s || t)
  | .nan s, _ => .nan s
  | _, .nan t => .nan t
  | .inf n, .inf n' => if n = n' then .inf n else .nan true
  | .inf n, _ => .inf n
  | _, .inf n => .inf n
  | .zero n, .zero n' => if n = n' then .zero n else .zero (rm == 2)
  | .zero _, v => v
  | v, .zero _ => v
  | .num n m e s, .num n' m' e' s' =>
    let q := min e e'
    let a : Int := (m * 2 ^ (e - q).toNat : Nat)
    let b : Int := (m' * 2 ^ (e' - q).toNat : Nat)
    let t := (if n then -a else a) + (if n' then -b else b)
    if t = 0 then .zero (rm == 2) else .num (decide (t < 0)) t.natAbs q (s || s')

/-- Exact product; 0 × ∞ is an invalid NaN (R215). -/
def mulV (x y : FVal) : FVal :=
  match x, y with
  | .nan s, .nan t => .nan (s || t)
  | .nan s, _ => .nan s
  | _, .nan t => .nan t
  | .inf _, .zero _ => .nan true
  | .zero _, .inf _ => .nan true
  | .inf n, v => .inf (n != v.neg)
  | v, .inf n => .inf (n != v.neg)
  | .zero n, v => .zero (n != v.neg)
  | v, .zero n => .zero (n != v.neg)
  | .num n m e s, .num n' m' e' s' => .num (n != n') (m * m') (e + e') (s || s')

/-- The quotient of two positive dyadic numbers to at least p + 3 bits with a sticky remainder. -/
def ratio (neg : Bool) (m m' : Nat) (e : Int) (p : Nat) : FVal :=
  let k := p + 3 + Nat.log2 m' + 1
  .num neg (m * 2 ^ k / m') (e - k) (m * 2 ^ k % m' != 0)

/-- Exact quotient to p bits and the DZ flag (R305). -/
def divV (p : Nat) (x y : FVal) : FVal × Flags :=
  match x, y with
  | .nan s, .nan t => (.nan (s || t), 0)
  | .nan s, _ => (.nan s, 0)
  | _, .nan t => (.nan t, 0)
  | .inf _, .inf _ => (.nan true, 0)
  | .inf n, v => (.inf (n != v.neg), 0)
  | v, .inf n => (.zero (n != v.neg), 0)
  | .zero _, .zero _ => (.nan true, 0)
  | v, .zero n => (.inf (n != v.neg), flDZ)
  | .zero n, v => (.zero (n != v.neg), 0)
  | .num n m e _, .num n' m' e' _ => (ratio (n != n') m m' (e - e') p, 0)

/-- The integer square root by b binary digits of the result, highest first. -/
def isqrt (x : Nat) : Nat → Nat → Nat
  | 0, r => r
  | b + 1, r => let t := r + 2 ^ b; isqrt x b (if t * t ≤ x then t else r)

/-- The square root to p bits (R305): −0 stays, a negative is invalid. -/
def sqrtV (p : Nat) (x : FVal) : FVal :=
  match x with
  | .nan s => .nan s
  | .zero n => .zero n
  | .inf n => if n then .nan true else .inf false
  | .num n m e _ =>
    if n then .nan true
    else
      let odd := e % 2 != 0
      let m' := if odd then 2 * m else m
      let e' := if odd then e - 1 else e
      let k := p + 4
      let big := m' * 2 ^ (2 * k)
      let r := isqrt big (k + Nat.log2 m' + 2) 0
      .num false r (e' / 2 - k) (r * r != big)

/-- Arithmetic of two operands at a float type (R303). -/
inductive Arith where
  | add | sub | mul | div
deriving DecidableEq, Repr

def arithF (op : Arith) (t rm a b : Nat) : Nat × Flags :=
  let f := ffmt t
  let x := unpackF f a
  let y := unpackF f b
  let (v, fl) := match op with
    | .add => (addV rm x y, (0 : Flags))
    | .sub => (addV rm x y.negate, 0)
    | .mul => (mulV x y, 0)
    | .div => divV f.fbits x y
  let (r, fl') := roundF f rm false v
  (r, fl ||| fl')

/-- a × b ± c, exact, then rounded once (R303). -/
def fmaF (t rm a b c : Nat) (sub : Bool) : Nat × Flags :=
  let f := ffmt t
  let z := unpackF f c
  roundF f rm false (addV rm (mulV (unpackF f a) (unpackF f b)) (if sub then z.negate else z))

def sqrtF (t rm a : Nat) : Nat × Flags :=
  let f := ffmt t
  roundF f rm false (sqrtV f.fbits (unpackF f a))

/-- The order of two values that are not NaN: less, equal or greater, −0 equal to +0. -/
def cmpV (x y : FVal) : Ordering :=
  let key : FVal → Int × Nat × Int := fun v =>
    match v with
    | .nan _ => (0, 0, 0)
    | .inf n => (if n then -2 else 2, 0, 0)
    | .zero _ => (0, 0, 0)
    | .num n m e _ => (if n then -1 else 1, m, e)
  match key x, key y with
  | (s, m, e), (s', m', e') =>
    if s < s' then .lt else if s' < s then .gt
    else if s = 1 ∨ s = -1 then
      let q := min e e'
      let c := compare (m * 2 ^ (e - q).toNat) (m' * 2 ^ (e' - q).toNat)
      if s = 1 then c else c.swap
    else .eq

/-- MIN and MAX at a float type (R197): a NaN gives the default NaN, and −0 orders below +0; a signalling operand
raises NV where a flag is kept (R303). -/
def minMaxF (big : Bool) (t a b : Nat) : Nat × Flags :=
  let f := ffmt t
  let x := unpackF f a
  let y := unpackF f b
  if x.isNaN || y.isNaN then (f.defaultNaN, flagIf (x.signalling || y.signalling) flNV)
  else
    let aLess := match cmpV x y with
      | .lt => true
      | .gt => false
      | .eq => x.neg || !y.neg
    -- aLess: a orders at or below b
    (if big then (if aLess then b else a) else (if aLess then a else b), 0)

/-- RNE to an integer of the exact value n/d of a non-negative quotient. -/
def rneDiv (n d : Nat) : Nat :=
  let q := n / d
  let r := n % d
  if d < 2 * r ∨ (d = 2 * r ∧ q % 2 = 1) then q + 1 else q

/-- The value of an integer as an exact real. -/
def intV (x : Int) : FVal := if x = 0 then .zero false else .num (decide (x < 0)) x.natAbs 0 false

/-- A finite value rounded to an integer, and whether that was inexact. -/
def roundInt (rm : Nat) (n : Bool) (m : Nat) (e : Int) (s : Bool) : Int × Bool :=
  -- beyond 2^80 every value clamps alike; below 2^-40 every value rounds alike
  let lead : Int := e + Nat.log2 m
  let (r, inexact) :=
    if 80 < lead then (2 ^ 80, s)
    else if lead < -40 then roundShift rm n 1 40 true
    else roundTo rm n m e s 0
  (if n then -(r : Int) else r, inexact)

/-- A value rounded to an integer type and clamped to its range (R217): a clamp or a NaN sets NV, and a rounding that
changed the value sets NX, clamped or not (Table 11.5). -/
def toIntF (t rm : Nat) (x : FVal) : Nat × Flags :=
  let w := tagWidth t
  let (lo, hi) := intRange t
  match x with
  | .nan _ => (0, flNV)
  | .inf n => (ofSigned w (if n then lo else hi), flNV)
  | .zero _ => (0, 0)
  | .num n m e s =>
    let (v, inexact) := roundInt rm n m e s
    let c := clampInt lo hi v
    (ofSigned w c, flagIf (c != v) flNV ||| flagIf inexact flNX)

/-- Every value of the first format is one of the second: its conversion is exact (Table 11.6). -/
def FFmt.within (f g : FFmt) : Bool := decide (f.ebits ≤ g.ebits ∧ f.fbits ≤ g.fbits)

/-- Conversions between types (Table 11.6). Of an integer made a float `.sat` clamps E4M3 alone, which has no infinity
(R213). -/
def convertF (src dst rm : Nat) (sat : Bool) (x : Nat) : Nat × Flags :=
  if isFloat src then
    let v := unpackF (ffmt src) x
    if isFloat dst then
      roundF (ffmt dst) rm (sat && !(ffmt src).within (ffmt dst)) v
    else toIntF dst rm v
  else
    let v := intVal src x
    if isFloat dst then roundF (ffmt dst) rm (sat && !(ffmt dst).hasInf) (intV v)
    else
      let w := tagWidth dst
      let (lo, hi) := intRange dst
      let c := clampInt lo hi v
      if tagWidth src < w then (ofSigned w v, 0)
      else if sat then (ofSigned w c, flagIf (c != v) flSAT)
      else (ofSigned w v, 0)

/-- An exact integer result narrowed to a type: wrapped, or clamped with sat, SAT when the clamp changes it (R301). -/
def fitInt (t : Nat) (sat : Bool) (v : Int) : Nat × Flags :=
  let w := tagWidth t
  if sat then
    let (lo, hi) := intRange t
    let c := clampInt lo hi v
    (ofSigned w c, flagIf (c != v) flSAT)
  else (ofSigned w v, 0)

end Sys2Proof.Machine
end

