-- ==== Sys2Proof/Machine/Special.lean ====
section
/-! DEFINITION. The special functions of R230, each the exact function in fixed point with 704 fraction bits, rounded
once to F32. That 704 bits decide every rounding is presumed (log entry 8): a sign of the remainder beyond them is
taken as positive, which the sticky bit says. -/

namespace Sys2Proof.Machine

/-- Fraction bits of the fixed-point evaluation. -/
def fxBits : Nat := 704

/-- One in fixed point. -/
def fxOne : Nat := 2 ^ fxBits

def fxMul (a b : Nat) : Nat := a * b / fxOne

/-- Σ x^(2k+1) / (2k+1) for an x of at most 1/3, n terms: the inverse hyperbolic tangent. -/
def fxAtanh (x2 : Nat) : Nat → Nat → Nat → Nat
  | 0, _, _ => 0
  | n + 1, p, k => p / (2 * k + 1) + fxAtanh x2 n (fxMul p x2) (k + 1)

/-- Σ ± x^(2k+1) / (2k+1): the inverse tangent of 1/d. -/
def fxAtanInv (d : Nat) : Nat → Nat → Nat → Int
  | 0, _, _ => 0
  | n + 1, p, k =>
    (if k % 2 = 0 then ((p / (2 * k + 1) : Nat) : Int) else -((p / (2 * k + 1) : Nat) : Int)) +
      fxAtanInv d n (p / (d * d)) (k + 1)

/-- ln 2 = 2 artanh(1/3). -/
def fxLn2 : Nat := 2 * fxAtanh (fxOne / 9) 230 (fxOne / 3) 0

/-- π = 16 arctan(1/5) − 4 arctan(1/239). -/
def fxPi : Nat := (16 * fxAtanInv 5 160 (fxOne / 5) 0 - 4 * fxAtanInv 239 60 (fxOne / 239) 0).toNat

/-- Σ y^k / k!, n terms, from the term p of index k. -/
def fxExpSum (y : Nat) : Nat → Nat → Nat → Nat
  | 0, _, _ => 0
  | n + 1, p, k => p + fxExpSum y n (fxMul p y / (k + 1)) (k + 1)

/-- 2^f for a fixed-point f below 1. -/
def fxExp2 (f : Nat) : Nat := fxExpSum (fxMul f fxLn2) 160 fxOne 0

/-- Alternating series of sine (from p = y, k = 1) and cosine (from p = 1, k = 0). -/
def fxTrig (y2 : Nat) : Nat → Nat → Nat → Int
  | 0, _, _ => 0
  | n + 1, p, k => (p : Int) - fxTrig y2 n (fxMul p y2 / ((k + 1) * (k + 2))) (k + 2)

def fxSin (y : Nat) : Nat := (fxTrig (fxMul y y) 100 y 1).toNat
def fxCos (y : Nat) : Nat := (fxTrig (fxMul y y) 100 fxOne 0).toNat

/-- A fixed-point magnitude as an exact value known to be irrational: its last ten bits are cut off. -/
def fxVal (neg : Bool) (x : Nat) : FVal := .num neg (x / 2 ^ 10) (10 - (fxBits : Int)) true

/-- A dyadic number as floor and fixed-point fraction in [0, 1). -/
def fxSplit (n : Bool) (m : Nat) (e : Int) : Int × Nat :=
  let x : Int := if n then -(m : Int) else m
  let y : Int := if 0 ≤ e then x * 2 ^ (e.toNat + fxBits) else x * 2 ^ fxBits / 2 ^ (-e).toNat
  (y / fxOne, (y % fxOne).toNat)

/-- An integral dyadic number. -/
def isIntegral (m : Nat) (e : Int) : Bool := decide (0 ≤ e) || m % 2 ^ (-e).toNat == 0

/-- 2^x (R230, Table 11.11). -/
def exp2V (x : FVal) : FVal :=
  match x with
  | .nan s => .nan s
  | .inf n => if n then .zero false else .inf false
  | .zero _ => .num false 1 0 false
  | .num n m e _ =>
    let lead : Int := e + Nat.log2 m
    if 9 < lead then .num false 1 (if n then -1000 else 1000) true
    else
      let (k, f) := fxSplit n m e
      if isIntegral m e then .num false 1 k false
      else if k < -152 then .num false 1 (-1000) true
      else .num false (fxExp2 f / 2 ^ 10) (k + 10 - (fxBits : Int)) true

/-- log2 of a positive number, with its sign (R230). -/
def log2V (x : FVal) : FVal × Flags :=
  match x with
  | .nan s => (.nan s, 0)
  | .zero _ => (.inf true, flDZ)
  | .inf n => if n then (.nan true, 0) else (.inf false, 0)
  | .num n m e _ =>
    if n then (.nan true, 0)
    else
      let l := Nat.log2 m
      let k : Int := e + l
      if m = 2 ^ l then (intV k, 0)
      else
        -- m / 2^l in (1, 2): log2 = 2 artanh((m − 2^l) / (m + 2^l)) / ln 2
        let z := (m - 2 ^ l) * fxOne / (m + 2 ^ l)
        let frac := 2 * fxAtanh (fxMul z z) 230 z 0 * fxOne / fxLn2
        let t : Int := k * fxOne + frac
        if t < 0 then (.num true ((-t).toNat / 2 ^ 10) (10 - (fxBits : Int)) true, 0)
        else (fxVal false t.toNat, 0)

/-- sin and cos of 2π × a turn fraction f in [0, 1) that is no multiple of 1/4: the sign and the magnitude. -/
def sinTurn (f : Nat) : FVal :=
  let quarter := fxOne / 4
  let q := f / quarter
  let r := f % quarter
  -- sin on the first quarter of r, cos on it when the quarter is odd, negative in the upper half
  let mag :=
    if q % 2 = 0 then fxSin (2 * fxMul r fxPi) else fxCos (2 * fxMul r fxPi)
  fxVal (decide (2 ≤ q)) mag

/-- sin(2πx) and cos(2πx) (R230): the exact cases of Table 11.11 first. -/
def trigV (cosine : Bool) (x : FVal) : FVal :=
  match x with
  | .nan s => .nan s
  | .inf _ => .nan true
  | .zero n => if cosine then .num false 1 0 false else .zero n
  | .num n m e _ =>
    if isIntegral m (e + 2) then
      let q : Int := if 0 ≤ e + 2 then (if e + 2 = 0 ∨ e + 2 = 1 then (m * 2 ^ (e + 2).toNat : Nat) else 0)
        else (m / 2 ^ (-(e + 2)).toNat : Nat)
      let q := (if n then -q else q) % 4
      let q := if cosine then (q + 1) % 4 else q
      if q = 0 ∨ q = 2 then .zero false else .num (q == 3) 1 0 false
    else
      -- sine is odd: reduce the magnitude, so that a tiny argument keeps its bits
      let (_, f) := fxSplit false m e
      if cosine then sinTurn ((f + fxOne / 4) % fxOne)
      else if n then (sinTurn f).negate else sinTurn f

/-- tanh (R230): 1 − 2 / (e^(2|x|) + 1), with the sign of x. -/
def tanhV (x : FVal) : FVal :=
  match x with
  | .nan s => .nan s
  | .inf n => .num n 1 0 false
  | .zero n => .zero n
  | .num n m e _ =>
    let lead : Int := e + Nat.log2 m
    if 6 < lead then .num n (2 ^ 100 - 1) (-100) true
    else
      let (k, f) := fxSplit false m e
      -- 2|x| / ln 2 = j + g
      let t := 2 * (k.toNat * fxOne + f) * fxOne / fxLn2
      let j := t / fxOne
      let ex := fxExp2 (t % fxOne) * 2 ^ j
      fxVal n ((ex - fxOne) * fxOne / (ex + fxOne))

/-- 1 / sqrt x (R230). -/
def rsqV (x : FVal) : FVal × Flags :=
  match x with
  | .nan s => (.nan s, 0)
  | .zero n => (.inf n, flDZ)
  | .inf n => if n then (.nan true, 0) else (.zero false, 0)
  | .num n m e _ =>
    if n then (.nan true, 0)
    else
      let odd := e % 2 != 0
      let m' := if odd then 2 * m else m
      let e' := if odd then e - 1 else e
      let k := 40 + Nat.log2 m'
      let big := 2 ^ (2 * k) / m'
      let r := isqrt big (k + 2) 0
      (.num false r (-(k : Int) - e' / 2) (r * r != big || 2 ^ (2 * k) % m' != 0), 0)

/-- The seven functions of R230 by name. -/
inductive Special where
  | rcp | rsq | exp2 | log2 | sint | cost | tanh
deriving DecidableEq, Repr

/-- A special function of an F32 value, rounded once by rm (R230, R305). -/
def specialF (fn : Special) (rm a : Nat) : Nat × Flags :=
  let f := ffmt 8
  let x := unpackF f a
  let (v, fl) := match fn with
    | .rcp => divV 23 (.num false 1 0 false) x
    | .rsq => rsqV x
    | .exp2 => (exp2V x, (0 : Flags))
    | .log2 => log2V x
    | .sint => (trigV false x, 0)
    | .cost => (trigV true x, 0)
    | .tanh => (tanhV x, 0)
  let (r, fl') := roundF f rm false v
  (r, fl ||| fl')

end Sys2Proof.Machine
end

