-- ==== Sys2Proof/Machine/Maps.lean ====
section
/-! DEFINITION. Region descriptors (R144 to R146), the key maps (R181 to R191) and the window accumulators (R195 to
R202) as functions of their descriptors and contents. -/

namespace Sys2Proof.Machine

/-! ### Region descriptors -/

/-- A region descriptor (Tables 7.6 and 7.7). -/
structure Region where
  base : Nat
  size : Nat
  sync : Nat
  kind : Nat                    -- 0 PLAIN, 1 GUARDED, 2 HALO, 3 BSUM, 4 MAP, 5 WIN
  scope : Nat
  homep : Nat
  hdie : Nat
  hslice : Nat
  kindf : Nat                   -- 256 bits
deriving DecidableEq, Repr

/-- An address in a fixed window or in the range beside them (Table 7.1). -/
def inFixedWindow (va : Nat) : Bool := decide (0xF0 ≤ va / 2 ^ 48 % 256)

/-- The HALO fields of Table 7.8. -/
structure Halo where
  tr : Nat
  tc : Nat
  e : Nat                       -- bytes of an element
  hn : Nat
  hs : Nat
  hw : Nat
  he : Nat
  gr : Nat
  gc : Nat
  spoff : Nat
deriving DecidableEq, Repr

def haloOf (k : Nat) : Halo where
  tr := bits k 15 0
  tc := bits k 31 16
  e := 2 ^ bits k 33 32
  hn := bits k 37 34
  hs := bits k 41 38
  hw := bits k 45 42
  he := bits k 49 46
  gr := bits k 79 64
  gc := bits k 95 80
  spoff := bits k 115 96

/-- The bytes of a tile. -/
def Halo.tileBytes (h : Halo) : Nat := h.tr * h.tc * h.e

/-- The end of the strips in the scratchpad (R146). -/
def Halo.stripEnd (h : Halo) : Nat :=
  h.spoff + (h.hn + h.hs) * h.tc * h.e + h.tr * h.hw * h.e + h.tr * h.he * h.e

/-- The HALO conditions; the strips are held against the largest scratchpad, 448 KiB, here. -/
def Halo.valid (h : Halo) (k size : Nat) : Bool :=
  decide (1 ≤ h.tr ∧ 1 ≤ h.tc ∧ 1 ≤ h.gr ∧ 1 ≤ h.gc ∧ h.hn ≤ h.tr ∧ h.hs ≤ h.tr ∧ h.hw ≤ h.tc ∧ h.he ≤ h.tc ∧
    h.spoff % 64 = 0 ∧ bits k 63 50 = 0 ∧ bits k 255 116 = 0 ∧
    h.gr * h.gc * h.tileBytes ≤ size ∧ h.stripEnd ≤ 458752)

/-- The fields of a map (Table 9.1). -/
structure MapDesc where
  k16 : Bool
  vsz : Nat
  shlog : Nat
  ident : Bool
  c0 : Nat
  cmax : Nat
deriving DecidableEq, Repr

def mapOf (k : Nat) : MapDesc where
  k16 := bit k 0
  vsz := bits k 7 4
  shlog := bits k 11 8
  ident := bits k 13 12 == 1
  c0 := bits k 20 16
  cmax := bits k 28 24

/-- R181, R182: ranges, reserved bits and the size rule. -/
def MapDesc.valid (m : MapDesc) (k size : Nat) : Bool :=
  let e := 8 * (1 + if m.k16 then 1 else 0) + 8 * m.vsz + 8
  decide (bits k 3 1 = 0 ∧ m.vsz ≤ 8 ∧ m.shlog ≤ 12 ∧ bits k 13 12 ≤ 1 ∧ bits k 15 14 = 0 ∧ 3 ≤ m.c0 ∧ m.c0 ≤ 28 ∧
    bits k 23 21 = 0 ∧ m.c0 ≤ m.cmax ∧ m.cmax ≤ 28 ∧ bits k 255 29 = 0 ∧ size % (64 * 2 ^ m.shlog) = 0 ∧
    2 ^ m.shlog * 3 * 2 ^ m.cmax * e ≤ size) && !(m.ident && m.k16)

/-- The fields of a window (Table 10.1). -/
structure WinDesc where
  op : Nat
  lw : Bool
  lanes : Nat                   -- lanes minus one
  wmax : Nat
  w0 : Nat
deriving DecidableEq, Repr

def winOf (k : Nat) : WinDesc where
  op := bits k 3 0
  lw := bit k 4
  lanes := bits k 11 8
  wmax := bits k 26 16
  w0 := bits k 42 32

/-- The lane widths Table 10.2 allows an operator. -/
def laneOk (op : Nat) (lw : Bool) : Bool :=
  match op with
  | 0 | 7 | 8 | 9 => true
  | 10 | 11 => lw
  | _ => !lw && decide (op ≤ 6)

def WinDesc.valid (w : WinDesc) (k size : Nat) : Bool :=
  decide (bits k 7 5 = 0 ∧ bits k 15 12 = 0 ∧ bits k 31 27 = 0 ∧ bits k 255 43 = 0 ∧ w.lanes ≤ (if w.lw then 7 else 15) ∧
    1 ≤ w.wmax ∧ w.wmax ≤ 1024 ∧ 1 ≤ w.w0 ∧ w.w0 ≤ w.wmax ∧ 256 + 128 * w.wmax ≤ size) && laneOk w.op w.lw

/-- The fields of a bounded-sum region (Table 10.6). -/
structure SumDesc where
  float : Bool
  limit : Nat
deriving DecidableEq, Repr

def sumOf (k : Nat) : SumDesc := ⟨bit k 0, bits k 63 32⟩

def SumDesc.valid (d : SumDesc) (k size : Nat) : Bool :=
  decide (bits k 31 1 = 0 ∧ bits k 255 64 = 0 ∧ size % 128 = 0 ∧ d.limit < (if d.float then 0x7F800000 else 2 ^ 31))

/-- The grant size g (R204). -/
def SumDesc.grant (d : SumDesc) : Nat :=
  if d.float then
    (roundF (ffmt 8) 0 false (mulV (unpackF (ffmt 8) d.limit) (.num false 1 (-4) false))).1
  else d.limit / 16

/-- A descriptor of 64 bytes, or none when it is not valid or not live (R144 to R146). `dies` are the dies of the
atoll. The page map's BASE is a tenant physical address (R146, R147). -/
def regionOf (bytes : BitVec 512) (dies : List Nat) : Option Region :=
  let x := bytes.toNat
  let r : Region :=
    { base := bits x 63 0, size := bits x 127 64, sync := bits x 191 128, kind := bits x 195 193,
      scope := bits x 198 196, homep := bits x 200 199, hdie := bits x 202 201, hslice := bits x 207 203,
      kindf := bits x 511 256 }
  let homed := decide (3 ≤ r.kind)
  let own :=
    match r.kind with
    | 0 | 1 => r.kindf == 0
    | 2 => (haloOf r.kindf).valid r.kindf r.size
    | 3 => (sumOf r.kindf).valid r.kindf r.size
    | 4 => (mapOf r.kindf).valid r.kindf r.size
    | 5 => (winOf r.kindf).valid r.kindf r.size
    | _ => false
  if bit x 192 && decide (bits x 255 208 = 0 ∧ r.base % 64 = 0 ∧ r.size ≠ 0 ∧ r.size % 64 = 0 ∧ r.base + r.size ≤ 2 ^ 56 ∧
      r.sync % 64 = 0 ∧ r.sync < 2 ^ 56 ∧ r.scope ≤ 4 ∧ r.homep ≤ 2) && !inFixedWindow r.sync && own &&
      (if homed then
        (r.homep != 0 || r.hdie == 0) && (r.homep == 2 || r.hslice == 0) && (r.homep == 0 || dies.any (· == r.hdie))
      else r.homep == 0 && r.hdie == 0 && r.hslice == 0)
  then some r else none

/-- The home slice, as die × 32 + slice, of unit i of a homed region (R144). -/
def Region.unitHome (r : Region) (dies : List Nat) (i : Nat) : Nat :=
  match r.homep with
  | 0 => dies.getD (i / 32 % max 1 dies.length) 0 * 32 + i % 32
  | 1 => r.hdie * 32 + i % 32
  | _ => r.hdie * 32 + r.hslice

/-- The home slice of a device physical address (R140), as die × 32 + slice. -/
def homeOf (pa : Nat) : Nat :=
  pa / 2 ^ 36 / 3 * 32 +
    ((bits pa 11 7 ^^^ bits pa 16 12) ^^^ bits pa 21 17 ^^^ bits pa 26 22 ^^^ bits pa 31 27)

/-! ### Key maps -/

def mix64 (k : Word) : Word :=
  let x := (k ^^^ (k >>> 32)) * 0xD6E8FEB86659FD93#64
  let x := (x ^^^ (x >>> 32)) * 0xD6E8FEB86659FD93#64
  x ^^^ (x >>> 32)

/-- The hash of a key (R184); a 16-byte key is hi × 2^64 + lo. -/
def MapDesc.hash (m : MapDesc) (key : Nat) : Nat :=
  let lo := BitVec.ofNat 64 key
  let hi := BitVec.ofNat 64 (key / 2 ^ 64)
  if m.ident then lo.toNat
  else if m.k16 then (mix64 (lo ^^^ mix64 hi)).toNat
  else (mix64 lo).toNat

def MapDesc.shard (m : MapDesc) (h : Nat) : Nat := if m.shlog = 0 then 0 else h / 2 ^ (64 - m.shlog)

/-- Bucket(h, C), C = 2^c. -/
def bucket (h c : Nat) : Nat := h % (2 ^ c / 4)

/-- An empty shard: its slab is all zero (R183). -/
def Shard.empty (backs : List (Nat × Nat × Nat)) (size desc c0 : Nat) : Shard := ⟨backs, size, desc, [], c0, false, 0, []⟩

/-- Each operation on a growing shard migrates a bucket first (R187). -/
def Shard.migrate (sh : Shard) : Shard :=
  if sh.growing then
    let next := sh.next + 1
    if next = 2 ^ sh.c / 4 then { sh with c := sh.c + 1, growing := false, next := 0 } else { sh with next := next }
  else sh

/-- The key's old bucket is not yet migrated (R187, the OLD bit of R189). -/
def Shard.old (sh : Shard) (h : Nat) : Bool := sh.growing && decide (sh.next ≤ bucket h sh.c)

/-- Entries are kept in increasing (h, key) (R191). -/
def entryLess (a b : Nat × Nat) : Bool := decide (a.1 < b.1) || (a.1 == b.1 && decide (a.2 < b.2))

def findEntry (l : List (Nat × Nat × Nat)) (key : Nat) : Option Nat :=
  match l with
  | [] => none
  | (_, k, v) :: rest => if k = key then some v else findEntry rest key

def putEntry (h key v : Nat) : List (Nat × Nat × Nat) → List (Nat × Nat × Nat)
  | [] => [(h, key, v)]
  | (h', k, w) :: rest =>
    if k = key then (h, key, v) :: rest
    else if entryLess (h, key) (h', k) then (h, key, v) :: (h', k, w) :: rest
    else (h', k, w) :: putEntry h key v rest

/-- The operators of Table 19.2 on a value of n 8-byte words. -/
def mapCombine (op n x u : Nat) : Nat :=
  match op with
  | 0 => u
  | 2 => packElems 32 ((List.range (2 * n)).map fun i => (arithF .add 8 0 (elem 32 x i) (elem 32 u i)).1)
  | _ => packElems 64 ((List.range n).map fun i =>
      let a := elem 64 x i
      let b := elem 64 u i
      match op with
      | 1 => (a + b) % 2 ^ 64
      | 3 => if toSigned 64 a ≤ toSigned 64 b then a else b
      | _ => if toSigned 64 a ≤ toSigned 64 b then b else a)

/-- The status codes of Table 14.10. -/
def stOK : Nat := 0
def stTIMEOUT : Nat := 1
def stMISS : Nat := 2
def stPRESENT : Nat := 3
def stINSERTED : Nat := 4
def stCHANGED : Nat := 5
def stREMOVED : Nat := 6
def stSTALE : Nat := 7
def stOVER : Nat := 8
def stNOCAP : Nat := 9
def stBADH : Nat := 10
def stBUSY : Nat := 11
def stDENIED : Nat := 12
def stABORTED : Nat := 13
def stFAULTED : Nat := 14

/-- The status word of Table 9.2. -/
def mapStatus (code : Nat) (old : Bool) (shard count : Nat) : Word :=
  BitVec.ofNat 64 (code + (if old then 256 else 0) + shard % 65536 * 2 ^ 16 + count % 2 ^ 32 * 2 ^ 32)

/-- The outcome of one key operation at its shard. -/
structure MapOutcome where
  code : Nat
  old : Bool
  value : Nat
  shard : Shard
deriving DecidableEq, Repr

/-- Insertion of an absent key (R187): NOCAP at the maximum, and growth when three quarters are passed. -/
def Shard.insertAbsent (m : MapDesc) (sh : Shard) (h key v : Nat) : MapOutcome :=
  let count := sh.entries.length
  if count = 2 ^ m.cmax then ⟨stNOCAP, sh.old h, 0, sh⟩
  else
    let grows := !sh.growing && decide (3 * 2 ^ sh.c / 4 < count + 1 ∧ sh.c + 1 ≤ m.cmax)
    let sh := if grows then { sh with growing := true, next := 1 } else sh
    ⟨stINSERTED, sh.old h, v, { sh with entries := putEntry h key v sh.entries }⟩

/-- One operation at its shard (R187, R190, R354): 0 probe, 1 insert, 2 set, 3 remove. -/
def Shard.exec (m : MapDesc) (sh : Shard) (code key operand comb : Nat) : MapOutcome :=
  let sh := sh.migrate
  let h := m.hash key
  let u := operand % 2 ^ (64 * m.vsz)
  match findEntry sh.entries key, code with
  | some x, 0 => ⟨stPRESENT, sh.old h, x, sh⟩
  | some x, 1 => ⟨stPRESENT, sh.old h, x, sh⟩
  | some x, 2 =>
    let y := mapCombine comb m.vsz x u
    ⟨stCHANGED, sh.old h, y, { sh with entries := putEntry h key y sh.entries }⟩
  | some x, _ => ⟨stREMOVED, sh.old h, x, { sh with entries := sh.entries.filter fun e => e.2.1 != key }⟩
  | none, 1 => sh.insertAbsent m h key u
  | none, 2 => sh.insertAbsent m h key u
  | none, _ => ⟨stMISS, sh.old h, 0, sh⟩

/-- The least entry of a shard, or the least above a key (R191). -/
def Shard.least (m : MapDesc) (sh : Shard) (after : Option Nat) : Option (Nat × Nat) :=
  match after with
  | none => sh.entries.head?.map (·.2)
  | some key =>
    (sh.entries.find? fun e => entryLess (m.hash key, key) (e.1, e.2.1)).map (·.2)

/-- The number of entries in the overflow area: those beyond four in their bucket of the layout that holds them. The
arrangement is private (R145); MSTAT reports this count (Table 19.3). -/
def Shard.overflow (sh : Shard) : Nat :=
  let place (h : Nat) : Nat × Bool :=
    if sh.growing && !sh.old h then (bucket h (sh.c + 1), true) else (bucket h sh.c, false)
  let rec go : List (Nat × Nat × Nat) → List ((Nat × Bool) × Nat) → Nat
    | [], _ => 0
    | (h, _, _) :: rest, seen =>
      let p := place h
      match seen.find? (·.1 == p) with
      | some (_, n) => (if 4 ≤ n then 1 else 0) + go rest ((p, n + 1) :: seen)
      | none => go rest ((p, 1) :: seen)
  go sh.entries []

/-- The MSTAT result of Table 19.3. -/
def Shard.stat (m : MapDesc) (sh : Shard) : Nat :=
  2 ^ sh.c + (if sh.growing then sh.next * 2 ^ 64 + 2 ^ 127 else 0) + sh.overflow * 2 ^ 128 + 2 ^ m.cmax * 2 ^ 192

/-! ### Windows (R196 to R202) -/

/-- The identities of Table 10.2. -/
def winIdentity (op : Nat) (lw : Bool) : Nat :=
  match op with
  | 1 => 0x80000000
  | 2 => 0x3F800000
  | 3 => 0x7FFFFFFF
  | 4 => 0x80000000
  | 5 => 0x7F800000
  | 6 => 0xFF800000
  | 7 => if lw then 2 ^ 64 - 1 else 2 ^ 32 - 1
  | 10 => 0xFFFFFFFFFF800000
  | 11 => 0xFF800000
  | _ => 0

/-- RNE_f32(x × Exp2(RNE_f32(xm − m))) of SMX. -/
def smxTerm (xs xm m : Nat) : Nat :=
  let d := (arithF .sub 8 0 xm m).1
  let e := (specialF .exp2 0 d).1
  (arithF .mul 8 0 xs e).1

/-- x ⊕ y, x the older operand (R196, R197). -/
def winCombine (op : Nat) (lw : Bool) (x y : Nat) : Nat :=
  let w := if lw then 64 else 32
  match op with
  | 0 => (x + y) % 2 ^ w
  | 1 => (arithF .add 8 0 x y).1
  | 2 => (arithF .mul 8 0 x y).1
  | 3 => if toSigned 32 x ≤ toSigned 32 y then x else y
  | 4 => if toSigned 32 x ≤ toSigned 32 y then y else x
  | 5 => (minMaxF false 8 x y).1
  | 6 => (minMaxF true 8 x y).1
  | 7 => x &&& y
  | 8 => x ||| y
  | 9 => x ^^^ y
  | 10 =>
    let a := unpackF (ffmt 8) (x % 2 ^ 32)
    let b := unpackF (ffmt 8) (y % 2 ^ 32)
    if a.isNaN then x else if b.isNaN then y else if cmpV a b = .lt then y else x
  | _ =>
    let xm := x % 2 ^ 32
    let ym := y % 2 ^ 32
    let m := (minMaxF true 8 xm ym).1
    if (unpackF (ffmt 8) m).isNaN then 0x7FC000007FC00000
    else
      let same (a : Nat) : Bool := cmpV (unpackF (ffmt 8) a) (unpackF (ffmt 8) m) == .eq
      let tx := if same xm then x / 2 ^ 32 else smxTerm (x / 2 ^ 32) xm m
      let ty := if same ym then y / 2 ^ 32 else smxTerm (y / 2 ^ 32) ym m
      m + (arithF .add 8 0 tx ty).1 * 2 ^ 32

def lanesCombine (d : WinDesc) (x y : List Nat) : List Nat := List.zipWith (winCombine d.op d.lw) x y

/-- F(j) := x(j) ⊕ F(j + 1), the oldest first (R199). -/
def suffixes (d : WinDesc) : List (List Nat) → List (List Nat)
  | [] => []
  | [x] => [x]
  | x :: rest =>
    match suffixes d rest with
    | f :: fs => lanesCombine d x f :: f :: fs
    | [] => [x]

/-- The oldest retained contribution expires; the number of contributions moved by a flip. -/
def Win.expire (d : WinDesc) (w : Win) : Win × Nat :=
  match w.front with
  | _ :: rest => ({ w with front := rest }, 0)
  | [] => ({ w with front := (suffixes d w.back).drop 1, back := [], agg := [] }, w.back.length)

def Win.count (w : Win) : Nat := w.front.length + w.back.length

/-- WFEED (R199). -/
def Win.feed (d : WinDesc) (w : Win) (c : List Nat) : Win × Nat :=
  let (w, flip) := if w.count = w.w then w.expire d else (w, 0)
  ({ w with agg := if w.back = [] then c else lanesCombine d w.agg c, back := w.back ++ [c] }, flip)

/-- WREAD (R200). -/
def Win.read (d : WinDesc) (w : Win) : List Nat :=
  match w.front, w.back with
  | [], [] => List.replicate (d.lanes + 1) (winIdentity d.op d.lw)
  | [], _ => w.agg
  | f :: _, [] => f
  | f :: _, _ => lanesCombine d f w.agg

/-- Expiries until n ≤ W, at most `fuel` of them. -/
def Win.shrink (d : WinDesc) : Nat → Win → Win × Nat
  | 0, w => (w, 0)
  | k + 1, w =>
    if w.w < w.count then
      let (w, f) := w.expire d
      let (w, f') := Win.shrink d k w
      (w, f + f')
    else (w, 0)

/-- WLEN (R201): none when it is DENIED. -/
def Win.setLength (d : WinDesc) (w : Win) (n : Nat) : Option (Win × Nat) :=
  if n = 0 ∨ d.wmax < n then none else some (Win.shrink d 1024 { w with w := n })

/-- The status word of Table 10.3. -/
def winStatus (code flip n : Nat) : Word := BitVec.ofNat 64 (code + flip * 2 ^ 16 + n * 2 ^ 32)

/-- The tag of a WREAD result (R358). -/
def winTag (d : WinDesc) : Nat :=
  match d.op with
  | 0 | 7 | 8 | 9 => if d.lw then 5 else 4
  | 3 | 4 => 4
  | 1 | 2 | 5 | 6 => 8
  | _ => 0

end Sys2Proof.Machine
end

