-- ==== Sys2Proof/Machine/Address.lean ====
section
/-! DEFINITION. Where an address leads: the fixed windows (R131 to R135), the open host windows (R42), the region table
(R143 to R146) and the two stages of translation (R147 to R150). -/

namespace Sys2Proof.Machine

/-! ### The virtual device's memory -/

/-- The dies of a virtual device's atoll, in increasing order (R55). -/
def VD.dies (v : VD) : List Nat :=
  (List.range 4).filter fun d => atollFirst v.node < (d + 1) * 256 && d * 256 < atollFirst v.node + atollSize v.node

/-- Device frames are numbered below this; a withdrawn frame of a grant has this number (R26). -/
def frameCount : Nat := 12 * 2 ^ 15

/-- The device frame behind a tenant frame of 2 MiB (R41, R48). -/
def grantsFrame : List Grant → Nat → Option Nat
  | [], _ => none
  | g :: rest, n =>
    if g.first ≤ n ∧ n < g.first + g.frames.length then (g.frames[n - g.first]?).filter (· < frameCount)
    else grantsFrame rest n

/-- Stage 2 (R139, R148): the device physical address of a tenant physical address. -/
def VD.stage2 (v : VD) (tpa : Nat) : Option Nat :=
  (grantsFrame v.grants (tpa / 2 ^ 21)).map fun f => f / 2 ^ 15 * 2 ^ 36 + f % 2 ^ 15 * 2 ^ 21 + tpa % 2 ^ 21

/-- The tenant physical address of a device physical address that a grant backs. -/
def tenantOf : List Grant → Nat → Option Nat
  | [], _ => none
  | g :: rest, pa =>
    let f := pa / 2 ^ 36 * 2 ^ 15 + pa % 2 ^ 36 / 2 ^ 21
    match g.frames.idxOf? f with
    | some i => some ((g.first + i) * 2 ^ 21 + pa % 2 ^ 21)
    | none => tenantOf rest pa

/-- The base of a region table from RGNTAB; 0 means none (Table 7.5). -/
def tableBase (rgntab : Word) : Nat := bits rgntab.toNat 55 18 * 2 ^ 18

/-- A tenant physical address in the region table. -/
def VD.inTable (v : VD) (tpa : Nat) : Bool :=
  tableBase v.rgntab != 0 && decide (tableBase v.rgntab ≤ tpa ∧ tpa < tableBase v.rgntab + 2 ^ 18)

/-- A read of device memory: `n` bytes, little-endian. -/
def State.readNat (s : State) (pa n : Nat) : Nat := leNat (readBytes s.mem pa n)

/-! ### Region descriptors (R143 to R146) -/

/-- What looking a handle up gives: a missing tenant frame of the table (R143), or the descriptor, none when it is
not valid (R145), and the bytes read when they were not cached. -/
inductive Look where
  | frame (n : Nat)
  | region (r : Option Region) (fill : Option (BitVec 512))
deriving DecidableEq, Repr

/-- The number under which the Holm, the scheduler and the dispatchers translate: no core's. -/
def holmCore : Nat := 4096

/-- The RGNTAB in force for a core (R286); the Holm uses the register itself. -/
def VD.tableOf (v : VD) (core : Nat) : Word := if core = holmCore then v.rgntab else (v.coreAt core).table

def State.lookRegion (s : State) (vf core h : Nat) : Look :=
  match s.vdAt vf with
  | none => .region none none
  | some v =>
    let base := tableBase (v.tableOf core)
    if 4096 ≤ h ∨ base = 0 then .region none none
    else
      match (v.coreAt core).regions.find? (·.handle == h) with
      | some e => .region (regionOf e.bytes v.dies) none
      | none =>
        let tpa := base + 64 * h
        match v.stage2 tpa with
        | none => .frame (tpa / 2 ^ 21)
        | some pa =>
          let b := BitVec.ofNat 512 (s.readNat pa 64)
          .region (regionOf b v.dies) (some b)

/-- The narrow between two dies has lost its training (R12). -/
def State.narrowLost (s : State) (a b : Nat) : Bool :=
  s.module.narrows.any fun n => !n.up && ((n.i == a && n.j == b) || (n.i == b && n.j == a))

/-- Some narrow has lost its training. -/
def State.anyLost (s : State) : Bool := s.module.narrows.any (!·.up)

/-- A read, from a die, of a descriptor that the core's region cache does not hold crosses a narrow that has lost its training
(R12, R145). -/
def State.lookCrosses (s : State) (vf core die h : Nat) : Bool :=
  match s.vdAt vf with
  | none => false
  | some v =>
    let base := tableBase (v.tableOf core)
    decide (h < 4096) && base != 0 && !((v.coreAt core).regions.any (·.handle == h)) &&
      (v.stage2 (base + 64 * h)).any fun pa => s.narrowLost die (homeOf pa / 32)

/-- The same of a core's own read. -/
def State.lookHeld (s : State) (vf core h : Nat) : Bool :=
  s.anyLost && core != holmCore && s.lookCrosses vf core (dieOf (s.coreNo vf core)) h

/-- A region cache keeps the 32 descriptors read last (R145). -/
def Core.cacheRegion (c : Core) (h : Nat) (b : BitVec 512) : Core :=
  let l := c.regions.filter (·.handle != h) ++ [⟨h, b⟩]
  { c with regions := l.drop (l.length - 32) }

/-- The effects of a lookup: the core's region cache is filled. -/
def Look.effs (k : Look) (vf core h : Nat) : List Eff :=
  match k with
  | .region _ (some b) => if core = holmCore then [] else [.core vf core (·.cacheRegion h b)]
  | _ => []

/-- The strips of a HALO region must lie in the core's scratchpad (R146). -/
def Region.fits (r : Region) (c : Core) : Bool :=
  r.kind != 2 || decide ((haloOf r.kindf).stripEnd ≤ c.spSize)

/-! ### Storage of a core (Table 7.2) -/

/-- The storage of a core's offset (Table 7.2). -/
inductive Storage where
  | scratch (o : Nat)
  | tile (i o : Nat)
  | acc (i o : Nat)
  | vreg (slot n o : Nat)
  | sem (q : Nat)
  | inbox (e o : Nat)
deriving DecidableEq, Repr

/-- Table 7.2, for an access of `size` bytes at its own alignment. -/
def storageAt (c : Core) (off size : Nat) (store : Bool) : Option Storage :=
  if off + size ≤ c.spSize then some (.scratch off)
  else if 0x80000 ≤ off ∧ off < 0x8C000 then some (.tile ((off - 0x80000) / 0x1800) ((off - 0x80000) % 0x1800))
  else if 0x90000 ≤ off ∧ off < 0xA0000 then some (.acc ((off - 0x90000) / 0x4000) (off % 0x4000))
  else if 0xA0000 ≤ off ∧ off < 0xB0000 then
    some (.vreg ((off - 0xA0000) / 0x4000) (off % 0x4000 / 0x100) (off % 0x100))
  else if 0xB0000 ≤ off ∧ off < 0xB0800 then
    if size = 8 ∧ off % 8 = 0 then some (.sem ((off - 0xB0000) / 8)) else none
  else if 0xB1000 ≤ off ∧ off < 0xB2000 then
    if store then none else some (.inbox ((off - 0xB1000) / 64) (off % 64))
  else none

/-- Byte o of a numeral. -/
def byteAt (x o : Nat) : Byte := BitVec.ofNat 8 (x / 2 ^ (8 * o))

/-- An inbox entry as its 512 bits (Table 5.6). -/
def Message.word (m : Message) : Nat := m.header.toNat + m.payload.toNat * 2 ^ 64

/-- One byte of a core's storage. -/
def Core.byte (c : Core) : Storage → Byte
  | .scratch o => readCell c.sram o
  | .tile i o => byteAt (c.tile i).data.toNat o
  | .acc i o => byteAt (c.acc i).data.toNat o
  | .vreg k n o => byteAt ((c.slotAt k).rv (BitVec.ofNat 6 n)).data.toNat o
  | .sem q => byteAt (c.sem q) 0
  | .inbox e o =>
    match (c.inbox ++ c.taken).find? (·.entry == e) with
    | some m => byteAt m.word o
    | none => 0

/-- The storage `i` bytes on. -/
def Storage.plus (st : Storage) (i : Nat) : Storage :=
  match st with
  | .scratch o => .scratch (o + i)
  | .tile t o => .tile t (o + i)
  | .acc a o => .acc a (o + i)
  | .vreg k n o => .vreg k n (o + i)
  | .sem q => .sem q
  | .inbox e o => .inbox e (o + i)

/-- `n` bytes of a core's storage; a semaphore reads zero-extended (Table 7.2). -/
def Core.load (c : Core) (st : Storage) (n : Nat) : List Byte :=
  match st with
  | .sem q => (List.range n).map fun i => byteAt (c.sem q) i
  | _ => (List.range n).map fun i => c.byte (st.plus i)

/-- Bytes of a core's window that hold nothing but zero. -/
def Core.blank (c : Core) (off n : Nat) : Bool :=
  (List.range (n / 8)).all fun i =>
    match storageAt c (off + 8 * i) 8 false with
    | some st => (c.load st 8).all (· == 0)
    | none => false

/-! ### Shards and windows in memory (R183, R195)

A slab or a window's storage is a run of virtual addresses; what backs it is a list of offsets, each with the address behind
it and a number of bytes (R182, R192). -/

/-- The offset in some storage of a tenant physical address behind it. -/
def offsetIn : List (Nat × Nat × Nat) → Nat → Option Nat
  | [], _ => none
  | (o, a, n) :: rest, tpa => if a ≤ tpa ∧ tpa < a + n then some (o + (tpa - a)) else offsetIn rest tpa

/-- Two storages share a byte. -/
def overlap (xs ys : List (Nat × Nat × Nat)) : Bool :=
  xs.any fun (_, a, n) => ys.any fun (_, b, m) => decide (a < b + m ∧ b < a + n)

/-- What backs a storage now agrees with what backed it: no offset has moved. -/
def agree (xs ys : List (Nat × Nat × Nat)) : Bool :=
  xs.all fun (o, a, n) => ys.all fun (q, b, m) => !decide (o < q + m ∧ q < o + n) || decide (a + q = b + o)

/-- The parts of a storage whose backing is new. -/
def newBacks (old now : List (Nat × Nat × Nat)) : List (Nat × Nat × Nat) := now.filter fun x => !old.any (·.1 == x.1)

/-- Storage behind which lies no byte that is not zero, and no map's or window's private layout. Storage of another module
is as that has it (log entry 15); that of a core or of a host window is looked into. -/
def State.clean (s : State) (v : VD) (backs : List (Nat × Nat × Nat)) : Bool :=
  (backs.all fun (_, a, n) =>
    if a < 2 ^ 56 then true
    else if a < 2 ^ 57 then (v.coreAt (a % 2 ^ 56 / 2 ^ 20)).blank (a % 2 ^ 20) n
    else if a < 2 ^ 65 then Config.remoteBlank a n s.cycle
    else s.host.all fun (h, _) => !decide (a ≤ 2 ^ 65 + h ∧ 2 ^ 65 + h < a + n)) &&
    (s.mem.all fun (pa, _) =>
      match tenantOf v.grants pa with
      | some tpa => (offsetIn backs tpa).isNone
      | none => true) &&
    !(v.shards.any fun sh => overlap sh.backs backs) && !v.wins.any fun w => overlap w.backs backs

/-- A map whose slab is neither zero nor laid out by this descriptor has unpredictable contents (R145, R183). -/
def Shard.free (n : Nat) (backs : List (Nat × Nat × Nat)) (size desc : Nat) (m : MapDesc) : Shard :=
  let c := m.c0 + Config.freeNat n % (m.cmax - m.c0 + 1)
  { backs := backs, size := size, desc := desc, entries := Config.freeShard n, c := c,
    growing := Config.freeNat (n + 1) % 2 == 1 && decide (c < m.cmax),
    next := if Config.freeNat (n + 1) % 2 = 1 ∧ c < m.cmax then Config.freeNat (n + 2) % (2 ^ c / 4) else 0, zeroed := [] }

/-- Storage that lies partly on another module. -/
def elsewhere (backs : List (Nat × Nat × Nat)) : Bool := backs.any fun (_, a, _) => decide (2 ^ 57 ≤ a ∧ a < 2 ^ 65)

/-- A range of offsets lies in ranges kept apart and rising. -/
def covered (zs : List (Nat × Nat)) (b : Nat × Nat × Nat) : Bool :=
  zs.any fun z => decide (z.1 ≤ b.1 ∧ b.1 + b.2.2 ≤ z.2)

/-- Storage that reads as zero: what this module has zeroed whole, and else nothing but clean storage. -/
def State.blanked (s : State) (v : VD) (old : List (Nat × Nat × Nat)) (zs : List (Nat × Nat)) (backs : List (Nat × Nat × Nat)) :
    Bool :=
  zs != [] && old.all (covered zs) && s.clean v (backs.filter fun b => !old.contains b)

/-- The shard at a slab: the one laid out in its storage, with the storage it has gained since; empty in zero storage. -/
def State.shardAt (s : State) (v : VD) (backs : List (Nat × Nat × Nat)) (size desc : Nat) (m : MapDesc) : Shard :=
  match v.shards.find? fun sh => overlap sh.backs backs with
  | some sh =>
    if sh.zeroed = [] ∧ sh.desc = desc ∧ sh.size = size ∧ agree sh.backs backs = true ∧
        s.clean { v with shards := [] } (newBacks sh.backs backs) = true then
      { sh with backs := sh.backs ++ newBacks sh.backs backs }
    else if s.blanked { v with shards := [] } sh.backs sh.zeroed backs then Shard.empty backs size desc m.c0
    else Shard.free s.free backs size desc m
  | none => if s.clean v backs then Shard.empty backs size desc m.c0 else Shard.free s.free backs size desc m

/-- A shard put back: one that an operation has touched is listed. -/
def VD.putShard (v : VD) (sh : Shard) : VD :=
  { v with shards := (v.shards.filter fun x => !overlap x.backs sh.backs) ++ [{ sh with zeroed := [] }] }

/-- The contents of maps and windows whose storage has moved to another frame go with it (R153, R188). -/
def VD.moveBacks (v : VD) (lo n to' : Nat) : VD :=
  let move (bs : List (Nat × Nat × Nat)) : List (Nat × Nat × Nat) :=
    bs.map fun (o, a, k) => if lo ≤ a ∧ a < lo + n then (o, to' + (a - lo), k) else (o, a, k)
  { v with
    shards := v.shards.map fun x => { x with backs := move x.backs }
    wins := v.wins.map fun x => { x with backs := move x.backs } }

/-! ### The page map (R147 to R149) -/

/-- The page map's descriptor: a MAP region of 8-byte keys and 16-byte values, its BASE a tenant physical address. -/
def pageMap (r : Option Region) : Option (Region × MapDesc) :=
  match r with
  | some r =>
    let m := mapOf r.kindf
    if r.kind = 4 ∧ m.k16 = false ∧ m.vsz = 2 then some (r, m) else none
  | none => none

/-- Storage named by tenant physical addresses, cut at frames: those that are granted (R146). -/
def VD.frameBacks (v : VD) (base size : Nat) : List (Nat × Nat × Nat) :=
  ((List.range (size / 2 ^ 21 + 2)).map fun i =>
    let lo := max base ((base / 2 ^ 21 + i) * 2 ^ 21)
    (lo - base, lo, min (base + size) ((base / 2 ^ 21 + i + 1) * 2 ^ 21) - lo)).filter fun (_, a, n) =>
      n != 0 && (v.stage2 a).isSome

/-- The shard of the page map that holds a key: its base and size. -/
def pageShard (r : Region) (m : MapDesc) (key : Nat) : Nat × Nat :=
  let size := r.size / 2 ^ m.shlog
  (r.base + m.shard (m.hash key) * size, size)

/-- A page-map value with a reserved bit set is treated as absent (R147). -/
def pteValid (x : Nat) : Bool := decide (bits x 15 10 = 0 ∧ bits x 55 52 = 0 ∧ bits x 63 61 = 0 ∧ bits x 127 105 = 0)

/-- One probe of the page map (R148): its value and its effect on the shard's growth (R185). A WAYMASK of zero does not stop it
(DESIGN CHOICE, log entry 123). -/
def State.probePage (s : State) (vf : Nat) (v : VD) (r : Region) (m : MapDesc) (key : Nat) : Option Nat × List Eff :=
  let (base, size) := pageShard r m key
  let backs := v.frameBacks base size
  let o := (s.shardAt v backs size r.kindf m).exec m 0 key 0 0
  (if o.code = stPRESENT ∧ pteValid o.value = true then some o.value else none,
    [.vd vf fun v => if v.shards.any fun x => overlap x.backs backs then v.putShard o.shard else v])

/-- A stage-1 entry: its value and whether it is a 2 MiB page. -/
structure Pte where
  val : Nat
  big : Bool
deriving DecidableEq, Repr

/-- What stage 1 finds. -/
inductive Stage1 where
  | frame (n : Nat)
  | miss
  | entry (p : Pte)
deriving DecidableEq, Repr

/-- The identity entry that applies while RGNTAB is zero (R147): R, W, X and class other. -/
def identityPte (dev : Nat) : Pte := ⟨7 + 3 * 8 + dev * 2 ^ 56, false⟩

/-- A walk (R148), without the TLB: the 64 KiB entry first. -/
def State.walk (s : State) (vf core va : Nat) : Stage1 × List Eff :=
  match s.vdAt vf with
  | none => (.miss, [])
  | some v =>
    let k := s.lookRegion vf core 0
    match k with
    | .frame n => (.frame n, [])
    | .region r _ =>
      match pageMap r with
      | none => (.miss, k.effs vf core 0)
      | some (r, m) =>
        let small := va / 2 ^ 16 % 2 ^ 40 * 2
        let big := va / 2 ^ 21 % 2 ^ 35 * 2 + 1
        match v.stage2 (pageShard r m small).1 with
        | none => (.frame ((pageShard r m small).1 / 2 ^ 21), k.effs vf core 0)
        | some _ =>
          match s.probePage vf v r m small with
          | (some x, es) => (.entry ⟨x, false⟩, k.effs vf core 0 ++ es)
          | (none, es) =>
            match v.stage2 (pageShard r m big).1 with
            | none => (.frame ((pageShard r m big).1 / 2 ^ 21), k.effs vf core 0 ++ es)
            | some _ =>
              match (applyAll es s).probePage vf (((applyAll es s).vdAt vf).getD v) r m big with
              | (some x, es') => (.entry ⟨x, true⟩, k.effs vf core 0 ++ es ++ es')
              | (none, es') => (.miss, k.effs vf core 0 ++ es ++ es')

/-- A walk for an address from a die, which reads the page map's descriptor and asks the shards of its keys, crosses a narrow
that has lost its training (R12, R148). -/
def State.walkCrosses (s : State) (vf core die va : Nat) : Bool :=
  s.lookCrosses vf core die 0 ||
    match s.vdAt vf, s.lookRegion vf core 0 with
    | some v, .region r _ =>
      (match pageMap r with
        | some (r, m) => [va / 2 ^ 16 % 2 ^ 40 * 2, va / 2 ^ 21 % 2 ^ 35 * 2 + 1].any fun key =>
            s.narrowLost die (r.unitHome v.dies (m.shard (m.hash key)) / 32)
        | none => false)
    | _, _ => false

/-- The TLB keeps the 512 translations filled last (R148). -/
def Core.fillTlb (c : Core) (key : Nat) (val : Nat) : Core :=
  let l := c.tlb.filter (·.key != key) ++ [⟨key, BitVec.ofNat 128 val⟩]
  { c with tlb := l.drop (l.length - 512) }

/-- Stage 1 for a core: its TLB, or a walk that fills it (R148). -/
def State.stage1 (s : State) (vf core va : Nat) : Stage1 × List Eff :=
  let c := s.coreAt vf core
  let small := va / 2 ^ 16 % 2 ^ 40 * 2
  let big := va / 2 ^ 21 % 2 ^ 35 * 2 + 1
  match c.tlb.find? (·.key == small), c.tlb.find? (·.key == big) with
  | some e, _ => (.entry ⟨e.value.toNat, false⟩, [])
  | none, some e => (.entry ⟨e.value.toNat, true⟩, [])
  | none, none =>
    match s.walk vf core va with
    | (.entry p, es) =>
      (.entry p, es ++ [.core vf core fun c => c.fillTlb (if p.big then big else small) p.val])
    | r => r

/-- A translation of an address from a die waits for a walk that such a narrow holds: no entry of the core's TLB serves it.
An engine's TLB is always taken as missing. -/
def State.walkFrom (s : State) (vf core die va : Nat) (tlb : Bool) : Bool :=
  s.anyLost &&
    match s.vdAt vf with
    | none => false
    | some v =>
      v.tableOf core != 0 && !inFixedWindow va && decide (va < 2 ^ 56) &&
        !(v.windows.any fun w => decide (w.va ≤ va ∧ va < w.va + w.size)) &&
        !(tlb && (v.coreAt core).tlb.any fun e =>
            e.key == va / 2 ^ 16 % 2 ^ 40 * 2 || e.key == va / 2 ^ 21 % 2 ^ 35 * 2 + 1) &&
        s.walkCrosses vf core die va

/-- The same of a core's or its engine's own translation. -/
def State.walkWaits (s : State) (vf core va : Nat) (tlb : Bool) : Bool :=
  core != holmCore && s.walkFrom vf core (dieOf (s.coreNo vf core)) va tlb

/-- The same of an access of the core's own. -/
def State.walkHeld (s : State) (vf core va : Nat) : Bool := s.walkWaits vf core va true

/-! ### The decoding of an address (R131) -/

/-- Where an access goes, or why it does not. -/
inductive Where where
  | at (p : Place) (gd : Bool)
  | addr                        -- ADDR
  | fault (cause : Nat)         -- a page fault (R118)
  | frame (n : Nat)             -- the tenant frame that is missing (R49)
  | away (dev : Nat)            -- no strait toward the module is ready (R17)
  | narrow                      -- held on its way: a narrow has lost its training (R12), or no transit entry is free (R66)
deriving DecidableEq, Repr

/-- The causes of R118. -/
def cMISS : Nat := 1
def cPROT : Nat := 2
def cLINK : Nat := 3
def cNOFRAME : Nat := 4

/-- The window of an address: the core number and offset of Table 7.1; none for ADDR. -/
def windowOf (va self : Nat) : Option (Nat × Nat) :=
  match va / 2 ^ 48 with
  | 0xF0 => if va % 2 ^ 48 < 0x40000000 then some (bits va 29 20, bits va 19 0) else none
  | 0xF1 =>
    if va % 2 ^ 48 < 0x40000000 then
      some (bits va 29 24 * 16 + bits va 11 8, bits va 23 12 * 256 + bits va 7 0) else none
  | 0xF2 => if va % 2 ^ 48 < 0x100000 then some (self, bits va 19 0) else none
  | _ => none

def AccKind.store : AccKind → Bool
  | .write | .atomic => true
  | _ => false

/-- Permits(v, kind, Priv()) (R148). -/
def permits (x : Nat) (kind : AccKind) (priv : Bool) : Bool :=
  (match kind with | .read => bit x 0 | .write | .atomic => bit x 1 | .fetch => bit x 2) && (priv || !bit x 8)

/-- The module's device number; a module without one has only its own memory (R16, R17). -/
def State.ownDev (s : State) : Nat := s.module.dev.getD 0

/-- A strait of a route that is ready (R16, R17). -/
def State.routeReady (s : State) (dev : Nat) : Bool :=
  match lookup s.module.route dev with
  | some w => [w % 256, w / 256].any fun k => decide (k < 16) && s.module.ready.getLsbD (18 + k)
  | none => false

/-- The longest an access waits at the hub for a strait: 10 µs (R17). -/
def hubWait : Nat := 17000

/-- The device number has no entry in the route table (R17). -/
def State.noRoute (s : State) (dev : Nat) : Bool :=
  match lookup s.module.route dev with
  | some w => w % 256 == 255 && w / 256 == 255
  | none => true

/-- The frame an entry maps an address to. -/
def Pte.tpa (p : Pte) (va : Nat) : Nat :=
  if p.big then bits p.val 51 21 * 2 ^ 21 + va % 2 ^ 21 else bits p.val 51 16 * 2 ^ 16 + va % 2 ^ 16

/-- An entry applied to an address (R148): permission, device and stage 2. -/
def State.placePte (s : State) (v : VD) (p : Pte) (tpa va : Nat) (kind : AccKind) (priv : Bool) : Where :=
  let x := p.val
  if !permits x kind priv then .fault cPROT
  else
    let dev := bits x 60 56
    if dev ≠ s.ownDev then
      if !(v.joins.any (·.1 == dev)) || s.noRoute dev then .fault cLINK
      else .at (.remote dev tpa) (bit x 6)
    else
      match v.stage2 tpa with
      | none => .frame (tpa / 2 ^ 21)
      | some pa =>
        let dest := bits x 99 64 * 2 ^ 16 + (if p.big then va % 2 ^ 21 else va % 2 ^ 16)
        .at (.dram pa (bits x 4 3) (bit x 5) (bit x 7) (if bit x 9 then some (bits x 104 100, dest, va) else none)) (bit x 6)

/-- The page of an address has BS set (R147). -/
def State.onSumPage (s : State) (vf core va : Nat) : Bool :=
  match s.vdAt vf with
  | some v => !inFixedWindow va && v.tableOf core != 0 &&
      (match (s.stage1 vf core va).1 with | .entry p => bit p.val 7 | _ => false)
  | none => false

/-- Decoding and translation of one access (R131, R132, R318), with what the walk changes. `self` is the issuing core's
offset, `tlb` is false for an engine, whose TLB is always taken as missing. -/
def State.resolve (s : State) (vf self va size : Nat) (kind : AccKind) (priv tlb : Bool) : Where × List Eff :=
  match s.vdAt vf with
  | none => (.addr, [])
  | some v =>
    if 2 ^ 56 ≤ va then (.addr, [])
    else if inFixedWindow va then
      match windowOf va (v.coreNo self) with
      | none => (.addr, [])
      | some (core, off) =>
        match v.offset? core with
        | none => (.addr, [])
        | some k =>
          match storageAt (v.coreAt k) off size kind.store with
          | none => (.addr, [])
          | some _ => (.at (.window k off) false, [])
    else
      match v.windows.find? fun w => decide (w.va ≤ va ∧ va < w.va + w.size) with
      | some w =>
        if (if kind.store then w.perm / 2 % 2 = 1 else w.perm % 2 = 1) then (.at (.host (w.host + (va - w.va))) false, [])
        else (.fault cPROT, [])
      | none =>
        if v.tableOf self = 0 then (s.placePte v (identityPte s.ownDev) (va % 2 ^ 56) va kind priv, [])
        else if s.walkWaits vf self va tlb then (.narrow, [])
        else
          match if tlb then s.stage1 vf self va else s.walk vf self va with
          | (.frame n, es) => (.frame n, es)
          | (.miss, es) => (.fault cMISS, es)
          | (.entry p, es) => (s.placePte v p (p.tpa va) va kind priv, es)

/-! ### Tokens (R147, R167) -/

/-- The slot's record covers an address. -/
def Slot.holdsToken (x : Slot) (va : Nat) : Bool := x.tokens.any fun k => decide (k.lo ≤ va ∧ va < k.hi)

end Sys2Proof.Machine
end

