-- ==== Sys2Proof/Machine/Access.lean ====
section
/-! DEFINITION. Accesses at their places: core storage (R132, R133), homes, L1 and visitor lines (R138, R140, R141,
R158), the transit buffer (R66), full/empty bits (R171) and atomics (R175, R329 to R331). -/

namespace Sys2Proof.Machine

/-! ### Storage of a core -/

/-- One byte of a core's storage written: tags and side words stay. R133 limits what it says to idle slots and to tiles
that no accepted operation names; elsewhere the write applies as well (DESIGN CHOICE, log entry 103). -/
def Core.storeByte (c : Core) (st : Storage) (b : Byte) : Core :=
  let poke (x o : Nat) : Nat := setElem 8 x o b.toNat
  match st with
  | .scratch o => { c with sram := writeCell c.sram o b }
  | .tile i o =>
    let t := c.tile i
    { c with tiles := put c.tiles i { t with data := BitVec.ofNat 49152 (poke t.data.toNat o) } }
  | .acc i o =>
    let a := c.acc i
    { c with accs := put c.accs i { a with data := BitVec.ofNat 131072 (poke a.data.toNat o) } }
  | .vreg k n o =>
    let x := c.slotAt k
    let r := BitVec.ofNat 6 n
    let y := x.rv r
    c.setSlot k (x.setV r { y with data := BitVec.ofNat 2048 (poke y.data.toNat o) })
  | .sem _ => c
  | .inbox _ _ => c

/-- Bytes written at offsets from a place in a core; a semaphore takes bits [15:0] (Table 7.2), and the store sets the
wake latch of every slot of the core (R294). -/
def Core.store (c : Core) (st : Storage) (bs : List (Nat × Byte)) : Core :=
  match st with
  | .sem q =>
    let c := c.setSem q (leNat (bs.map (·.2)) % 2 ^ 16)
    { c with slots := c.slots.map (fun x => { x with latch := true }) }
  | _ => bs.foldl (fun c ib => c.storeByte (st.plus ib.1) ib.2) c

/-- A scratchpad word's full/empty bit (R171). -/
def Core.setFull (c : Core) (o : Nat) (on : Bool) : Core :=
  { c with sramFull := if on then setInsert c.sramFull (o / 8) else setErase c.sramFull (o / 8) }

/-! ### Write-backs (R158) -/

/-- The write-back of a line: its dirty bytes only (R158). -/
def L1Line.writeBack (l : L1Line) : List Eff :=
  ((List.range 128).filter fun i => l.dirty.getLsbD i).map fun i => .mem (l.line * 128 + i) (byteAt l.data.toNat i)

/-- The lines that satisfy a condition are written back and kept clean (FLUSH) or dropped. -/
def State.cleanL1 (s : State) (vf core : Nat) (sel : L1Line → Bool) (keep : Bool) : List Eff :=
  let ls := (s.coreAt vf core).l1.filter sel
  ls.flatMap L1Line.writeBack ++
    [.core vf core fun c =>
      { c with l1 := if keep then c.l1.map fun l => if sel l then { l with dirty := 0 } else l
                     else c.l1.filter fun l => !sel l }]

/-! ### Slabs of maps and windows (R138, R145, R183) -/

/-- Ranges kept apart and rising. -/
def addRange : List (Nat × Nat) → Nat → Nat → List (Nat × Nat)
  | [], lo, hi => [(lo, hi)]
  | (a, b) :: rest, lo, hi =>
    if hi < a then (lo, hi) :: (a, b) :: rest
    else if b < lo then (a, b) :: addRange rest lo hi
    else addRange rest (min a lo) (max b hi)

/-- A run of bytes cut at multiples of `unit`. -/
def chunks (unit : Nat) : Nat → Nat → Nat → List (Nat × Nat)
  | 0, _, _ => []
  | k + 1, va, n =>
    if n = 0 then []
    else
      let m := min n (unit - va % unit)
      (va, m) :: chunks unit k (va + m) (n - m)

/-- What lies behind a place, as a number that `backs` lists: a tenant physical address, or, above 2^56, storage of another
module, of a host window or of a core. -/
def Place.behind (v : VD) : Place → Option Nat
  | .dram pa _ _ _ _ => tenantOf v.grants pa
  | .remote dev tpa => some (2 ^ 57 + dev * 2 ^ 56 + tpa)
  | .host a => some (2 ^ 65 + a)
  | .window k off => some (2 ^ 56 + k * 2 ^ 20 + off)

/-- The pages of a run of virtual addresses: an offset, an address and the bytes up to the page's end. -/
def pagePieces (va n : Nat) : List (Nat × Nat × Nat) :=
  (chunks 65536 (n / 65536 + 2) va n).map fun (a, k) => (a - va, a, k)

/-- What backs the storage of a region as its pages are mapped now. The page map's is named by tenant physical addresses
(R146). -/
def State.backsOf (s : State) (t : Tid) (v : VD) (handle va n : Nat) : List (Nat × Nat × Nat) :=
  if handle = 0 then v.frameBacks va n
  else
    (pagePieces va n).filterMap fun (o, a, k) =>
      match (s.resolve t.vf t.core a 8 .atomic (s.slotOf t).priv true).1 with
      | .at p _ => (p.behind v).map fun b => (o, b, k)
      | _ => none

/-- The address lies in the storage of a map or window that holds something. -/
def VD.inSlab (v : VD) (tpa : Nat) : Bool :=
  v.shards.any (fun sh => (offsetIn sh.backs tpa).isSome) || v.wins.any fun w => (offsetIn w.backs tpa).isSome

/-- Storage zeroed whole is given up: it is empty for whatever uses it next. What lies on another module stays noted, since it
cannot be looked into (log entry 15). -/
def emptied (backs : List (Nat × Nat × Nat)) (zs : List (Nat × Nat)) : Bool := backs.all (covered zs) && !elsewhere backs

/-- A byte stored to such storage: zeroing it all empties it; any other store leaves its contents unpredictable. -/
def VD.touch (v : VD) (tpa : Nat) (zero : Bool) (draw : Nat) : VD :=
  let sh (x : Shard) : Option Shard :=
    match offsetIn x.backs tpa with
    | none => some x
    | some o =>
      if zero then
        let z := addRange x.zeroed o (o + 1)
        if emptied x.backs z then none else some { x with zeroed := z }
      else some { x with entries := Config.freeShard draw, zeroed := [] }
  let win (x : Win) : Option Win :=
    match offsetIn x.backs tpa with
    | none => some x
    | some o =>
      if zero then
        let z := addRange x.zeroed o (o + 1)
        if emptied x.backs z then none else some { x with zeroed := z }
      else some { x with
        back := Config.freeWindow draw, front := [], agg := (Config.freeWindow draw).headD [], zeroed := [] }
  { v with shards := v.shards.filterMap sh, wins := v.wins.filterMap win }

/-- A range of tenant physical addresses reads as zero afresh: new frames stand there (R48). -/
def VD.zeroed (v : VD) (lo n : Nat) : VD :=
  let ranges (bs : List (Nat × Nat × Nat)) (z : List (Nat × Nat)) : List (Nat × Nat) :=
    bs.foldl (fun z (o, a, k) =>
      if a < lo + n ∧ lo < a + k then addRange z (o + (max a lo - a)) (o + (min (a + k) (lo + n) - a)) else z) z
  { v with
    shards := v.shards.filterMap fun x =>
      let z := ranges x.backs x.zeroed
      if emptied x.backs z then none else some { x with zeroed := z }
    wins := v.wins.filterMap fun x =>
      let z := ranges x.backs x.zeroed
      if emptied x.backs z then none else some { x with zeroed := z } }

/-- The live descriptors of bounded sums, maps and windows in the region table (R138, R143). -/
def State.slabRegions (s : State) (v : VD) : List (Nat × Region) :=
  let base := tableBase v.rgntab
  if base = 0 then []
  else
    s.mem.filterMap fun (pa, _) =>
      match tenantOf v.grants pa with
      | some tpa =>
        if base ≤ tpa ∧ tpa < base + 2 ^ 18 ∧ tpa % 64 = 24 then
          match regionOf (BitVec.ofNat 512 (s.readNat (pa - 24) 64)) v.dies with
          | some r => if 3 ≤ r.kind then some ((tpa - base) / 64, r) else none
          | none => none
        else none
      | none => none

/-- The virtual addresses that lead to a tenant physical address under a RGNTAB: itself while stage 1 is the identity, else
those of the page map's entries that name its frame. -/
def VD.aliases (v : VD) (table : Word) (tpa : Nat) : List Nat :=
  if table = 0 then [tpa]
  else
    (v.shards.filter fun sh => !(mapOf sh.desc).k16 && (mapOf sh.desc).vsz == 2).flatMap fun sh =>
      sh.entries.filterMap fun (_, key, val) =>
        if key % 2 = 0 then
          if bits val 51 16 = tpa / 2 ^ 16 then some (key / 2 * 2 ^ 16 + tpa % 2 ^ 16) else none
        else if bits val 51 21 = tpa / 2 ^ 21 then some (key / 2 * 2 ^ 21 + tpa % 2 ^ 21) else none

/-- Storage that L1 never holds (R138): of a map or window, used already or described in the region table, of bounded sums,
or the region table itself; under the address of an access or any other that leads there. -/
def State.holdsNone (s : State) (v : VD) (va pa : Nat) : Bool :=
  match tenantOf v.grants pa with
  | some tpa =>
    v.inSlab tpa || v.inTable tpa || (s.slabRegions v).any fun (h, r) =>
      if h = 0 then decide (r.base ≤ tpa ∧ tpa < r.base + r.size)
      else (va :: v.aliases v.rgntab tpa).any fun a => decide (r.base ≤ a ∧ a < r.base + r.size)
  | none => false

/-- An access to a line with such storage in one of its halves; regions begin and end at multiples of 64 bytes (R144). -/
def State.uncached (s : State) (v : VD) (va pa : Nat) : Bool :=
  [0, 64].any fun o => s.holdsNone v (va - pa % 128 + o) (pa / 128 * 128 + o)

/-- The lines of a core that have come to hold such storage, by a new descriptor, RGNTAB or translation, are written back and
leave (R138). -/
def State.purge (s : State) (vf : Nat) : List Eff :=
  match s.vdAt vf with
  | some v => v.cores.flatMap fun (off, c) =>
      let sel (l : L1Line) : Bool := s.uncached v l.va (l.line * 128)
      if c.l1.any sel then s.cleanL1 vf off sel false else []
  | none => []

/-! ### Homes -/

/-- A place's home, by a number (R140, R157). -/
def Place.home : Place → Nat
  | .dram pa _ _ _ _ => homeOf pa
  | .host _ => 200
  | .remote dev _ => 300 + dev
  | .window core _ => 400 + core

/-- `n` free bytes. -/
def State.freeBytes (s : State) (n : Nat) : List Byte := (List.range n).map fun i => Config.freeByte (s.free + i)

/-- A place lies in the storage of a map or window that holds something. -/
def State.slabAt (s : State) (vf : Nat) (p : Place) : Bool :=
  match s.vdAt vf with
  | some v => (match p.behind v with | some a => v.inSlab a | none => false)
  | none => false

/-- Bytes stored to the storage of a map or window that holds something (R145, R183, R195). -/
def State.touchSlab (s : State) (t : Tid) (p : Place) (bs : List (Nat × Byte)) : List Eff :=
  match (s.vdAt t.vf).bind p.behind with
  | some a =>
    if s.slabAt t.vf p then
      [.vd t.vf (fun v => bs.foldl (fun v ib => v.touch (a + ib.1) (bs.all (·.2 == 0)) s.free) v), .draw 1]
    else []
  | none => []

/-- The maps laid out in some storage have unpredictable contents. -/
def VD.scramble (v : VD) (backs : List (Nat × Nat × Nat)) (draw : Nat) : VD :=
  let shard (x : Shard) : Shard := if overlap x.backs backs then { x with entries := Config.freeShard draw } else x
  { v with shards := v.shards.map shard }

/-- KSZ, VSZ, HASH, C0LOG and CMAXLOG of a MAP region's KINDF (Table 9.1); SHLOG is not among them. -/
def layoutFields : Nat := 0x1F1F30F1

/-- A store that changes KSZ, VSZ, HASH, C0LOG or CMAXLOG of a live MAP descriptor whose slabs are in use leaves the map's
contents unpredictable (R183). -/
def State.retype (s : State) (t : Tid) (p : Place) (bs : List (Nat × Byte)) : List Eff :=
  match s.vdAt t.vf, p with
  | some v, .dram pa _ _ _ _ =>
    (match tenantOf v.grants pa with
      | some tpa =>
        bs.flatMap fun ib =>
          let o := (tpa + ib.1 - tableBase v.rgntab) % 64
          let changed := ((readCell s.mem (pa + ib.1)).toNat ^^^ ib.2.toNat) * 2 ^ (8 * (o - 32))
          if v.inTable (tpa + ib.1) = true ∧ 32 ≤ o ∧ changed &&& layoutFields ≠ 0 then
            match regionOf (BitVec.ofNat 512 (s.readNat (pa + ib.1 - o) 64)) v.dies with
            | some r =>
              if r.kind = 4 then
                let backs := s.backsOf t v ((tpa + ib.1 - tableBase v.rgntab) / 64) r.base r.size
                [.vd t.vf (·.scramble backs s.free), .draw 1]
              else []
            | none => []
          else []
      | none => [])
  | _, _ => []

/-- What `n` bytes read as at their place, and how many free values that takes. A private layout and another module's
memory are not this module's to fix. -/
def State.atHome (s : State) (vf : Nat) (p : Place) (n : Nat) : List Byte × Nat :=
  if s.slabAt vf p then (s.freeBytes n, n)
  else
    match p with
    | .window core off =>
      let c := s.coreAt vf core
      match storageAt c off n false with
      | some st => (c.load st n, 0)
      | none => (List.replicate n 0, 0)
    | .dram pa _ _ _ _ => (readBytes s.mem pa n, 0)
    | .host a => (readBytes s.host a n, 0)
    | .remote _ _ => (s.freeBytes n, n)

/-- Bytes at a place lie in the region table. -/
def State.atTable (s : State) (vf : Nat) (p : Place) (bs : List (Nat × Byte)) : Bool :=
  match s.vdAt vf, p with
  | some v, .dram pa _ _ _ _ =>
    (match tenantOf v.grants pa with | some tpa => bs.any fun ib => v.inTable (tpa + ib.1) | none => false)
  | _, _ => false

/-- Bytes, given by their offsets, stored at a place; `full` sets the words full in the same step (R171). A store to a
migrating page is forwarded (R153). -/
def State.storeAt (s : State) (t : Tid) (p : Place) (bs : List (Nat × Byte)) (full : Bool) : List Eff :=
  s.retype t p bs ++
  (match p with
  | .window core off =>
    [.core t.vf core fun c =>
      match storageAt c off (bs.foldl (fun n ib => max n (ib.1 + 1)) 0) true with
      | some st =>
        let c := c.store st bs
        match st, full with
        | .scratch o, true => bs.foldl (fun c ib => c.setFull (o + ib.1) true) c
        | _, _ => c
      | none => c]
  | .dram pa _ _ _ mig =>
    bs.map (fun ib => .mem (pa + ib.1) ib.2) ++
      (if full then bs.map (fun ib => .full ((pa + ib.1) / 8) true) else []) ++
      (match mig with
        | some (dev, to', va) =>
          bs.map fun ib =>
            .send t 0 0 (.forward (va + ib.1) (pa + ib.1) dev (to' + ib.1) [ib.2] (if full then some true else none))
        | none => [])
  | .host a => bs.map fun ib => .host (a + ib.1) ib.2
  | .remote _ _ => []) ++ s.touchSlab t p bs

/-- Bytes performed at a place. A store to the region table may describe storage that L1 holds: those lines leave. -/
def State.toHome (s : State) (t : Tid) (p : Place) (bs : List (Nat × Byte)) (full : Bool) : List Eff :=
  let es := s.storeAt t p bs full
  if s.atTable t.vf p bs then es ++ (applyAll es s).purge t.vf else es

/-! ### L1 and visitor lines -/

/-- A line's bytes at its home. -/
def State.homeLine (s : State) (line : Nat) : BitVec 1024 := BitVec.ofNat 1024 (s.readNat (line * 128) 128)

/-- Sets of L1 and their four ways; the line filled first leaves when a set is full (R138). -/
def State.fillL1 (s : State) (vf core : Nat) (l : L1Line) : List Eff :=
  let c := s.coreAt vf core
  let sets := 128 * c.l1size
  let same := c.l1.filter fun k => k.line % sets == l.line % sets
  match if 4 ≤ same.length then same.head? else none with
  | some old => s.cleanL1 vf core (·.line == old.line) false ++ [.core vf core fun c => { c with l1 := c.l1 ++ [l] }]
  | none => [.core vf core fun c => { c with l1 := c.l1 ++ [l] }]

/-- A class whose quota is zero, or a device whose WAYMASK is zero, holds no line in L2 (R66). -/
def VD.noWays (v : VD) (cls : Nat) : Bool :=
  bits v.vdlim.toNat 15 0 == 0 || bits v.vdlim.toNat (20 + 5 * cls) (16 + 5 * cls) == 0

/-- The ways a virtual device may allocate into (R64); none that a remask under way removes (R65). -/
def VD.mask (v : VD) : Nat :=
  bits v.vdlim.toNat 15 0 &&& match v.remask with | some x => bits x.toNat 15 0 | none => 65535

/-- Two lines fall in one set of their slice. -/
def sameSet (a b : Nat) : Bool := homeOf (a * 128) % 32 == homeOf (b * 128) % 32 && a / 32 % 2 ^ 24 % 1536 == b / 32 % 2 ^ 24 % 1536

/-- The least recently used of some visitor lines. -/
def oldestVisitor : List (Nat × Visitor) → Option (Nat × Visitor)
  | [] => none
  | x :: rest =>
    match oldestVisitor rest with
    | some y => if y.2.used < x.2.used then some y else some x
    | none => some x

/-- A visitor line gives way. -/
def dropVisitor (vf die line : Nat) : Eff :=
  .vd vf fun v => { v with visitors := v.visitors.filter fun x => !(x.die == die && x.line == line) }

/-- A visitor line placed on a die as R64 gives, four at most in a set (R141): a class at its quota gives up its own least
recently used line, else a masked way that holds no visitor line, the lowest, else the least recently used visitor line in
the masked ways. -/
def State.fillVisitor (s : State) (v : VD) (die line cls : Nat) (data : BitVec 1024) : List Eff :=
  let all := s.vds.flatMap fun (k, w) =>
    (w.visitors.filter fun x => x.die == die && sameSet x.line line).map fun x => (k, x)
  let own := all.filter fun x => x.1 == v.vf && x.2.cls == cls
  let masked := all.filter fun x => bit v.mask x.2.way
  let free := (List.range 16).find? fun w => bit v.mask w && all.all fun x => x.2.way != w
  let put (w : Nat) : Eff := .vd v.vf fun v => { v with visitors := v.visitors ++ [⟨die, line, cls, w, s.cycle, data⟩] }
  let instead (l : List (Nat × Visitor)) : List Eff :=
    match oldestVisitor l with
    | some (k, x) => if bit v.mask x.way then [dropVisitor k die x.line, put x.way] else []
    | none => []
  if bits v.vdlim.toNat (20 + 5 * cls) (16 + 5 * cls) ≤ own.length then instead own
  else
    match if all.length < 4 then free else none with
    | some w => [put w]
    | none => instead masked

/-- A visitor line is used. -/
def touchVisitor (vf die line now : Nat) : Eff :=
  .vd vf fun v => { v with visitors := v.visitors.map fun x =>
    if x.die = die ∧ x.line = line then { x with used := now } else x }

/-- The L1 line and the die's visitor line of an address leave, dirty bytes first written back (R138, R175). -/
def State.expel (s : State) (t : Tid) (pa : Nat) : List Eff :=
  let die := dieOf (s.coreNo t.vf t.core)
  s.cleanL1 t.vf t.core (·.line == pa / 128) false ++
    [dropVisitor t.vf die (pa / 128)]

/-- A core's read of `n` bytes of device memory: from its L1, from a visitor line of its die, or from the home, filling
both (R138, R141). -/
def State.loadDram (s : State) (t : Tid) (va pa n cls : Nat) (bs : Bool) : List Byte × List Eff :=
  let c := s.coreAt t.vf t.core
  let line := pa / 128
  let pick (x : BitVec 1024) : List Byte := (List.range n).map fun i => byteAt x.toNat (pa % 128 + i)
  match s.vdAt t.vf with
  | none => ([], [])
  | some v =>
    if bs || s.uncached v va pa then
      let es := s.expel t pa
      let (b, k) := (applyAll es s).atHome t.vf (.dram pa cls false bs none) n
      (b, es ++ [.draw k])
    else
      match c.l1.find? (·.line == line) with
      | some l => (pick l.data, [])
      | none =>
        let die := dieOf (v.coreNo t.core)
        let home := homeOf pa / 32
        let fill (x : BitVec 1024) : List Eff :=
          if c.l1size = 0 then [] else s.fillL1 t.vf t.core ⟨line, va - pa % 128, x, 0, home⟩
        if die = home then (pick (s.homeLine line), fill (s.homeLine line))
        else
          match v.visitors.find? fun x => x.die == die && x.line == line with
          | some x => (pick x.data, fill x.data ++ [touchVisitor t.vf die line s.cycle])
          | none =>
            let x := s.homeLine line
            (pick x, fill x ++ if v.noWays cls then [] else s.fillVisitor v die line cls x)

/-- Bytes of a line replaced. -/
def pokeLine (x : BitVec 1024) (o : Nat) (bs : List (Nat × Byte)) : BitVec 1024 :=
  BitVec.ofNat 1024 (bs.foldl (fun x ib => setElem 8 x (o + ib.1) ib.2.toNat) x.toNat)

/-- Bytes of a line replaced, but for those that are dirty. -/
def pokeClean (l : L1Line) (o : Nat) (bs : List (Nat × Byte)) : L1Line :=
  { l with data := pokeLine l.data o (bs.filter fun ib => !l.dirty.getLsbD (o + ib.1)) }

/-- The bytes of a run at an address that fall on a line, by their offsets in it. -/
def onLine (pa line : Nat) (bs : List (Nat × Byte)) : List (Nat × Byte) :=
  (bs.filter fun ib => (pa + ib.1) / 128 == line).map fun ib => ((pa + ib.1) % 128, ib.2)

/-- The L1 copy of a core and the visitor copies of its die take bytes that are performed at their home (R138, R141);
bytes the core has stored itself and not written back stay. That is no use of a visitor line in the sense of R64 (log
entry 116). -/
def State.refresh (s : State) (t : Tid) (p : Place) (bs : List (Nat × Byte)) : List Eff :=
  match p with
  | .dram pa _ _ _ _ =>
    let die := dieOf (s.coreNo t.vf t.core)
    [.core t.vf t.core (fun c => { c with l1 := c.l1.map fun l => pokeClean l 0 (onLine pa l.line bs) }),
     .vd t.vf (fun v => { v with visitors := v.visitors.map fun x =>
        if x.die = die then { x with data := pokeLine x.data 0 (onLine pa x.line bs) } else x })]
  | _ => []

def dirtyBits (o : Nat) (bs : List (Nat × Byte)) : BitVec 128 :=
  bs.foldl (fun d ib => d ||| (1#128 <<< (o + ib.1))) 0

/-- A core's store to device memory: into L1 for a line of its own die, else through to the home, updating the L1 copy
and the die's visitor copy (R138, R141). -/
def State.storeDram (s : State) (t : Tid) (va pa cls : Nat) (b : Bool) (mig : Option (Nat × Nat × Nat))
    (bs : List (Nat × Byte)) : List Eff :=
  let c := s.coreAt t.vf t.core
  let line := pa / 128
  let o := pa % 128
  match s.vdAt t.vf with
  | none => []
  | some v =>
    let die := dieOf (v.coreNo t.core)
    let home := homeOf pa / 32
    if b || s.uncached v va pa then
      let es := s.expel t pa
      es ++ (applyAll es s).toHome t (.dram pa cls false b mig) bs false
    else if die = home ∧ mig = none ∧ c.l1size ≠ 0 then
      let hit := c.l1.any (·.line == line)
      (if hit then [] else s.fillL1 t.vf t.core ⟨line, va - o, s.homeLine line, 0, home⟩) ++
        [.core t.vf t.core fun c => { c with l1 := c.l1.map fun l =>
          if l.line = line then { l with data := pokeLine l.data o bs, dirty := l.dirty ||| dirtyBits o bs } else l }]
    else
      -- through to the home: what an earlier store left dirty is written back first
      let es := s.cleanL1 t.vf t.core (·.line == line) true
      let s' := applyAll es s
      es ++ s'.toHome t (.dram pa cls false b mig) bs false ++ s'.refresh t (.dram pa cls false b mig) bs

/-! ### Where a packet is bound for (R12, R140, R144, R157) -/

/-- The position of a place in its storage. -/
def Place.pos : Place → Nat
  | .dram pa _ _ _ _ => pa
  | .host a => a
  | .remote _ tpa => tpa
  | .window _ off => off

/-- Region X and object O of a request (R160); none is BADH. -/
def objectOf (r : SyncReq) (reg : Option Region) : Option (Region × Nat) :=
  match reg with
  | some g =>
    if g.kind = 2 then
      let h := haloOf g.kindf
      if r.row < h.gr ∧ r.col < h.gc then some (g, g.sync + 64 * (r.row * h.gc + r.col)) else none
    else some (g, g.sync)
  | none => none

/-- The shard a request is for. -/
def MapReq.shardOf (r : MapReq) (m : MapDesc) : Nat :=
  if r.code = 4 then r.shard
  else if r.code = 5 then (if r.shard < 4096 then r.shard else if r.first then 0 else m.shard (m.hash r.key))
  else m.shard (m.hash r.key)

/-- The die where an address is performed (R131, R140). -/
def State.dieAt (s : State) (vf : Nat) (p : Place) : Option Nat :=
  match p with
  | .dram pa _ _ _ _ => some (homeOf pa / 32)
  | .window k _ => some (dieOf (s.coreNo vf k))
  | _ => none

/-- The place of an object in memory. -/
def State.placeOf (s : State) (t : Tid) (va : Nat) : Option Place :=
  match (s.resolve t.vf t.core va 8 .atomic true true).1 with
  | .at p _ => some p
  | _ => none

/-- The home slice of a unit of a homed region (R144). -/
def State.unitHome (s : State) (t : Tid) (handle unit : Nat) : Option Nat :=
  match s.vdAt t.vf, s.lookRegion t.vf t.core handle with
  | some v, .region (some r) _ => some (r.unitHome v.dies unit)
  | _, _ => none

/-- The shard of a map request. -/
def State.mapUnit (s : State) (t : Tid) (r : MapReq) : Nat :=
  match s.lookRegion t.vf t.core r.handle with
  | .region (some g) _ => r.shardOf (mapOf g.kindf)
  | _ => 0

/-- The object of an acquire or release, kept with the packet once the core's part of a release is done. -/
def State.syncObject (s : State) (t : Tid) (r : SyncReq) : Option Nat :=
  if r.halt = true ∨ r.stage ≠ 0 then some r.object
  else
    match s.lookRegion t.vf t.core r.handle with
    | .region reg _ => (objectOf r reg).map (·.2)
    | .frame _ => none

/-- The line of bounded sums that an address lies in: handle and line. -/
def State.sumLineAt (s : State) (vf va : Nat) : Option (Nat × Nat) :=
  (s.vdAt vf).bind fun v =>
    ((s.slabRegions v).find? fun (h, r) => h != 0 && r.kind == 3 && decide (r.base ≤ va ∧ va < r.base + r.size)).map
      fun (h, r) => (h, (va - r.base) / 128)

/-- The unit of a homed region that a request is for: map, window or line of sums, handle and unit. An access to a page with
BS set is one to its line of sums (R147). -/
def State.unitOf (s : State) (t : Tid) (pk : Packet) : Option (Nat × Nat × Nat) :=
  match pk with
  | .access a (.dram _ _ _ true _) | .transit (.access a) (.dram _ _ _ true _) =>
    (s.sumLineAt t.vf a.va).map fun (h, line) => (2, h, line)
  | .map r => some (0, r.handle, s.mapUnit t r)
  | .window r => some (1, r.handle, 0)
  | .grant h line .. | .partialSum h line .. | .bload h line .. => some (2, h, line)
  | _ => none

/-- The home that a request is bound for, by a number. A release is still in its core until its stage 2 (R162). -/
def State.homeNo (s : State) (t : Tid) (pk : Packet) : Option Nat :=
  match pk with
  | .access _ p | .transit _ p | .atomic _ p | .route _ _ p | .wanting _ p =>
    some (((s.unitOf t pk).bind fun u => s.unitHome t u.2.1 u.2.2).getD p.home)
  | .sync r => if r.rel = true ∧ r.stage < 2 then none else (s.syncObject t r).bind fun o => (s.placeOf t o).map (·.home)
  | .barrier va .. => (s.placeOf t va).map (·.home)
  | pk => (s.unitOf t pk).bind fun u => s.unitHome t u.2.1 u.2.2

/-- The die of a home; another module and the host have none. -/
def State.homeDie (s : State) (vf n : Nat) : Option Nat :=
  if n < 128 then some (n / 32) else if 400 ≤ n then some (dieOf (s.coreNo vf (n - 400))) else none

/-- The die that a packet is bound for (log entry 94). -/
def State.destDie (s : State) (t : Tid) (pk : Packet) : Option Nat :=
  match pk with
  | .halo k .. | .message k .. | .qsig k .. | .tile k .. | .inval _ _ k _ | .bxf _ _ k _ | .drain _ _ k =>
    some (dieOf (s.coreNo t.vf k))
  | .fault .. | .fwake .. | .csr .. => some (dieOf (s.coreNo t.vf 0))
  | pk => (s.homeNo t pk).bind (s.homeDie t.vf)

/-- The dies that an operation's requests are bound for, and the one where it waits. -/
def State.replyDies (s : State) (t : Tid) (o : Op) : List Nat :=
  (s.flights.filterMap fun f => if f.tid = t ∧ f.seq = o.seq then s.destDie t f.pk else none) ++
    (match o.wait with
      | .phase va .. => (s.placeOf t va).bind (s.dieAt t.vf)
      | .token r => (s.placeOf t r.object).bind (s.dieAt t.vf)
      | _ => none).toList

/-! ### The parts of an operation -/

/-- The timeout of a wait has not expired (R106). A SLEEP still wakes in the cycle in which it expires (R294). -/
def Op.inTime (o : Op) (cycle : Nat) : Bool :=
  match o.deadline with
  | some d => if o.wait = .latch then decide (cycle ≤ d) else decide (cycle < d)
  | none => true

/-- The timeout of a thread's operation has not expired. The wait of a core that halts is abandoned, its timeout with it
(R88). -/
def State.inTime (s : State) (t : Tid) (o : Op) : Bool := (s.coreAt t.vf t.core).halted || o.inTime s.cycle


/-- An outstanding operation changed. -/
def Slot.modOp (x : Slot) (seq : Nat) (g : Op → Op) : Slot :=
  { x with ops := x.ops.map fun o => if o.seq = seq then g o else o }

/-- One part of an operation has been performed, with what it leaves in the operation; the last one sends the reply, no
earlier than 12 cycles after issue (R96). The operation keeps the dies that its replies come from. -/
def State.partDone (s : State) (t : Tid) (seq : Nat) (g : Op → Op) : List Eff :=
  match (s.slotOf t).ops.find? (·.seq == seq) with
  | none => []
  | some o =>
    let ds := s.replyDies t o
    .slot t (fun x => x.modOp seq fun o => { g o with left := o.left - 1, dies := (o.dies ++ ds).eraseDups }) ::
      (if o.left ≤ 1 then
        [.send t seq (if o.scalar then 0 else o.issued + 12 - s.cycle) (if o.scalar then .sreply else .vreply)]
      else [])

/-- Bytes of an operation's first vector result replaced; byte 256 on are its side word's. -/
def Op.pokeV (o : Op) (dst : Nat) (bs : List (Nat × Byte)) : Op :=
  match o.v with
  | (r, y) :: rest =>
    if dst < 256 then
      let x := bs.foldl (fun x ib => setElem 8 x (dst + ib.1) ib.2.toNat) y.data.toNat
      { o with v := (r, { y with data := BitVec.ofNat 2048 x }) :: rest }
    else
      let x := bs.foldl (fun x ib => setElem 8 x (dst - 256 + ib.1) ib.2.toNat) y.side.toNat
      { o with v := (r, { y with side := BitVec.ofNat 128 x }) :: rest }
  | [] => o

/-- The value of an operation's first scalar result. -/
def Op.setS0 (o : Op) (w : Word) : Op :=
  match o.s with
  | (r, _) :: rest => { o with s := (r, w) :: rest }
  | [] => o

/-- The bytes of an access that its mask selects. -/
def Access.sel (a : Access) : List Nat := (List.range a.size).filter fun i => bit a.mask i

/-- The bytes an access stores, by their offsets. -/
def Access.bytes (a : Access) : List (Nat × Byte) := a.sel.map fun i => (i, byteAt a.data i)

/-- The words of an access, as byte offsets of each. -/
def Access.words (a : Access) : List Nat := (List.range (a.size / 8)).map (8 * ·) |>.filter fun i => bits a.mask (i + 7) i != 0

/-- A word's full/empty bit at its place. -/
def State.isFull (s : State) (vf : Nat) (p : Place) (o : Nat) : Bool :=
  match p with
  | .dram pa _ _ _ _ => setMem s.full ((pa + o) / 8)
  | .window core off => setMem (s.coreAt vf core).sramFull ((off + o) / 8)
  | .remote dev tpa => Config.remoteFull dev ((tpa + o) / 8) s.cycle
  | .host _ => false

/-- A word's bit set; a migrating page forwards it (R153). -/
def setFullEff (t : Tid) (p : Place) (o : Nat) (on : Bool) : List Eff :=
  match p with
  | .dram pa _ _ _ mig =>
    .full ((pa + o) / 8) on ::
      match mig with
      | some (dev, dest, va) => [.send t 0 0 (.forward (va + o) (pa + o) dev (dest + o) [] (some on))]
      | none => []
  | .window core off => [.core t.vf core fun c => c.setFull (off + o) on]
  | _ => []

/-- The core's own dirty bytes of the line an access meets at its home reach it first (R157). -/
def State.ownFirst (s : State) (t : Tid) (p : Place) : List Eff :=
  match p with
  | .dram pa _ _ _ _ => s.cleanL1 t.vf t.core (·.line == pa / 128) true
  | _ => []

/-- A core's access performed: at the bank, in L1 or at the home (R155, R157). Lines of the host's windows and of other
modules are never kept in L1 or as visitor lines, which R138 would allow (DESIGN CHOICE, log entry 104). -/
def State.perform (s : State) (f : Flight) (a : Access) (p : Place) : List Eff :=
  let t := f.tid
  match a.op with
  | .store =>
    (match p with
      | .dram pa cls _ b mig => s.storeDram t a.va pa cls b mig a.bytes
      | _ => s.toHome t p a.bytes false) ++ s.partDone t f.seq id
  | .storeFull =>
    let es := s.ownFirst t p
    let s' := applyAll es s
    es ++ s'.toHome t p a.bytes true ++ s'.refresh t p a.bytes ++ s.partDone t f.seq id
  | .setEmpty => setFullEff t p 0 false ++ s.partDone t f.seq id
  | .loadFull consume =>
    let es := s.ownFirst t p
    let s' := applyAll es s
    let (b, k) := s'.atHome t.vf p a.size
    let got := a.sel.map fun i => (i, b.getD i 0)
    es ++ .draw k :: (if consume then a.words.flatMap fun o => setFullEff t p o false else []) ++
      s'.refresh t p got ++ s.partDone t f.seq fun o =>
        let o := { o with wait := if o.left ≤ 1 then .none else o.wait }
        match o.v with
        | [] => o.setS0 (BitVec.ofNat 64 (leNat b))
        | _ => o.pokeV a.dst got
  | .loadV | .loadS _ =>
    let (b, es) := match p with
      | .dram pa cls _ bs _ => s.loadDram t a.va pa a.size cls bs
      | _ => let (b, k) := s.atHome t.vf p a.size; (b, [.draw k])
    let got := a.sel.map fun i => (i, b.getD i 0)
    es ++ s.partDone t f.seq fun o =>
      match a.op with
      | .loadS sg =>
        let x := leNat b
        o.setS0 (BitVec.ofNat 64 (if sg then ofSigned 64 (toSigned (8 * a.size) x) else x))
      | _ => o.pokeV a.dst got

/-! ### The step (R157) -/

/-- An operation stands first at its home since it met a fault there. -/
def State.standsFirst (s : State) (g : Flight) : Bool :=
  (s.slotOf g.tid).held.any (·.flight == some g.id) ||
    match s.vdAt g.tid.vf with | some v => v.arrived.contains g.id | none => false

/-- A core's request for a grant and its own message of sums of that line: the message goes first, since it returns the line
that the request asks for anew (R205, R207). -/
def sumsOfGrant (g f : Flight) : Bool :=
  g.tid.vf == f.tid.vf && g.tid.core == f.tid.core &&
    match g.pk, f.pk with
    | .grant h line .., .partialSum h' line' .. => h == h' && line == line'
    | _, _ => false

/-- An older operation stands first at the unit that a request is for. -/
def State.front (s : State) (f : Flight) : Option Flight :=
  match s.unitOf f.tid f.pk with
  | none => none
  | some u =>
    if s.standsFirst f then none
    else s.flights.find? fun g => g.id != f.id && g.tid.vf == f.tid.vf && s.standsFirst g &&
      s.unitOf g.tid g.pk == some u && !sumsOfGrant g f


/-- A barrier wait of a thread, by an instruction before another, is on its way to its home, or is held there for a fault. -/
def State.barComes (s : State) (t : Tid) (seq : Nat) : Bool :=
  s.flights.any fun g => g.tid == t && decide (g.seq < seq) &&
    (match g.pk with | .barrier _ form _ _ => form != 1 | _ => false)

/-- A thread waits at a barrier, or its wait is on its way there, by an instruction before another. A wait of a core that
halts is abandoned once it has come there (R88). -/
def State.barWaits (s : State) (t : Tid) (seq : Nat) : Bool :=
  (!(s.coreAt t.vf t.core).halted &&
    (s.slotOf t).ops.any fun o => decide (o.seq < seq) && (match o.wait with | .phase .. => true | _ => false)) ||
    s.barComes t seq

/-- Such a wait holds the thread's later accesses: none is performed before it ends (R249). What an abandoned wait has held
goes on (R101, log entry 114). -/
def State.barHolds (s : State) (t : Tid) (seq : Nat) : Bool := s.barWaits t seq

/-- An access that such a wait holds in its core. -/
def State.barHeld (s : State) (f : Flight) : Bool :=
  (match f.pk with
    | .access .. | .atomic .. | .route .. | .walk .. | .map .. | .window .. | .grant .. | .bload .. => true
    | _ => false) && s.barHolds f.tid f.seq

/-- Two accesses at their places share a unit of 8 bytes. -/
def sharesUnit (p : Place) (n : Nat) (q : Place) (m : Nat) : Bool :=
  p.home == q.home && decide (p.pos / 8 ≤ (q.pos + m - 1) / 8 ∧ q.pos / 8 ≤ (p.pos + n - 1) / 8)

/-- The place and the bytes of an access or atomic on its way. -/
def Packet.span : Packet → Option (Place × Nat)
  | .access a p | .transit (.access a) p | .route _ (.access a) p => some (p, a.size)
  | .atomic r p | .transit (.atomic r) p | .route _ (.atomic r) p => some (p, r.width / 8)
  | _ => none

/-- An access to a unit for whose full bit an earlier instruction of the thread still waits is held in its core: a load
reads no store that it happens before (R157, R166). -/
def State.wantHeld (s : State) (f : Flight) : Bool :=
  match f.pk.span with
  | some (p, n) => s.flights.any fun g => g.tid == f.tid && decide (g.seq < f.seq) &&
      (match g.pk with | .wanting b q => sharesUnit p n q b.size | _ => false)
  | none => false

/-- A request that a load with a tolerance has sent has arrived and waits there for sums to be drained (R208). -/
def State.drains (s : State) (vf core handle line : Nat) : Bool :=
  s.flights.any fun q => q.tid.vf == vf &&
    (match q.pk with
      | .drain h l _ => h == handle && l == line
      | .partialSum h l _ _ r => h == handle && l == line && (r || q.tid.core == core)
      | _ => false)

/-- An access to an element of a bounded sum waits for the sums that its core has sent of that line before it (R147, R179). -/
def State.sumsAhead (s : State) (f : Flight) : Bool :=
  match f.pk with
  | .access _ (.dram _ _ _ true _) =>
    (s.unitOf f.tid f.pk).any fun u => s.flights.any fun g => decide (g.id < f.id) && g.tid.vf == f.tid.vf &&
      g.tid.core == f.tid.core && (match g.pk with | .partialSum h line .. => u == (2, h, line) | _ => false)
  | _ => false

/-- A request is not on its way to its home: it is held in its core, or has arrived and waits there. -/
def State.offTheWay (s : State) (g : Flight) : Bool :=
  s.barHeld g || s.wantHeld g || s.sumsAhead g || (s.slotOf g.tid).held.any (·.flight == some g.id) || (s.front g).isSome ||
    (match g.pk with
      | .wanting .. => true
      | .bload h line .. => s.drains g.tid.vf g.tid.core h line || ((s.vdAt g.tid.vf).bind (·.remask)).isSome
      | .map _ | .window _ | .grant .. | .partialSum .. => ((s.vdAt g.tid.vf).bind (·.remask)).isSome
      | _ => false)

/-- An access hits the core's L1. -/
def State.hitsL1 (s : State) (t : Tid) (p : Place) : Bool :=
  match p with
  | .dram pa _ _ _ _ => (s.coreAt t.vf t.core).l1.any (·.line == pa / 128)
  | _ => false

/-- An access that its core's L1 answers, so that it does not reach the slice: a load that hits, and a store or an atomic of
core scope that hits a line of its own die (R138, R175). -/
def State.answeredInL1 (s : State) (f : Flight) (p : Place) : Bool :=
  let own := s.dieAt f.tid.vf p == some (dieOf (s.coreNo f.tid.vf f.tid.core)) &&
    (match p with | .dram _ _ _ _ mig => mig.isNone | _ => false)
  s.hitsL1 f.tid p &&
    match f.pk with
    | .access a _ => (match a.op with | .loadS _ | .loadV => true | .store => own | _ => false)
    | .atomic r _ => r.scope == 0 && own
    | _ => false

/-- Whether an access passes through the slice's transit buffer (R66, log entry 93). -/
def State.throughTransit (s : State) (f : Flight) (p : Place) : Bool :=
  match p with
  | .dram _ cls _ _ _ =>
    (match s.vdAt f.tid.vf with | some v => v.noWays cls | none => false) && !s.answeredInL1 f p
  | _ => false

/-- Of two requests of a core to one home the one that goes first: the older; one that holds an entry of the transit buffer,
before a younger one that does not take an entry, and before none that waits for one; and a core's sums before its request for
their line. -/
def State.before (s : State) (g f : Flight) : Bool :=
  match g.pk, f.pk with
  | .transit .., .transit .. => decide (g.id < f.id)
  | .transit .., .access _ p | .transit .., .atomic _ p => decide (g.id < f.id) && !s.throughTransit f p
  | _, .transit .. => false
  | _, _ => decide (g.id < f.id) && !sumsOfGrant g f

/-- An access that a walk holds: its home is not known yet, so that every later request of its core waits for it. -/
def Packet.walks (pk : Packet) : Bool := match pk with | .walk _ => true | _ => false

/-- No request of the same core to the same home that goes before it is on its way (R157). -/
def State.firstToHome (s : State) (f : Flight) : Bool :=
  let n := s.homeNo f.tid f.pk
  n.isNone && !f.pk.walks || s.flights.all fun g =>
    g.id == f.id || !s.before g f || g.tid.vf != f.tid.vf || g.tid.core != f.tid.core ||
      !(g.pk.walks || n.isSome && s.homeNo g.tid g.pk == n) || s.offTheWay g

/-- The requests that occupy entries of a slice's transit buffer. -/
def State.transits (s : State) (slice : Nat) : List Flight :=
  s.flights.filter fun g => match g.pk with | .transit _ p => p.home == slice | _ => false

/-- All the words an access reads are full. -/
def State.allFull (s : State) (vf : Nat) (a : Access) (p : Place) : Bool := a.words.all (s.isFull vf p)

/-- No earlier request that could be served as well waits for a full bit of a word this access reads (R107): one that arrives
comes after all that wait, and of those that wait the one that began first goes first. -/
def State.firstWaiter (s : State) (f : Flight) (a : Access) (p : Place) : Bool :=
  let waits : Bool := match f.pk with | .wanting .. => true | _ => false
  s.flights.all fun g => g.id == f.id || waits && decide (f.id < g.id) || g.tid.vf != f.tid.vf ||
    (match g.pk with
      | .wanting b q => !sharesUnit p a.size q b.size || !s.allFull g.tid.vf b q
      | _ => true)

/-- The address of a part. -/
def Part.va : Part → Nat
  | .access a => a.va
  | .atomic r => r.va

/-- A read of a descriptor or a walk that a packet still needs crosses a narrow that has lost its training (R12). -/
def State.readsAcross (s : State) (t : Tid) (pk : Packet) : Bool :=
  s.anyLost &&
    match pk with
    | .walk p => s.walkHeld t.vf t.core p.va
    | .barrier va .. => s.walkHeld t.vf t.core va
    | .sync r => s.lookHeld t.vf t.core r.handle || (s.syncObject t r).any (s.walkHeld t.vf t.core)
    | .map r => s.lookHeld t.vf t.core r.handle
    | .window r => s.lookHeld t.vf t.core r.handle
    | .grant h .. | .partialSum h .. | .bload h .. => s.lookHeld t.vf t.core h
    | _ => false

/-- Traffic between two dies whose narrow has lost its training is held (R12): from its core, or, of a forward, from the
source home, of a request to drain, from its line's home; a wake waits for every die it goes to, and a reply for every die it
comes from. -/
def State.narrowDown (s : State) (f : Flight) : Bool :=
  let here := dieOf (s.coreNo f.tid.vf f.tid.core)
  let slice := dieOf (s.coreNo f.tid.vf 0)
  match f.pk with
  | .forward _ pa dev tpa _ _ =>
    (match (s.vdAt f.tid.vf).bind (·.stage2 tpa) with
      | some q => dev == s.ownDev && s.narrowLost (homeOf pa / 32) (homeOf q / 32)
      | none => false)
  | .wake _ _ ts js ls ms =>
    ((ts.map (·.core) ++ ms).any fun k => s.narrowLost slice (dieOf (s.coreNo f.tid.vf k))) ||
      (js.any fun j => s.narrowLost slice (j.1 / 16)) ||
      ls.any fun l =>
        match (s.vdAt f.tid.vf).bind (·.nodeAt l.1 l.2) with
        | some n => n.place.any fun k => s.narrowLost slice (dieOf (s.coreNo f.tid.vf k.1))
        | none => false
  | .vreply | .sreply => ((s.slotOf f.tid).ops.find? (·.seq == f.seq)).any fun o => o.dies.any (s.narrowLost here)
  | .drain h line k =>
    (s.unitHome f.tid h line).any fun n => s.narrowLost (n / 32) (dieOf (s.coreNo f.tid.vf k))
  | .inval key _ k _ =>
    (match s.lookRegion f.tid.vf f.tid.core 0 with
      | .region (some r) _ => (s.unitHome f.tid 0 ((mapOf r.kindf).shard ((mapOf r.kindf).hash key))).any fun n =>
          s.narrowLost (n / 32) (dieOf (s.coreNo f.tid.vf k))
      | _ => false)
  | pk =>
    (match s.destDie f.tid pk with
      | some b => s.narrowLost here b
      | none => false) || s.readsAcross f.tid pk

/-- Accesses of a thread before an instruction that have not been performed (R162, R172, R177). -/
def State.unperformedBefore (s : State) (t : Tid) (seq : Nat) : Bool :=
  (s.slotOf t).held.any (fun h => h.part.isSome && decide (h.seq < seq)) ||
    s.flights.any fun f => f.tid == t && f.seq != 0 && decide (f.seq < seq) &&
      (match f.pk with
        | .access .. | .transit .. | .wanting .. | .atomic .. | .route .. | .walk .. | .map .. | .window .. | .grant ..
        | .bload .. | .drain .. | .partialSum .. => true
        | _ => false)

/-- The thread's accesses before an instruction have not all been performed, or a barrier wait before it has not ended: a
command's first read waits for them (R172, R249). -/
def State.readsLater (s : State) (t : Tid) (seq : Nat) : Bool := s.unperformedBefore t seq || s.barWaits t seq

/-- What a thread has sent before an instruction and is still on its way: of a core that halts, all that a matrix operation
waits for (R380). What a fault holds at its home, or waits there for a full word, is not. -/
def State.underWay (s : State) (t : Tid) (seq : Nat) : Bool :=
  s.flights.any fun f => f.tid == t && f.seq != 0 && decide (f.seq < seq) &&
    (s.slotOf t).held.all (·.flight != some f.id) && (s.front f).isNone &&
    (match f.pk with
      | .access .. | .transit .. | .atomic .. | .route .. | .walk .. | .map .. | .window .. | .grant .. | .bload ..
      | .drain .. | .partialSum .. => true
      | .barrier _ form _ _ => form != 1
      | _ => false)

/-- A migration that has parked sends none of its lines on (R123, R153). -/
def State.jobParked (s : State) (f : Flight) : Bool :=
  match f.pk with
  | .forward .. =>
    f.tid.slot ≥ 8 && (s.isleAt (isleOf (s.coreNo f.tid.vf f.tid.core))).jobs.any fun j =>
      j.id == f.tid.slot - 8 && j.vf == f.tid.vf && j.kind == .mig && j.faultPage.isSome
  | _ => false

/-- A packet waits: at its home behind a fault or a missing frame (R192) or behind a remask (R65), at a narrow (R12), with
its job, or in its core behind a barrier (R249) or a word that is not full. -/
def State.waiting (s : State) (f : Flight) : Bool :=
  (s.slotOf f.tid).held.any (·.flight == some f.id) || s.narrowDown f || s.barHeld f || s.wantHeld f || s.sumsAhead f ||
    s.jobParked f ||
    ((s.vdAt f.tid.vf).bind (·.remask)).isSome &&
      (match f.pk with | .map _ | .window _ | .grant .. | .partialSum .. | .bload .. => true | _ => false)

/-- A part on its way to its place. -/
def Part.packet (p : Part) (q : Place) : Packet :=
  match p with
  | .access a => .access a q
  | .atomic r => .atomic r q

/-- A part that waits at the hub goes on once a strait of its route is ready (R17). -/
def State.leaveHub (s : State) (pk : Packet) : Packet :=
  match pk with
  | .route dev p q => if s.routeReady dev then p.packet q else pk
  | _ => pk

/-- A packet may be delivered now: nothing holds it, no older operation stands before it at its unit (R192), and no older
request of its core to its home is on its way (R157). -/
def State.deliverable (s : State) (f : Flight) : Bool :=
  decide (f.notBefore ≤ s.cycle) && !s.waiting f && (s.front f).isNone && s.firstToHome f

/-- The packet under delivery. -/
def State.delivering (s : State) : Option Flight :=
  (s.flightAt s.turn).bind fun f => if s.deliverable f then some { f with pk := s.leaveHub f.pk } else none

/-- A packet is sent on as another: it is the youngest again. -/
def repack (id : Nat) (pk : Packet) (s : State) : List Eff :=
  match s.flightAt id with
  | some f => [.drop id, .send f.tid f.seq 0 pk]
  | none => []

/-! ### Atomics (R175, R176, R329 to R331) -/

/-- Operation codes 0 to 8 of R329, 9 `.fadd`, on elements of w bits; 15 is compare-and-exchange. -/
def atomicOp (code w old operand compare : Nat) : Nat :=
  match code with
  | 0 => (old + operand) % 2 ^ w
  | 1 => old &&& operand
  | 2 => old ||| operand
  | 3 => old ^^^ operand
  | 4 => if toSigned w old ≤ toSigned w operand then old else operand
  | 5 => if toSigned w old ≤ toSigned w operand then operand else old
  | 6 => min old operand
  | 7 => max old operand
  | 8 => operand
  | 9 => (arithF .add 8 0 old operand).1
  | _ => if old = compare then operand else old

/-- A store, where there is anything to store. -/
def unlessNone (bs : List (Nat × Byte)) (es : List Eff) : List Eff := if bs = [] then [] else es

/-- A read-modify-write performed at its place (R329 to R331), with what it returns. -/
def State.performAtomic (s : State) (f : Flight) (r : AtomicReq) (p : Place) : List Eff :=
  let t := f.tid
  let n := r.width / 8
  -- a compare-and-exchange that fails writes nothing (R330)
  let out (old : Nat) : List (Nat × Byte) :=
    if r.code = 15 ∧ old ≠ r.compare then []
    else (leBytes n (atomicOp r.code r.width old r.operand r.compare)).zipIdx.map fun (b, i) => (i, b)
  let keep (old : Nat) (o : Op) : Op :=
    match r.dst with
    | some e => o.pokeV (e * n) ((leBytes n old).zipIdx.map fun (b, i) => (i, b))
    | none => o.setS0 (BitVec.ofNat 64 old)
  match p with
  | .dram pa cls _ b mig =>
    if r.scope = 0 then
      let (bytes, es) := s.loadDram t r.va pa n cls b
      let old := leNat bytes
      let s' := applyAll es s
      es ++ unlessNone (out old) (s'.storeDram t r.va pa cls b mig (out old)) ++ s.partDone t f.seq (keep old)
    else
      let es := s.expel t pa
      let s' := applyAll es s
      let (bytes, k) := s'.atHome t.vf p n
      let old := leNat bytes
      es ++ [.draw k] ++ unlessNone (out old) (s'.toHome t p (out old) false) ++ s.partDone t f.seq (keep old)
  | _ =>
    let (bytes, k) := s.atHome t.vf p n
    let old := leNat bytes
    .draw k :: unlessNone (out old) (s.toHome t p (out old) false) ++ s.partDone t f.seq (keep old)

end Sys2Proof.Machine
end

