-- ==== Sys2Proof/Machine/Route.lean ====
section
/-! DEFINITION. What becomes of the accesses of an issuing instruction (R118, R318): traps, packets to their places,
page faults (R118 to R122), missing frames (R49) and accesses that wait at the hub (R17). -/

namespace Sys2Proof.Machine

/-! ### Records of the control channel (R37, R39) -/

/-- The handle of an object by its serial number (R43). -/
def State.handle (s : State) (serial : Nat) : Word := Config.handleSeal s.module.boots serial

/-- A 32-byte completion record (Table 2.5), its phase bit still 0. -/
def completion (tag status reason : Nat) (r0 r1 : Word) : List Byte :=
  leBytes 4 tag ++ leBytes 1 status ++ leBytes 1 reason ++ [0, 0] ++ leBytes 8 r0.toNat ++ leBytes 8 r1.toNat ++
    List.replicate 8 0

/-- A record of the Holm's own waits for room on the control channel (R37). -/
def postControl (r : List Byte) : Eff :=
  .module fun m => { m with control := { m.control with notices := m.control.notices ++ [r] } }

/-! ### Parts -/

/-- The first byte that a part moves. -/
def Part.first : Part → Nat
  | .access a => a.va + a.sel.headD 0
  | .atomic r => r.va

def Part.size : Part → Nat
  | .access a => a.size
  | .atomic r => r.width / 8

def Part.kind : Part → AccKind
  | .access a =>
    match a.op with
    | .store | .storeFull | .setEmpty => .write
    | _ => .read
  | .atomic _ => .atomic

/-- A place whose words have a full/empty bit (R171). -/
def hasFull (c : Core) : Place → Bool
  | .dram .. | .remote .. => true
  | .window _ off => off < c.spSize
  | .host _ => false

/-- A part's place (R318), with the refusals of R171 and R332. The width of a vector access is that of its 8-byte unit,
whichever of its bytes are active (log entry 29). -/
def State.routePart (s : State) (t : Tid) (priv : Bool) (p : Part) : Where × List Eff :=
  let (w, es) := s.resolve t.vf t.core p.va p.size p.kind priv true
  match w with
  | .at q _ =>
    let core := match q with | .window k _ => s.coreAt t.vf k | _ => Core.zero
    let ok := match p with
      | .access a =>
        (match a.op with
          | .storeFull | .setEmpty | .loadFull _ => hasFull core q
          -- a semaphore takes a whole word (Table 7.2)
          | .store => (match q with
              | .window _ off => off < core.spSize || off < 0xB0000 || a.sel.length == 8
              | _ => true)
          | _ => true)
      | .atomic _ =>
        (match q with
          | .window _ off => decide (off < 0xB0000)
          | .dram _ _ _ bs _ => !bs
          | .remote .. => !s.onSumPage t.vf t.core p.va
          | .host _ => true)
    (if ok then w else .addr, es)
  | _ => (w, es)

/-- The page of an address, as faults name it: 64 KiB, inside a 2 MiB mapping too (log entry 116). -/
def pageOf (va : Nat) : Nat := va / 65536

/-- Parts routed: where each leads and what the walks change, one walk for each page. -/
def State.routeAll (s : State) (t : Tid) (priv : Bool) (ps : List Part) : List (Part × Where × List Eff) :=
  ps.zipIdx.map fun (p, i) =>
    let (w, es) := s.routePart t priv p
    (p, w, if (ps.take i).any (fun q => pageOf q.va == pageOf p.va) then [] else es)

/-- The first element that a routed part would store to a page with GD set whose effective address lies outside every token of
its thread (R147, R167, R318). -/
def lacksToken (x : Slot) (p : Part) (w : Where) : Option Nat :=
  match w with
  | .at _ true =>
    (match p with
      | .access a =>
        (match a.op with
          | .store | .storeFull =>
          ((a.sel.map (a.va + ·)).filter fun va => va % max 1 a.elem == 0).find? fun va => !x.holdsToken va
          | _ => none)
      | .atomic r => if x.holdsToken r.va then none else some r.va)
  | _ => none

/-- The precise trap that routed parts raise: ADDR before TOKEN, the first part that meets it (R113, R318). -/
def routeTrap (x : Slot) (rs : List (Part × Where × List Eff)) : Option (Nat × Nat) :=
  match rs.find? fun r => match r.2.1 with | .addr => true | _ => false with
  | some r => some (cADDR, r.1.first)
  | none => (rs.findSome? fun r => lacksToken x r.1 r.2.1).map fun va => (cTOKEN, va)

/-! ### Page faults (R118 to R122) -/

/-- A fault that has not been answered: one that was woken while its slot was saved has (R130). -/
def Held.faults (h : Held) : Bool := h.cause != 0 && !h.woken

/-- The pages of the faults a slot has outstanding, each counted once. -/
def faultPages (hs : List Held) : List Nat := ((hs.filter (·.faults)).map fun h => pageOf h.va).eraseDups

/-- The mailbox agrees with the accesses held: their number of faults and the first one's record (R118). -/
def Slot.count (x : Slot) : Slot :=
  { x with
    mailbox := (faultPages x.held).length
    record := if (faultPages x.held) = [] then none
      else match x.record with
        | some r => some r
        | none => (x.held.find? (·.faults)).map fun h => (pageOf h.va, h.cause) }

/-- A refusal is remembered: its lowest address, and the latest of its instructions, which decides TRAPPC and LATE (R122;
log entry 116). A thread that ends takes no trap. -/
def Slot.refuse (x : Slot) (h : Held) : Slot :=
  if x.halting.isSome then x else
  { x with
    tokenless := false
    refusal := match x.refusal with
      | some (a, q, pc, w) => if q < h.seq then some (min a h.va, h.seq, h.pc, h.words) else some (min a h.va, q, pc, w)
      | none => some (h.va, h.seq, h.pc, h.words) }

/-- An access that finds no token when it is tried again raises TOKEN as a refused one raises ADDR (R318, log entry 45); ADDR
goes first. -/
def Slot.denyToken (x : Slot) (h : Held) : Slot :=
  { x.refuse h with tokenless := x.refusal.isNone || x.tokenless }

/-- The cause of the trap that the refusals of a slot raise. -/
def Slot.refusalCause (x : Slot) : Nat := if x.tokenless then cTOKEN else cADDR

/-- The refused instruction that no other has followed, where some member of a gang has one: its address, its words, and
whether it has issued. -/
def State.refusedHere (s : State) (ts : List Tid) : Option (Word × Nat × Bool) :=
  ts.findSome? fun t =>
    let x := s.slotOf t
    match x.refusal with
    | some (_, q, pc, w) => if q + 1 < x.seq then none else some (pc, w, decide (q < x.seq))
    | none => none

/-- The trap of a refusal, taken by each member of a gang: one with no refusal of its own records TRAPVAL zero (R111, R122)
and the cause of the lowest-ranked member that has one. -/
def settleEach (here : Option (Word × Nat × Bool)) (cause : Nat) : List Tid → State → List Eff
  | [], _ => []
  | t :: ts, s =>
    let x := s.slotOf t
    let (val, late, copied, issued) : Nat × Bool × Bool × Bool := match x.refusal with
      | some (a, q, _, _) => (a, decide (q + 1 < x.seq), false, decide (q < x.seq))
      | none => (0, here.isNone, true, match here with | some (_, _, b) => b | none => true)
    let (pc, words) : Word × Nat := match here with
      | some (pc, w, _) => (pc, w)
      | none => (x.pc, 0)
    let e : Eff := .slot t fun x => { x with refusal := none, tokenless := false, pc := pc }
    let own := if x.refusal.isSome then x.refusalCause else cause
    let es := e :: trapAt (e.apply s) t own (BitVec.ofNat 64 val) words late copied issued
    es ++ settleEach here cause ts (applyAll es s)

/-- Once its mailbox is empty, a slot with a refusal takes its trap (R122), and a gang once the mailboxes of all its
members are (R111); a saved slot on its resume (R130). A thread that ends is idle once nothing of it is held. -/
def State.settle (s : State) (t : Tid) : List Eff :=
  let ts := s.members t
  finishHalt s t ++
    if (ts.all fun u => (s.slotOf u).refusal.isNone) ||
        ts.any fun u => (s.slotOf u).mailbox != 0 || (s.coreAt u.vf u.core).halted then []
    else
      let cause := match ts.find? fun u => (s.slotOf u).refusal.isSome with
        | some u => (s.slotOf u).refusalCause
        | none => cADDR
      settleEach (s.refusedHere ts) cause ts s

/-- A missing tenant frame: the Holm posts one record for each frame while accesses wait, and the 10 ms count from its posting,
also where the ring has room for it only later (R49; DESIGN CHOICE, log entry 125). -/
def State.frameWait (s : State) (vf n : Nat) : List Eff :=
  match s.vdAt vf with
  | some v =>
    if v.frameWaits.any (·.1 == n) then []
    else
      [.vd vf fun v => { v with frameWaits := v.frameWaits ++ [(n, s.cycle)] },
       postControl (completion 0 stFAULTED 0 (s.handle v.serial) (BitVec.ofNat 64 n))]
  | none => []

/-- Faults that a slot meets: each is held and, for each page not yet outstanding, a message leaves for the fault
slice; the pager's own are refused at once (R118, R120). A missing frame is held without a fault. -/
def State.hold (s : State) (t : Tid) (hs : List Held) : List Eff :=
  let x := s.slotOf t
  let pager := s.isPager t
  let faults := hs.filter (·.cause != 0)
  let frames := hs.filter (·.cause == 0)
  let keep := if pager then frames else hs
  let old := faultPages x.held
  let new := (faultPages faults).filter fun p => !old.contains p
  (frames.map (·.frame)).eraseDups.flatMap (s.frameWait t.vf) ++
    [.slot t fun x =>
      let x := { x with held := x.held ++ keep }.count
      if pager then faults.foldl (fun x h => x.refuse h) x else x] ++
    (if pager then [] else new.filterMap fun p =>
      (faults.find? fun h => pageOf h.va == p).map fun h =>
        .send t h.seq 0 (.fault p h.va h.cause h.kind false 0 0 none))

/-! ### Bounded sums read or written by ordinary accesses (R147, R179) -/

/-- A line whose sums have been sent and whose grant is kept. -/
def SumLine.sent (l : SumLine) : SumLine :=
  { l with p := List.replicate 32 0, t := List.replicate 32 0 }

/-- The line holds an element that one of some addresses lies in. -/
def SumLine.meets (l : SumLine) (vas : List Nat) : Bool := vas.any fun va => decide (l.va ≤ va ∧ va < l.va + 128)

/-- The core's withheld sums of the lines at some virtual addresses leave for their homes, each line's once (R179). -/
def State.sendSums (s : State) (t : Tid) (vas : List Nat) : List Eff :=
  let ls := (s.coreAt t.vf t.core).sums.filter fun l => l.meets vas && l.lanes != []
  ls.map (fun l => .send (s.sumTid t) 0 0 (.partialSum l.handle l.line l.lanes l.float false)) ++
    (if ls = [] then [] else
      [.core t.vf t.core fun c => { c with sums := c.sums.map fun l => if l.meets vas then l.sent else l }])

/-- The addresses at which routed parts read elements of bounded sums. -/
def sumReads (rs : List (Part × Where × List Eff)) : List Nat :=
  rs.filterMap fun r =>
    match r.2.1, r.1.kind with
    | .at (.dram _ _ _ true _) _, .read => some r.1.first
    | _, _ => none

/-! ### The instruction issues -/

/-- A part leaves for its place; toward another module it may wait at the hub (R17). -/
def State.outPacket (s : State) (p : Part) (q : Place) : Packet :=
  match q with
  | .remote dev _ => if s.routeReady dev then p.packet q else .route dev p q
  | _ => p.packet q

/-- The access that a routed part leaves held: it met a page fault, or a tenant frame is missing. -/
def heldPart (x : Slot) (words : Nat) (r : Part × Where × List Eff) : Option Held :=
  let h : Held :=
    { seq := x.seq, va := r.1.first, cause := 0, frame := 0, kind := r.1.kind, pc := x.pc, words := words,
      part := some r.1, flight := none, woken := false }
  match r.2.1 with
  | .fault c => some { h with cause := c }
  | .frame n => some { h with frame := n }
  | _ => none

/-- A routed part that leads to a place leaves for it; one whose walk a narrow holds waits in its core (R12). -/
def State.sendRouted (s : State) (t : Tid) (seq : Nat) (r : Part × Where × List Eff) : List Eff :=
  match r.2.1 with
  | .at q _ => [.send t seq 0 (s.outPacket r.1 q)]
  | .narrow => [.send t seq 0 (.walk r.1)]
  | _ => []

/-- The slot takes an operation of so many parts as outstanding, or, without one, moves on. -/
def Slot.takeOn (x : Slot) (words : Nat) (o : Option Op) (left : Nat) (refused : Bool) : Slot :=
  match o with
  | some o => x.start { o with left := left, dropped := o.dropped || refused }
  | none => x.advance (x.after words)

/-- The reply of an operation that has no part to be performed elsewhere. -/
def replyNow (t : Tid) (seq : Nat) (o : Option Op) (left : Nat) : List Eff :=
  match o with
  | some o => if left = 0 then [.send t seq (if o.scalar then 0 else 12) (if o.scalar then .sreply else .vreply)] else []
  | none => []

/-- An instruction whose parts have been routed without a trap: with an operation it becomes outstanding, without one
the slot moves on at once. -/
def State.commit (s : State) (t : Tid) (words : Nat) (o : Option Op) (rs : List (Part × Where × List Eff)) : List Eff :=
  let x := s.slotOf t
  let held := rs.filterMap (heldPart x words)
  let refused := if s.isPager t then (held.filter (·.cause != 0)).length else 0
  let left := rs.length - refused
  let es : List Eff :=
    rs.flatMap (·.2.2) ++ [.slot t (·.takeOn words o left (decide (0 < refused)))] ++
      (if held = [] then [] else s.hold t held) ++ s.sendSums t (sumReads rs) ++
      rs.flatMap (s.sendRouted t x.seq) ++ replyNow t x.seq o left
  if refused = 0 then es else es ++ (applyAll es s).settle t

/-- The common course of a memory instruction of `words` words. -/
def State.access (s : State) (t : Tid) (words : Nat) (o : Option Op) (ps : List Part) : List Eff :=
  let x := s.slotOf t
  let rs := s.routeAll t x.priv ps
  match routeTrap x rs with
  | some (cause, va) => trap s t cause (BitVec.ofNat 64 va) words
  | none => s.commit t words o rs

end Sys2Proof.Machine
end

