-- ==== Sys2Proof/Machine/Block.lean ====
section
/-! DEFINITION. Block formats: their values, their quantisation and the places of their side bytes (R218 to R224). -/

namespace Sys2Proof.Machine

/-- The QN4 codebook in 128ths (Table 11.7). -/
def qnTable (c : Nat) : Int :=
  match c with
  | 0 => -128 | 1 => -89 | 2 => -67 | 3 => -51 | 4 => -37 | 5 => -24 | 6 => -12 | 7 => 0
  | 8 => 10 | 9 => 21 | 10 => 32 | 11 => 44 | 12 => 58 | 13 => 75 | 14 => 96 | _ => 128

/-- A dyadic x / 2^k × 2^e as an exact value. -/
def dyadic (x : Int) (e : Int) : FVal := if x = 0 then .zero false else .num (decide (x < 0)) x.natAbs e false

/-- RNE_f32 of an exact value. -/
def rneF32 (v : FVal) : Nat := (roundF (ffmt 8) 0 false v).1

/-- The value of an element of a block format (R219), e the block's scale byte and s the superscale; with the flags of
the two roundings that the value of a QN4 element holds. -/
def blockValue (t x e s : Nat) : FVal × Flags :=
  match t with
  | 11 => (if e = 255 then .nan false else dyadic (toSigned 8 x) ((e : Int) - 127 - 6), 0)
  | 12 =>
    (if e = 255 then .nan false
     else match unpackF (ffmt 9) x with
      | .nan _ => .nan false
      | .num n m k st => .num n m (k + e - 127) st
      | v => v, 0)
  | _ =>
    let (qs, fl) := roundF (ffmt 8) 0 false (mulV (dyadic e 0) (unpackF (ffmt 8) s))
    let (v, fl') := roundF (ffmt 8) 0 false (mulV (unpackF (ffmt 8) qs) (dyadic (qnTable x) (-7)))
    (unpackF (ffmt 8) v, fl ||| fl')

/-- Dequantisation to F32 (R219), with the flags VDQ keeps (R311): a rounding inside the value counts as one. -/
def dequant (t x e s : Nat) : Nat × Flags :=
  let (v, fl) := blockValue t x e s
  let (r, fl') := roundF (ffmt 8) 0 false v
  (r, fl ||| fl')

/-- The value of an element of a block format. -/
def blockVal (t x e s : Nat) : FVal := (blockValue t x e s).1

/-- The magnitude bits of an F32 value. -/
def absF32 (x : Nat) : Nat := x % 2 ^ 31

/-- A NaN or an infinity of F32. -/
def notFinite (x : Nat) : Bool := decide (0x7F800000 ≤ absF32 x)

/-- The largest magnitude of some F32 values, as magnitude bits (their order is that of the numbers). -/
def amax (vs : List Nat) : Nat := vs.foldl (fun m v => max m (absF32 v)) 0

/-- floor(log2 v) of non-zero finite F32 magnitude bits. -/
def floorLog2 (v : Nat) : Int :=
  match unpackF (ffmt 8) v with
  | .num _ m e _ => e + Nat.log2 m
  | _ => 0

/-- Quantisation of a block of 32 F32 values to MXI8 (R220) or MXE4 (R221): the codes, the scale and the flags. -/
def mxQuant (t : Nat) (vs : List Nat) : List Nat × Nat × Flags :=
  if vs.any notFinite then (vs.map fun _ => 0, 255, 0)
  else if amax vs = 0 then (vs.map fun _ => 0, 0, 0)
  else
    let l := floorLog2 (amax vs)
    let e : Nat := if t = 11 then (l + 127).toNat else min 254 (l - 8 + 127).toNat
    let one (v : Nat) : Nat × Flags :=
      match unpackF (ffmt 8) v with
      | .num n m k _ =>
        let k' := k - ((e : Int) - 127)
        if t = 11 then
          let (r, inexact) := if k' + 6 < -80 then (0, true) else roundTo 0 n m (k' + 6) false 0
          let c := min r 127
          (ofSigned 8 (if n then -(c : Int) else c), flagIf inexact flNX ||| flagIf (c != r) flSAT)
        else
          let (r, fl) := roundF (ffmt 9) 0 true (.num n m k' false)
          (r, fl &&& (flNX ||| flSAT))
      | .zero n => (if t = 12 ∧ n then 0x80 else 0, 0)
      | _ => (0, 0)
    let rs := vs.map one
    (rs.map (·.1), e, orFlags (rs.map (·.2)))

/-- The order of |a/x − t/128| for two table entries: the code nearest to v / (q8 × S), the even code on a tie (R223).
The quotient is num / den exactly, with den positive. -/
def nearestCode (num : Int) (den : Nat) : Nat :=
  let dist (c : Nat) : Nat := (num * 128 - qnTable c * den).natAbs
  (List.range 16).foldl (fun best c =>
    if dist c < dist best ∨ (dist c = dist best ∧ c % 2 = 0 ∧ best % 2 = 1) then c else best) 0

/-- Codes and q8 of a block of F32 values under a superscale S (R223, R310). -/
def qnBlock (s : Nat) (vs : List Nat) : List Nat × Nat :=
  match unpackF (ffmt 8) s with
  | .num false ms es _ =>
    if vs.any notFinite then (vs.map fun _ => 7, 0)
    else
      match unpackF (ffmt 8) (amax vs) with
      | .num _ ma ea _ =>
        -- ceil(amax / S)
        let q := min ea es
        let a := ma * 2 ^ (ea - q).toNat
        let b := ms * 2 ^ (es - q).toNat
        let q8 := min 255 ((a + b - 1) / b)
        let code (v : Nat) : Nat :=
          match unpackF (ffmt 8) v with
          | .num n m e _ =>
            let q := min e es
            let x := m * 2 ^ (e - q).toNat
            let d := q8 * ms * 2 ^ (es - q).toNat
            nearestCode (if n then -(x : Int) else x) d
          | _ => nearestCode 0 1
        (vs.map code, q8)
      | _ => (vs.map fun _ => 7, 0)
  | _ => (vs.map fun _ => 7, 0)

/-- The superscale of the blocks of a group (R223): RNE_f32 of the largest amax over 255, or NaN. -/
def superscale (vs : List Nat) : Nat :=
  if vs.any notFinite then 0x7FC00000
  else rneF32 (divV 23 (unpackF (ffmt 8) (amax vs)) (dyadic 255 0)).1

/-- Side offset of the scale byte of data offset o (R218). -/
def sideOffset (t o : Nat) : Nat :=
  if t = 13 then o / 8192 * 260 + 4 + o % 8192 / 32 else o / 32

/-- Side offset of the superscale of the group of data offset o (R218). -/
def superOffset (o : Nat) : Nat := o / 8192 * 260

/-- Elements per block: 32 for the MX formats, 64 for QN4 (R218). -/
def blockSize (t : Nat) : Nat := if t = 13 then 64 else 32

/-- Smoothing on the load half-chain (R224): RNE_f32(v × sm), sm a BF16 factor. -/
def smoothLoad (v : FVal) (sm : Nat) : FVal :=
  unpackF (ffmt 8) (rneF32 (mulV v (unpackF (ffmt 7) sm)))

/-- Smoothing on the store half-chain (R224): RNE_bf16(y × RNE_f32(1 / sm)). -/
def smoothStore (y : FVal) (sm : Nat) : FVal :=
  let r := rneF32 (divV 23 (.num false 1 0 false) (unpackF (ffmt 7) sm)).1
  unpackF (ffmt 7) (roundF (ffmt 7) 0 false (mulV y (unpackF (ffmt 8) r))).1

end Sys2Proof.Machine
end

