-- ==== Sys2Proof/Decode.lean ====
section
/-! DEFINITION. The decoder of instruction words (R251 to R261), total on any five words, and after it the encoder
written from the same tables. -/

namespace Sys2Proof

/-! ### The fields of the short formats (Table 14.2) -/

def fD (w : Window) : SReg := w.extractLsb' 10 5
def fA (w : Window) : SReg := w.extractLsb' 15 5
def fB (w : Window) : SReg := w.extractLsb' 20 5
def fFn (w : Window) : BitVec 7 := w.extractLsb' 25 7
def fImm (w : Window) : BitVec 12 := w.extractLsb' 20 12

/-- An SR instruction of three registers, fn7 zero. -/
def sr (w : Window) (mk : SReg → SReg → SReg → Instr) : Except Bad Instr :=
  if fFn w = 0#7 then .ok (mk (fD w) (fA w) (fB w)) else .error .reserved

/-- An SR instruction of a destination and one source, b and fn7 zero. -/
def sr2 (w : Window) (mk : SReg → SReg → Instr) : Except Bad Instr :=
  if fFn w = 0#7 ∧ fB w = 0#5 then .ok (mk (fD w) (fA w)) else .error .reserved

/-- An SR instruction with every field zero. -/
def sr0 (w : Window) (i : Instr) : Except Bad Instr :=
  if w.extractLsb' 10 22 = 0#22 then .ok i else .error .reserved

/-- An SI instruction with a zero and a timeout exponent in imm12[4:0] (R294, R296). -/
def si5 (w : Window) (mk : SReg → BitVec 5 → Instr) : Except Bad Instr :=
  if fA w = 0#5 ∧ w.extractLsb' 25 7 = 0#7 then .ok (mk (fD w) (w.extractLsb' 20 5)) else .error .reserved

/-- ACQ's immediate (Table 17.3). -/
def acq (w : Window) : Except Bad Instr :=
  if w.extractLsb' 29 3 = 0#3 then
    if w.extractLsb' 23 1 = 1#1 then .ok (.acqWrite (fD w) (fA w) (w.extractLsb' 20 3) (w.extractLsb' 24 5))
    else if w.extractLsb' 24 5 = 0#5 then .ok (.acqRead (fD w) (fA w) (w.extractLsb' 20 3))
    else .error .reserved
  else .error .reserved

/-- REL's immediate (Table 17.3). -/
def rel (w : Window) : Except Bad Instr :=
  if w.extractLsb' 24 8 = 0#8 then
    if w.extractLsb' 23 1 = 1#1 then .ok (.relYield (fD w) (fA w) (w.extractLsb' 20 3))
    else .ok (.rel (fD w) (fA w) (w.extractLsb' 20 3))
  else .error .reserved

/-! ### The words of the short formats (Table 14.2) -/

def srWord (fn : BitVec 7) (b a d : SReg) (op : BitVec 8) : BitVec 32 := fn ++ b ++ a ++ d ++ op ++ 0#2
def siWord (imm : BitVec 12) (a d : SReg) (op : BitVec 8) : BitVec 32 := imm ++ a ++ d ++ op ++ 0#2
def short (w : BitVec 32) : Window := 0#128 ++ w

/-! ### The long formats (Tables 14.4 to 14.6) -/

/-- The fields of an LV instruction. -/
def lvFields (w : Window) : LV where
  pd := w.extractLsb' 10 3
  ta := w.extractLsb' 13 3
  tc := w.extractLsb' 16 7
  hint := w.extractLsb' 23 3
  fmt := w.extractLsb' 26 5
  sat := w.extractLsb' 31 1
  d := w.extractLsb' 32 6
  a := w.extractLsb' 38 6
  b := w.extractLsb' 44 6
  c := w.extractLsb' 50 6
  e := w.extractLsb' 56 6
  pa := w.extractLsb' 64 3
  paInv := w.extractLsb' 67 1
  pb := w.extractLsb' 68 3
  pbInv := w.extractLsb' 71 1
  rm := w.extractLsb' 72 3
  fn := w.extractLsb' 75 21

/-- The fields of an LM instruction; its literal is words 3 and 4, low word first, when LEN is 11. -/
def lmFields (w : Window) : LM where
  pd := w.extractLsb' 10 3
  ta := w.extractLsb' 13 3
  tc := w.extractLsb' 16 7
  hint := w.extractLsb' 23 3
  fmt := w.extractLsb' 26 5
  sat := w.extractLsb' 31 1
  sa := w.extractLsb' 32 5
  sb := w.extractLsb' 37 5
  sc := w.extractLsb' 42 5
  v := w.extractLsb' 47 6
  pg := w.extractLsb' 53 3
  pgInv := w.extractLsb' 56 1
  mode := w.extractLsb' 57 2
  wq := w.extractLsb' 64 8
  wt := w.extractLsb' 72 6
  gq := w.extractLsb' 78 8
  gv := w.extractLsb' 86 4
  fn := w.extractLsb' 90 6
  lit := if w.extractLsb' 0 2 = 3#2 then some (w.extractLsb' 96 64) else none

/-- The words of an LV instruction. -/
def lvWord (op : BitVec 8) (f : LV) : Window :=
  0#64 ++ (f.fn ++ f.rm ++ f.pbInv ++ f.pb ++ f.paInv ++ f.pa ++ (0#2 ++ f.e ++ f.c ++ f.b ++ f.a ++ f.d) ++
    (f.sat ++ f.fmt ++ f.hint ++ f.tc ++ f.ta ++ f.pd ++ op ++ 2#2))

/-- The words of an LM instruction. -/
def lmWord (op : BitVec 8) (f : LM) : Window :=
  f.lit.getD 0#64 ++ (f.fn ++ f.gv ++ f.gq ++ f.wt ++ f.wq ++
    (0#5 ++ f.mode ++ f.pgInv ++ f.pg ++ f.v ++ f.sc ++ f.sb ++ f.sa) ++
    (f.sat ++ f.fmt ++ f.hint ++ f.tc ++ f.ta ++ f.pd ++ op ++ (if f.lit.isSome then 3#2 else 2#2)))

/-- Table 14.7: the instruction of a short opcode, its zero fields checked (R258). -/
def parseShort (op : BitVec 8) (w : Window) : Except Bad Instr :=
  match op.toNat with
  | 0x01 => sr w .add
  | 0x02 => sr w .sub
  | 0x03 => sr w .mul
  | 0x04 => sr w .mulh
  | 0x05 => sr w .mulhu
  | 0x06 => sr w .div
  | 0x07 => sr w .divu
  | 0x08 => sr w .rem
  | 0x09 => sr w .remu
  | 0x0a => sr w .and
  | 0x0b => sr w .or
  | 0x0c => sr w .xor
  | 0x0d => sr w .shl
  | 0x0e => sr w .shr
  | 0x0f => sr w .sra
  | 0x10 => sr w .min
  | 0x11 => sr w .max
  | 0x12 => sr w .minu
  | 0x13 => sr w .maxu
  | 0x14 => .ok (.cmp (fD w) (fA w) (fB w) (fFn w))
  | 0x15 => if w.extractLsb' 30 2 = 0#2 then .ok (.sel (fD w) (fA w) (fB w) (w.extractLsb' 25 5)) else .error .reserved
  | 0x16 => sr2 w .clz
  | 0x17 => sr2 w .ctz
  | 0x18 => sr2 w .popc
  | 0x19 => .ok (.bfx (fD w) (fA w) (w.extractLsb' 20 6) (w.extractLsb' 26 6))
  | 0x1a => .ok (.bfi (fD w) (fA w) (w.extractLsb' 20 6) (w.extractLsb' 26 6))
  | 0x1b => .ok (.waddr (fD w) (fA w) (fB w) (fFn w))
  | 0x20 => .ok (.addi (fD w) (fA w) (fImm w))
  | 0x21 => .ok (.andi (fD w) (fA w) (fImm w))
  | 0x22 => .ok (.ori (fD w) (fA w) (fImm w))
  | 0x23 => .ok (.xori (fD w) (fA w) (fImm w))
  | 0x24 => .ok (.shli (fD w) (fA w) (fImm w))
  | 0x25 => .ok (.shri (fD w) (fA w) (fImm w))
  | 0x26 => .ok (.srai (fD w) (fA w) (fImm w))
  | 0x27 => .ok (.ldi (fD w) (w.extractLsb' 15 17))
  | 0x30 => sr w .pand
  | 0x31 => sr w .por
  | 0x32 => sr w .pxor
  | 0x33 => sr w .pandn
  | 0x34 => .ok (.plen (fD w) (fA w) (fImm w))
  | 0x35 => if fB w = 0#5 then .ok (.pcnt (fD w) (fA w) (fFn w)) else .error .reserved
  | 0x36 => sr2 w .pany
  | 0x37 => if fB w = 0#5 then .ok (.pfirst (fD w) (fA w) (fFn w)) else .error .reserved
  | 0x38 => if fA w = 0#5 then .ok (.mfcsr (fD w) (fImm w)) else .error .reserved
  | 0x39 => .ok (.mtcsr (fD w) (fA w) (fImm w))
  | 0x40 => .ok (.br (fD w) (w.extractLsb' 15 3) (w.extractLsb' 18 14))
  | 0x41 => .ok (.jmp (w.extractLsb' 10 22))
  | 0x42 => .ok (.call (w.extractLsb' 10 22))
  | 0x43 => if fD w = 0#5 ∧ fB w = 0#5 ∧ fFn w = 0#7 then .ok (.jr (fA w)) else .error .reserved
  | 0x44 => sr2 w .callr
  | 0x45 => if fD w = 0#5 ∧ fA w = 0#5 then .ok (.trap (fImm w)) else .error .reserved
  | 0x46 => sr0 w .eret
  | 0x47 => sr0 w .halt
  | 0x48 => sr0 w .yield
  | 0x49 => sr0 w .nop
  | 0x4a => si5 w .sleep
  | 0x4b => if fD w = 0#5 ∧ fA w = 0#5 then .ok (.brk (fImm w)) else .error .reserved
  | 0x4c => si5 w .mclaim
  | 0x4d => sr0 w .mfree
  | 0x4e => sr2 w .gsub
  | 0x4f => .ok (.evsig (fD w) (fA w) (fImm w))
  | 0x50 => sr w .fwake
  | 0x60 => .ok (.ldb (fD w) (fA w) (fImm w))
  | 0x61 => .ok (.ldbu (fD w) (fA w) (fImm w))
  | 0x62 => .ok (.ldh (fD w) (fA w) (fImm w))
  | 0x63 => .ok (.ldhu (fD w) (fA w) (fImm w))
  | 0x64 => .ok (.ldw (fD w) (fA w) (fImm w))
  | 0x65 => .ok (.ldwu (fD w) (fA w) (fImm w))
  | 0x66 => .ok (.ldd (fD w) (fA w) (fImm w))
  | 0x67 => .ok (.stb (fD w) (fA w) (fImm w))
  | 0x68 => .ok (.sth (fD w) (fA w) (fImm w))
  | 0x69 => .ok (.stw (fD w) (fA w) (fImm w))
  | 0x6a => .ok (.std (fD w) (fA w) (fImm w))
  | 0x6b =>
    if w.extractLsb' 31 1 = 0#1 then .ok (.ldf (fD w) (fA w) (fB w) (w.extractLsb' 25 5) (w.extractLsb' 30 1))
    else .error .reserved
  | 0x6c => .ok (.stf (fD w) (fA w) (fImm w))
  | 0x6d => if fD w = 0#5 ∧ fFn w = 0#7 then .ok (.feclr (fA w) (fB w)) else .error .reserved
  | 0x6e => .ok (.amo (fD w) (fA w) (fB w) (w.extractLsb' 25 4) (w.extractLsb' 29 3))
  | 0x6f => if w.extractLsb' 28 4 = 0#4 then .ok (.cas (fD w) (fA w) (fB w) (w.extractLsb' 25 3)) else .error .reserved
  | 0x70 => acq w
  | 0x71 => rel w
  | 0x72 =>
    if fD w = 0#5 ∧ fA w = 0#5 ∧ w.extractLsb' 23 9 = 0#9 then .ok (.fence (w.extractLsb' 20 3))
    else .error .reserved
  | 0x73 => .ok (.pref (fD w) (fA w) (fImm w))
  | 0x74 => if fD w = 0#5 ∧ fFn w = 0#7 then .ok (.flush (fA w) (fB w)) else .error .reserved
  | 0x75 => if fD w = 0#5 ∧ fFn w = 0#7 then .ok (.inval (fA w) (fB w)) else .error .reserved
  | n => .error (if 0xf8 ≤ n then .permanent else .unassigned)

/-- Table 14.8: the constructor of an LV opcode. -/
def lvOp (n : Nat) : Option (LV → Instr) :=
  match n with
  | 0x01 => some .vadd
  | 0x02 => some .vsub
  | 0x03 => some .vmul
  | 0x04 => some .vfma
  | 0x05 => some .vfms
  | 0x06 => some .vmin
  | 0x07 => some .vmax
  | 0x08 => some .vabs
  | 0x09 => some .vneg
  | 0x0a => some .vand
  | 0x0b => some .vor
  | 0x0c => some .vxor
  | 0x0d => some .vandn
  | 0x0e => some .vshl
  | 0x0f => some .vshr
  | 0x10 => some .vsra
  | 0x11 => some .vmulh
  | 0x12 => some .vdiv
  | 0x13 => some .vsqrt
  | 0x14 => some .vrcp
  | 0x15 => some .vrsq
  | 0x16 => some .vexp2
  | 0x17 => some .vlog2
  | 0x18 => some .vsint
  | 0x19 => some .vcost
  | 0x1a => some .vtanh
  | 0x1b => some .vcmp
  | 0x1c => some .vsel
  | 0x1d => some .vmov
  | 0x1e => some .vbcast
  | 0x1f => some .vextr
  | 0x20 => some .vins
  | 0x21 => some .vcvt
  | 0x22 => some .vqnt
  | 0x23 => some .vdq
  | 0x24 => some .vretag
  | 0x25 => some .vperm
  | 0x26 => some .vrotl
  | 0x27 => some .vzip
  | 0x28 => some .vunzip
  | 0x29 => some .vredadd
  | 0x2a => some .vredmax
  | 0x2b => some .vredmin
  | 0x2c => some .vscan
  | 0x2d => some .vnzs
  | 0x2e => some .vdot4
  | 0x2f => some .vclz
  | 0x30 => some .vpopc
  | 0x31 => some .vidx
  | _ => none

/-- Table 14.8: the constructor of an LM opcode; BAR's form and CPY's codec lie in fn6 (Tables 17.2 and 21.2). -/
def lmOp (n : Nat) (fn : BitVec 6) : Option (LM → Instr) :=
  match n with
  | 0x60 => some .vld
  | 0x61 => some .vst
  | 0x62 => some .vlds
  | 0x63 => some .vsts
  | 0x64 => some .vgath
  | 0x65 => some .vscat
  | 0x66 => some .vldf
  | 0x67 => some .vstf
  | 0x68 => some .vamo
  | 0x70 => some .qwait
  | 0x71 => some .qsig
  | 0x73 => some .msend
  | 0x74 => some .mrecv
  | 0x80 => some .mprobe
  | 0x81 => some .mins
  | 0x82 => some .mset
  | 0x83 => some .mrem
  | 0x84 => some .mprobev
  | 0x85 => some .msetv
  | 0x86 => some .mstat
  | 0x87 => some .miter
  | 0x88 => some .wfeed
  | 0x89 => some .wread
  | 0x8a => some .wlen
  | 0x8b => some .badd
  | 0x8c => some .bload
  | 0x8d => some .bdrain
  | 0x90 => some .tld
  | 0x91 => some .tst
  | 0x92 => some .tzero
  | 0x93 => some .mma
  | 0x94 => some .mmas
  | 0x95 => some .mmar
  | 0x96 => some .adrain
  | 0x97 => some .ald
  | 0x98 => some .msync
  | 0xa1 => some .cpy2
  | 0xa2 => some .cgath
  | 0xa3 => some .cscat
  | 0xa4 => some .cdec
  | 0xa5 => some .cfill
  | 0xa6 => some .bxf
  | 0xa7 => some .cpoll
  | 0xa8 => some .cwait
  | 0xa9 => some .cwpos
  | 0xaa => some .ccancel
  | 0xab => some .cred
  | 0x72 =>
    match fn.toNat % 4 with
    | 0 => some .barArriveWait
    | 1 => some .barArrive
    | 2 => some .barWait
    | _ => none
  | 0xa0 =>
    match fn.toNat / 8 with
    | 1 => some .cpyBrdx
    | 2 => some .cpyBrdc
    | 3 => some .cpyMig
    | _ => some .cpy
  | _ => none

/-- The instruction of five words before the checks of Table 14.9, with LEN and the opcode read from word 0. -/
def parse (w : Window) : Except Bad Instr :=
  let len := w.extractLsb' 0 2
  let op := w.extractLsb' 2 8
  if len = 0#2 then
    if op = 0x28#8 then .error .length else parseShort op w
  else if len = 1#2 then
    if op = 0x28#8 then
      if w.extractLsb' 15 17 = 0#17 then .ok (.ldl (fD w) (w.extractLsb' 32 64)) else .error .reserved
    else .error .length
  else
    match lvOp op.toNat with
    | some mk =>
      if len ≠ 2#2 then .error .length
      else if w.extractLsb' 62 2 = 0#2 then .ok (mk (lvFields w)) else .error .reserved
    | none =>
      match lmOp op.toNat (w.extractLsb' 90 6) with
      | some mk => if w.extractLsb' 59 5 = 0#5 then .ok (mk (lmFields w)) else .error .reserved
      | none => .error (if 0xf8 ≤ op.toNat then .permanent else .unassigned)

/-- The instruction that five words beginning at a program counter hold, or the reason why they hold none (R261). -/
def decode (w : Window) : Except Bad Instr :=
  match parse w with
  | .error b => .error b
  | .ok i =>
    match check i with
    | none => .ok i
    | some b => .error b

/-- How many 32-bit words an instruction occupies, from word 0 (Table 14.1). -/
def wordCount (w0 : BitVec 32) : Nat :=
  match (w0.extractLsb' 0 2).toNat with
  | 0 => 1
  | 3 => 5
  | _ => 3

/-- The words of an instruction, written from Tables 14.1 to 14.8; none for a step that is no instruction. -/
def encode (i : Instr) : Option Window :=
  match i with
  | .add d a b => some (short (srWord 0#7 b a d 0x01#8))
  | .sub d a b => some (short (srWord 0#7 b a d 0x02#8))
  | .mul d a b => some (short (srWord 0#7 b a d 0x03#8))
  | .mulh d a b => some (short (srWord 0#7 b a d 0x04#8))
  | .mulhu d a b => some (short (srWord 0#7 b a d 0x05#8))
  | .div d a b => some (short (srWord 0#7 b a d 0x06#8))
  | .divu d a b => some (short (srWord 0#7 b a d 0x07#8))
  | .rem d a b => some (short (srWord 0#7 b a d 0x08#8))
  | .remu d a b => some (short (srWord 0#7 b a d 0x09#8))
  | .and d a b => some (short (srWord 0#7 b a d 0x0a#8))
  | .or d a b => some (short (srWord 0#7 b a d 0x0b#8))
  | .xor d a b => some (short (srWord 0#7 b a d 0x0c#8))
  | .shl d a b => some (short (srWord 0#7 b a d 0x0d#8))
  | .shr d a b => some (short (srWord 0#7 b a d 0x0e#8))
  | .sra d a b => some (short (srWord 0#7 b a d 0x0f#8))
  | .min d a b => some (short (srWord 0#7 b a d 0x10#8))
  | .max d a b => some (short (srWord 0#7 b a d 0x11#8))
  | .minu d a b => some (short (srWord 0#7 b a d 0x12#8))
  | .maxu d a b => some (short (srWord 0#7 b a d 0x13#8))
  | .cmp d a b cond => some (short (srWord cond b a d 0x14#8))
  | .sel d a b c => some (short (srWord (0#2 ++ c) b a d 0x15#8))
  | .clz d a => some (short (srWord 0#7 0#5 a d 0x16#8))
  | .ctz d a => some (short (srWord 0#7 0#5 a d 0x17#8))
  | .popc d a => some (short (srWord 0#7 0#5 a d 0x18#8))
  | .bfx d a pos len1 => some (short (siWord (len1 ++ pos) a d 0x19#8))
  | .bfi d a pos len1 => some (short (siWord (len1 ++ pos) a d 0x1a#8))
  | .waddr d a b mode => some (short (srWord mode b a d 0x1b#8))
  | .addi d a imm => some (short (siWord imm a d 0x20#8))
  | .andi d a imm => some (short (siWord imm a d 0x21#8))
  | .ori d a imm => some (short (siWord imm a d 0x22#8))
  | .xori d a imm => some (short (siWord imm a d 0x23#8))
  | .shli d a imm => some (short (siWord imm a d 0x24#8))
  | .shri d a imm => some (short (siWord imm a d 0x25#8))
  | .srai d a imm => some (short (siWord imm a d 0x26#8))
  | .ldi d imm => some (short (imm ++ d ++ 0x27#8 ++ 0#2))
  | .pand d a b => some (short (srWord 0#7 b a d 0x30#8))
  | .por d a b => some (short (srWord 0#7 b a d 0x31#8))
  | .pxor d a b => some (short (srWord 0#7 b a d 0x32#8))
  | .pandn d a b => some (short (srWord 0#7 b a d 0x33#8))
  | .plen d a width => some (short (siWord width a d 0x34#8))
  | .pcnt d a width => some (short (srWord width 0#5 a d 0x35#8))
  | .pany d a => some (short (srWord 0#7 0#5 a d 0x36#8))
  | .pfirst d a width => some (short (srWord width 0#5 a d 0x37#8))
  | .mfcsr d csr => some (short (siWord csr 0#5 d 0x38#8))
  | .mtcsr d a csr => some (short (siWord csr a d 0x39#8))
  | .br a cc off => some (short (off ++ cc ++ a ++ 0x40#8 ++ 0#2))
  | .jmp off => some (short (off ++ 0x41#8 ++ 0#2))
  | .call off => some (short (off ++ 0x42#8 ++ 0#2))
  | .jr a => some (short (srWord 0#7 0#5 a 0#5 0x43#8))
  | .callr d a => some (short (srWord 0#7 0#5 a d 0x44#8))
  | .trap code => some (short (siWord code 0#5 0#5 0x45#8))
  | .eret => some (short (srWord 0#7 0#5 0#5 0#5 0x46#8))
  | .halt => some (short (srWord 0#7 0#5 0#5 0#5 0x47#8))
  | .yield => some (short (srWord 0#7 0#5 0#5 0#5 0x48#8))
  | .nop => some (short (srWord 0#7 0#5 0#5 0#5 0x49#8))
  | .sleep d te => some (short (siWord (0#7 ++ te) 0#5 d 0x4a#8))
  | .brk code => some (short (siWord code 0#5 0#5 0x4b#8))
  | .mclaim d te => some (short (siWord (0#7 ++ te) 0#5 d 0x4c#8))
  | .mfree => some (short (srWord 0#7 0#5 0#5 0#5 0x4d#8))
  | .gsub d a => some (short (srWord 0#7 0#5 a d 0x4e#8))
  | .evsig d a code => some (short (siWord code a d 0x4f#8))
  | .fwake d a b => some (short (srWord 0#7 b a d 0x50#8))
  | .ldb d a imm => some (short (siWord imm a d 0x60#8))
  | .ldbu d a imm => some (short (siWord imm a d 0x61#8))
  | .ldh d a imm => some (short (siWord imm a d 0x62#8))
  | .ldhu d a imm => some (short (siWord imm a d 0x63#8))
  | .ldw d a imm => some (short (siWord imm a d 0x64#8))
  | .ldwu d a imm => some (short (siWord imm a d 0x65#8))
  | .ldd d a imm => some (short (siWord imm a d 0x66#8))
  | .stb d a imm => some (short (siWord imm a d 0x67#8))
  | .sth d a imm => some (short (siWord imm a d 0x68#8))
  | .stw d a imm => some (short (siWord imm a d 0x69#8))
  | .std d a imm => some (short (siWord imm a d 0x6a#8))
  | .ldf d a b te consume => some (short (srWord (0#1 ++ consume ++ te) b a d 0x6b#8))
  | .stf d a imm => some (short (siWord imm a d 0x6c#8))
  | .feclr a b => some (short (srWord 0#7 b a 0#5 0x6d#8))
  | .amo d a b op scope => some (short (srWord (scope ++ op) b a d 0x6e#8))
  | .cas d a b scope => some (short (srWord (0#4 ++ scope) b a d 0x6f#8))
  | .acqRead d a scope => some (short (siWord (0#9 ++ scope) a d 0x70#8))
  | .acqWrite d a scope te => some (short (siWord (0#3 ++ te ++ 1#1 ++ scope) a d 0x70#8))
  | .rel d a scope => some (short (siWord (0#9 ++ scope) a d 0x71#8))
  | .relYield d a scope => some (short (siWord (0#8 ++ 1#1 ++ scope) a d 0x71#8))
  | .fence scope => some (short (siWord (0#9 ++ scope) 0#5 0#5 0x72#8))
  | .pref kind a imm => some (short (siWord imm a kind 0x73#8))
  | .flush a b => some (short (srWord 0#7 b a 0#5 0x74#8))
  | .inval a b => some (short (srWord 0#7 b a 0#5 0x75#8))
  | .ldl d lit => some (0#64 ++ lit ++ (0#17 ++ d ++ 0x28#8 ++ 1#2))
  | .vadd f => some (lvWord 0x01#8 f)
  | .vsub f => some (lvWord 0x02#8 f)
  | .vmul f => some (lvWord 0x03#8 f)
  | .vfma f => some (lvWord 0x04#8 f)
  | .vfms f => some (lvWord 0x05#8 f)
  | .vmin f => some (lvWord 0x06#8 f)
  | .vmax f => some (lvWord 0x07#8 f)
  | .vabs f => some (lvWord 0x08#8 f)
  | .vneg f => some (lvWord 0x09#8 f)
  | .vand f => some (lvWord 0x0a#8 f)
  | .vor f => some (lvWord 0x0b#8 f)
  | .vxor f => some (lvWord 0x0c#8 f)
  | .vandn f => some (lvWord 0x0d#8 f)
  | .vshl f => some (lvWord 0x0e#8 f)
  | .vshr f => some (lvWord 0x0f#8 f)
  | .vsra f => some (lvWord 0x10#8 f)
  | .vmulh f => some (lvWord 0x11#8 f)
  | .vdiv f => some (lvWord 0x12#8 f)
  | .vsqrt f => some (lvWord 0x13#8 f)
  | .vrcp f => some (lvWord 0x14#8 f)
  | .vrsq f => some (lvWord 0x15#8 f)
  | .vexp2 f => some (lvWord 0x16#8 f)
  | .vlog2 f => some (lvWord 0x17#8 f)
  | .vsint f => some (lvWord 0x18#8 f)
  | .vcost f => some (lvWord 0x19#8 f)
  | .vtanh f => some (lvWord 0x1a#8 f)
  | .vcmp f => some (lvWord 0x1b#8 f)
  | .vsel f => some (lvWord 0x1c#8 f)
  | .vmov f => some (lvWord 0x1d#8 f)
  | .vbcast f => some (lvWord 0x1e#8 f)
  | .vextr f => some (lvWord 0x1f#8 f)
  | .vins f => some (lvWord 0x20#8 f)
  | .vcvt f => some (lvWord 0x21#8 f)
  | .vqnt f => some (lvWord 0x22#8 f)
  | .vdq f => some (lvWord 0x23#8 f)
  | .vretag f => some (lvWord 0x24#8 f)
  | .vperm f => some (lvWord 0x25#8 f)
  | .vrotl f => some (lvWord 0x26#8 f)
  | .vzip f => some (lvWord 0x27#8 f)
  | .vunzip f => some (lvWord 0x28#8 f)
  | .vredadd f => some (lvWord 0x29#8 f)
  | .vredmax f => some (lvWord 0x2a#8 f)
  | .vredmin f => some (lvWord 0x2b#8 f)
  | .vscan f => some (lvWord 0x2c#8 f)
  | .vnzs f => some (lvWord 0x2d#8 f)
  | .vdot4 f => some (lvWord 0x2e#8 f)
  | .vclz f => some (lvWord 0x2f#8 f)
  | .vpopc f => some (lvWord 0x30#8 f)
  | .vidx f => some (lvWord 0x31#8 f)
  | .vld f => some (lmWord 0x60#8 f)
  | .vst f => some (lmWord 0x61#8 f)
  | .vlds f => some (lmWord 0x62#8 f)
  | .vsts f => some (lmWord 0x63#8 f)
  | .vgath f => some (lmWord 0x64#8 f)
  | .vscat f => some (lmWord 0x65#8 f)
  | .vldf f => some (lmWord 0x66#8 f)
  | .vstf f => some (lmWord 0x67#8 f)
  | .vamo f => some (lmWord 0x68#8 f)
  | .qwait f => some (lmWord 0x70#8 f)
  | .qsig f => some (lmWord 0x71#8 f)
  | .barArriveWait f => some (lmWord 0x72#8 f)
  | .barArrive f => some (lmWord 0x72#8 f)
  | .barWait f => some (lmWord 0x72#8 f)
  | .msend f => some (lmWord 0x73#8 f)
  | .mrecv f => some (lmWord 0x74#8 f)
  | .mprobe f => some (lmWord 0x80#8 f)
  | .mins f => some (lmWord 0x81#8 f)
  | .mset f => some (lmWord 0x82#8 f)
  | .mrem f => some (lmWord 0x83#8 f)
  | .mprobev f => some (lmWord 0x84#8 f)
  | .msetv f => some (lmWord 0x85#8 f)
  | .mstat f => some (lmWord 0x86#8 f)
  | .miter f => some (lmWord 0x87#8 f)
  | .wfeed f => some (lmWord 0x88#8 f)
  | .wread f => some (lmWord 0x89#8 f)
  | .wlen f => some (lmWord 0x8a#8 f)
  | .badd f => some (lmWord 0x8b#8 f)
  | .bload f => some (lmWord 0x8c#8 f)
  | .bdrain f => some (lmWord 0x8d#8 f)
  | .tld f => some (lmWord 0x90#8 f)
  | .tst f => some (lmWord 0x91#8 f)
  | .tzero f => some (lmWord 0x92#8 f)
  | .mma f => some (lmWord 0x93#8 f)
  | .mmas f => some (lmWord 0x94#8 f)
  | .mmar f => some (lmWord 0x95#8 f)
  | .adrain f => some (lmWord 0x96#8 f)
  | .ald f => some (lmWord 0x97#8 f)
  | .msync f => some (lmWord 0x98#8 f)
  | .cpy f => some (lmWord 0xa0#8 f)
  | .cpyBrdx f => some (lmWord 0xa0#8 f)
  | .cpyBrdc f => some (lmWord 0xa0#8 f)
  | .cpyMig f => some (lmWord 0xa0#8 f)
  | .cpy2 f => some (lmWord 0xa1#8 f)
  | .cgath f => some (lmWord 0xa2#8 f)
  | .cscat f => some (lmWord 0xa3#8 f)
  | .cdec f => some (lmWord 0xa4#8 f)
  | .cfill f => some (lmWord 0xa5#8 f)
  | .bxf f => some (lmWord 0xa6#8 f)
  | .cpoll f => some (lmWord 0xa7#8 f)
  | .cwait f => some (lmWord 0xa8#8 f)
  | .cwpos f => some (lmWord 0xa9#8 f)
  | .ccancel f => some (lmWord 0xaa#8 f)
  | .cred f => some (lmWord 0xab#8 f)
  | _ => none

/-- The words an instruction of the LM format occupies. -/
def LM.words (f : LM) : Nat := if f.lit.isSome then 5 else 3

/-- The instruction that the decoder reads from the bits w of a row of the table of operations: every bit above them is
zero, and five words are the longest instruction. -/
def decodeTableWord (nbits w : Nat) : Option Instr :=
  match decode (BitVec.ofNat 160 (w % 2 ^ nbits)) with
  | .ok i => some i
  | .error _ => none

end Sys2Proof
end

