-- ==== Sys2Proof/Machine/Operands.lean ====
section
/-! DEFINITION. The operand forms: immediates, branch targets, conditions, shift amounts, bit fields, window addresses
and the addresses of the LM format (R252 to R256, R275 to R284, R321). -/

namespace Sys2Proof.Machine

/-- Word 0 of an instruction, as TRAPVAL holds it for ILLEGAL and PRIV (Table 6.1). -/
def wordZero (i : Instr) : Word := ((((encode i).getD 0).extractLsb' 0 32).setWidth 64 : Word)

/-- A sign-extended immediate (R252). -/
def immS {n : Nat} (imm : BitVec n) : Word := imm.signExtend 64

/-- The target of BR, JMP and CALL (R253). -/
def target {n : Nat} (pc : Word) (off : BitVec n) : Word := pc + 4#64 * off.signExtend 64

/-- The branch conditions of Table 14.3. -/
def brTaken (x : Slot) (a : SReg) (cc : BitVec 3) : Bool :=
  let v := (x.rs a).toInt
  let p := x.rp (a.setWidth 3)
  match cc.toNat with
  | 0 => v == 0
  | 1 => v != 0
  | 2 => decide (v < 0)
  | 3 => decide (0 ≤ v)
  | 4 => decide (0 < v)
  | 5 => decide (v ≤ 0)
  | 6 => p != 0
  | _ => p == 0

/-- The conditions of CMP (Table 15.4). -/
def cmpHolds (cond : Nat) (a b : Word) : Bool :=
  match cond with
  | 0 => a == b
  | 1 => a != b
  | 2 => decide (a.toInt < b.toInt)
  | 3 => decide (a.toInt ≤ b.toInt)
  | 4 => decide (b.toInt < a.toInt)
  | 5 => decide (b.toInt ≤ a.toInt)
  | 6 => decide (a.toNat < b.toNat)
  | 7 => decide (a.toNat ≤ b.toNat)
  | 8 => decide (b.toNat < a.toNat)
  | _ => decide (b.toNat ≤ a.toNat)

/-- A shift amount: bits [5:0] (R275). -/
def shiftAmount (b : Word) : Nat := b.toNat % 64

/-- Division of R276: it never traps. -/
def divSigned (a b : Word) : Word := if b = 0 then BitVec.allOnes 64 else BitVec.ofInt 64 (a.toInt.tdiv b.toInt)
def divUnsigned (a b : Word) : Word := if b = 0 then BitVec.allOnes 64 else BitVec.ofNat 64 (a.toNat / b.toNat)
def remSigned (a b : Word) : Word := if b = 0 then a else BitVec.ofInt 64 (a.toInt.tmod b.toInt)
def remUnsigned (a b : Word) : Word := if b = 0 then a else BitVec.ofNat 64 (a.toNat % b.toNat)

/-- BFX and BFI (R280). -/
def extractField (a : Word) (pos len1 : BitVec 6) : Word :=
  BitVec.ofNat 64 (a.toNat / 2 ^ pos.toNat % 2 ^ (len1.toNat + 1))

def insertField (d a : Word) (pos len1 : BitVec 6) : Word :=
  let m := (2 ^ (len1.toNat + 1) - 1) * 2 ^ pos.toNat % 2 ^ 64
  (d &&& ~~~(BitVec.ofNat 64 m)) ||| (BitVec.ofNat 64 (a.toNat * 2 ^ pos.toNat) &&& BitVec.ofNat 64 m)

/-- The window addresses of WADDR (R281). -/
def windowAddress (mode : Nat) (a b : Word) : Word :=
  match mode with
  | 0 => BitVec.ofNat 64 ((a + b).toNat % 2 ^ 56)
  | 1 => BitVec.ofNat 64 (0x00F2000000000000 + b.toNat % 2 ^ 20)
  | 2 => BitVec.ofNat 64 (0x00F0000000000000 + a.toNat % 1024 * 0x100000 + b.toNat % 2 ^ 20)
  | _ =>
    let c := a.toNat % 1024
    let o := b.toNat % 2 ^ 20
    BitVec.ofNat 64 (0x00F1000000000000 + c / 16 * 0x1000000 + o / 256 * 4096 + c % 16 * 256 + o % 256)

/-- The element width in bits of a width code of R283. -/
def widthCode (c : Nat) : Nat :=
  match c with
  | 0 => 8
  | 1 => 16
  | 2 => 32
  | 3 => 64
  | _ => 4

/-- The predicate of PLEN: bytes below ceil(n × w / 8) (R283). -/
def plenMask (code : Nat) (a : Word) : Mask :=
  let w := widthCode code
  let n := (clampInt 0 (2048 / w : Nat) a.toInt).toNat
  BitVec.ofNat 256 (2 ^ ((n * w + 7) / 8) - 1)

/-- The active elements of a predicate at a width of 8 bits or more (R284). -/
def activeElems (p : Mask) (w : Nat) : List Nat := (List.range (2048 / w)).filter fun i => active p w i

/-- The predicate register of a short instruction's field. -/
def predReg (r : SReg) : PReg := r.setWidth 3

/-! ### The LM format (R256, R321) -/

/-- The guard pg′ of an LM instruction (R256). -/
def lmGuard (x : Slot) (f : LM) : Mask := if f.pgInv = 1 then ~~~(x.rp f.pg) else x.rp f.pg

/-- The offset of R321: the literal, or s[sb], or 0 in mode 2. -/
def lmOffset (x : Slot) (f : LM) : Nat :=
  match f.lit with
  | some l => l.toNat
  | none => if f.mode = 2 then 0 else (x.rs f.sb).toNat

/-- The address a mode forms from a sum (R321); none when the sum passes its window's end (ADDR). -/
def eaForm (mode core : Nat) (sum : Int) : Option Nat :=
  let o := (sum % 2 ^ 64).toNat
  match mode with
  | 0 => some o
  | 1 => if o < 0x100000 then some (0x00F2000000000000 + o) else none
  | 2 => if o < 0x100000 then some (0x00F0000000000000 + core * 0x100000 + o) else none
  | _ => if o < 0x40000000 then some (0x00F1000000000000 + o) else none

/-- The address a mode would form, whether or not it passes the window's end: TRAPVAL of ADDR. -/
def eaRaw (mode core : Nat) (sum : Int) : Nat :=
  let o := (sum % 2 ^ 64).toNat
  match mode with
  | 0 => o
  | 1 => (0x00F2000000000000 + o) % 2 ^ 64
  | 2 => (0x00F0000000000000 + core * 0x100000 + o) % 2 ^ 64
  | _ => (0x00F1000000000000 + o) % 2 ^ 64

/-- s[sa] + off, before the displacement. -/
def lmSum (x : Slot) (f : LM) : Nat := (x.rs f.sa).toNat + lmOffset x f

/-- EA(δ) of R321. -/
def lmAddress (x : Slot) (f : LM) (delta : Int) : Option Nat :=
  eaForm f.mode.toNat ((x.rs f.sb).toNat % 1024) (lmSum x f + delta)

def lmAddressRaw (x : Slot) (f : LM) (delta : Int) : Nat :=
  eaRaw f.mode.toNat ((x.rs f.sb).toNat % 1024) (lmSum x f + delta)

end Sys2Proof.Machine
end

