-- ==== Sys2Proof/Machine/Vector.lean ====
section
/-! DEFINITION. The vector instructions (chapter 16): the common frame of guard, tags and merging, then each
instruction's result on the registers as they are visible when it issues (R100). -/

namespace Sys2Proof.Machine

/-- What a vector instruction writes: vector registers, scalar registers, predicates and flags. -/
structure Writes where
  v : List (VReg × VVal) := []
  s : List (SReg × Word) := []
  p : List (PReg × Mask) := []
  fl : Flags := 0

/-- A precise trap's cause and TRAPVAL, or the results. -/
abbrev VecRes := Except (Nat × Word) Writes

/-- TRAPVAL of a TAG trap: the register number and the tag read (Table 6.1). -/
def tagTrap (r : Nat) (tag : Tag) : Nat × Word := (cTAG, BitVec.ofNat 64 (r + 256 * tag.toNat))

/-- The first operand whose tag is not accepted, in operand order (R300). -/
def badTag (x : Slot) : List (VReg × (Nat → Bool)) → Option (Nat × Word)
  | [] => none
  | (r, ok) :: rest =>
    let t := (x.rv r).tag
    if ok t.toNat then badTag x rest else some (tagTrap r.toNat t)

/-- The effective lane mask: pa′ AND pb′ (R255). -/
def laneMask (x : Slot) (f : LV) : Mask :=
  let pa := x.rp f.pa
  let pb := x.rp f.pb
  (if f.paInv = 1 then ~~~pa else pa) &&& (if f.pbInv = 1 then ~~~pb else pb)

/-- The untyped operands of R300: RAW or any integer tag. -/
def untyped (t : Nat) : Bool := isLG t

/-- Element i of a register read at width w. -/
def vel (x : Slot) (r : VReg) (w i : Nat) : Nat := elem w (x.rv r).data.toNat i

def vdata (w : Nat) (l : List Nat) : VData := BitVec.ofNat 2048 (packElems w l)

/-- The common frame (R299): sources checked, each active element computed, the rest merged from v[d] as read at
issue, or, for an instruction written in full, taken from `fill`. -/
def vecOp (x : Slot) (f : LV) (srcs : List (VReg × (Nat → Bool))) (fill : Option (Nat → Nat))
    (op : Nat → Nat × Flags) : VecRes :=
  let t := f.fmt.toNat
  let w := tagWidth t
  let n := 2048 / w
  let m := laneMask x f
  match badTag x srcs with
  | some tr => .error tr
  | none =>
    let merge := fill.isNone && (List.range n).any fun i => !active m w i
    let old := x.rv f.d
    if merge && !(old.tag == f.fmt || old.tag == 0) then .error (tagTrap f.d.toNat old.tag)
    else
      let rs := (List.range n).map fun i =>
        if active m w i then op i
        else (match fill with | some g => g i | none => elem w old.data.toNat i, (0 : Flags))
      .ok { v := [(f.d, ⟨vdata w (rs.map (·.1)), 0, f.fmt⟩)], fl := orFlags (rs.map (·.2)) }

def typed (t : Nat) : Nat → Bool := fun u => u == t

/-! ### Arithmetic (R303 to R305) -/

/-- VADD, VSUB, VMUL. -/
def vecArith (op : Arith) (iop : Int → Int → Int) (f : LV) (x : Slot) : VecRes :=
  let t := f.fmt.toNat
  let w := tagWidth t
  vecOp x f [(f.a, typed t), (f.b, typed t)] none fun i =>
    let a := vel x f.a w i
    let b := vel x f.b w i
    if isFloat t then arithF op t f.rm.toNat a b
    else fitInt t (f.sat == 1) (iop (intVal t a) (intVal t b))

def vecDiv (f : LV) (x : Slot) : VecRes :=
  let t := f.fmt.toNat
  let w := tagWidth t
  vecOp x f [(f.a, typed t), (f.b, typed t)] none fun i =>
    arithF .div t f.rm.toNat (vel x f.a w i) (vel x f.b w i)

/-- VFMA and VFMS. -/
def vecFma (sub : Bool) (f : LV) (x : Slot) : VecRes :=
  let t := f.fmt.toNat
  let w := tagWidth t
  vecOp x f [(f.a, typed t), (f.b, typed t), (f.c, typed t)] none fun i =>
    fmaF t f.rm.toNat (vel x f.a w i) (vel x f.b w i) (vel x f.c w i) sub

/-- The smaller or the larger of two elements of a type. -/
def minMaxElem (big : Bool) (t a b : Nat) : Nat × Flags :=
  if isFloat t then minMaxF big t a b
  else
    let aLess := decide (intVal t a ≤ intVal t b)
    (if big then (if aLess then b else a) else (if aLess then a else b), 0)

def vecMinMax (big : Bool) (f : LV) (x : Slot) : VecRes :=
  let t := f.fmt.toNat
  let w := tagWidth t
  vecOp x f [(f.a, typed t), (f.b, typed t)] none fun i => minMaxElem big t (vel x f.a w i) (vel x f.b w i)

/-- VABS and VNEG. -/
def vecSign (neg : Bool) (f : LV) (x : Slot) : VecRes :=
  let t := f.fmt.toNat
  let w := tagWidth t
  vecOp x f [(f.a, typed t)] none fun i =>
    let a := vel x f.a w i
    if isFloat t then
      let v := unpackF (ffmt t) a
      if v.isNaN then ((ffmt t).defaultNaN, flagIf v.signalling flNV)
      else if neg then (if bit a (w - 1) then a - 2 ^ (w - 1) else a + 2 ^ (w - 1), 0)
      else (a % 2 ^ (w - 1), 0)
    else
      let v := intVal t a
      fitInt t (f.sat == 1) (if neg then -v else v.natAbs)

def vecMulh (f : LV) (x : Slot) : VecRes :=
  let t := f.fmt.toNat
  let w := tagWidth t
  vecOp x f [(f.a, typed t), (f.b, typed t)] none fun i =>
    (ofSigned w (intVal t (vel x f.a w i) * intVal t (vel x f.b w i) / 2 ^ w), 0)

/-- VAND, VOR, VXOR and VANDN (R304). -/
def vecLogic (op : Nat → Nat → Nat) (f : LV) (x : Slot) : VecRes :=
  let w := tagWidth f.fmt.toNat
  vecOp x f [(f.a, untyped), (f.b, untyped)] none fun i => (op (vel x f.a w i) (vel x f.b w i), 0)

/-- a AND NOT b on w bits. -/
def andNot (a b : Nat) : Nat := a - (a &&& b)

/-- VSHL, VSHR and VSRA (R304). -/
def vecShift (op : (w a sh : Nat) → Nat) (f : LV) (x : Slot) : VecRes :=
  let w := tagWidth f.fmt.toNat
  vecOp x f [(f.a, untyped), (f.b, untyped)] none fun i => (op w (vel x f.a w i) (vel x f.b w i % w), 0)

def vecSqrt (f : LV) (x : Slot) : VecRes :=
  let t := f.fmt.toNat
  vecOp x f [(f.a, typed t)] none fun i => sqrtF t f.rm.toNat (vel x f.a (tagWidth t) i)

def vecSpecial (fn : Special) (f : LV) (x : Slot) : VecRes :=
  vecOp x f [(f.a, typed 8)] none fun i => specialF fn f.rm.toNat (vel x f.a 32 i)

/-! ### Comparison, selection and moves (R306 to R308) -/

/-- A condition of R306 on an ordering; none when a NaN makes the values unordered. -/
def condHolds (c : Nat) (o : Option Ordering) : Bool :=
  match o with
  | none => c == 1
  | some o =>
    match c with
    | 0 => o == .eq
    | 1 => o != .eq
    | 2 => o == .lt
    | 3 => o != .gt
    | 4 => o == .gt
    | _ => o != .lt

/-- The order of two elements of a type and the NV flag of a signalling NaN. -/
def orderElem (t a b : Nat) : Option Ordering × Flags :=
  if isFloat t then
    let x := unpackF (ffmt t) a
    let y := unpackF (ffmt t) b
    if x.isNaN || y.isNaN then (none, flagIf (x.signalling || y.signalling) flNV) else (some (cmpV x y), 0)
  else (some (compare (intVal t a) (intVal t b)), 0)

/-- The mask whose bits for the bytes of element i are set where the list holds. -/
def maskOf (w : Nat) (l : List Bool) : Mask :=
  BitVec.ofNat 256 (packElems (w / 8) (l.map fun b => if b then 2 ^ (w / 8) - 1 else 0))

def vecCmp (f : LV) (x : Slot) : VecRes :=
  let t := f.fmt.toNat
  let w := tagWidth t
  let m := laneMask x f
  match badTag x [(f.a, typed t), (f.b, typed t)] with
  | some tr => .error tr
  | none =>
    let rs := (List.range (2048 / w)).map fun i =>
      if active m w i then
        let (o, fl) := orderElem t (vel x f.a w i) (vel x f.b w i)
        (condHolds f.fn.toNat o, fl)
      else (false, (0 : Flags))
    .ok { p := [(f.d.setWidth 3, maskOf w (rs.map (·.1)))], fl := orFlags (rs.map (·.2)) }

def vecSel (f : LV) (x : Slot) : VecRes :=
  let t := f.fmt.toNat
  let w := tagWidth t
  vecOp x f [(f.a, typed t), (f.b, typed t)] (some (vel x f.b w)) fun i => (vel x f.a w i, 0)

/-- Each byte of the data whose mask bit is set, all ones; the others zero. -/
def byteMask (m : Mask) : VData :=
  vdata 8 ((List.range 256).map fun b => if m.getLsbD b then 255 else 0)

def vecMov (f : LV) (x : Slot) : VecRes :=
  let m := byteMask (laneMask x f)
  let a := x.rv f.a
  .ok { v := [(f.d, ⟨(a.data &&& m) ||| ((x.rv f.d).data &&& ~~~m), a.side, a.tag⟩)] }

def vecRetag (f : LV) (x : Slot) : VecRes :=
  let a := x.rv f.a
  .ok { v := [(f.d, ⟨a.data, a.side, f.fmt⟩)] }

def vecBcast (f : LV) (x : Slot) : VecRes :=
  let val := (x.rs (f.a.setWidth 5)).toNat
  vecOp x f [] none fun _ => (val % 2 ^ tagWidth f.fmt.toNat, 0)

def vecExtr (f : LV) (x : Slot) : VecRes :=
  let t := f.fmt.toNat
  let w := tagWidth t
  match badTag x [(f.a, typed t)] with
  | some tr => .error tr
  | none =>
    let k := (x.rs (f.b.setWidth 5)).toNat % (2048 / w)
    .ok { s := [(f.d.setWidth 5, wordOfInt (intVal t (vel x f.a w k)))] }

def vecIns (f : LV) (x : Slot) : VecRes :=
  let t := f.fmt.toNat
  let w := tagWidth t
  match badTag x [(f.d, fun u => u == t || u == 0)] with
  | some tr => .error tr
  | none =>
    let k := (x.rs (f.b.setWidth 5)).toNat % (2048 / w)
    let v := (x.rs (f.a.setWidth 5)).toNat
    .ok { v := [(f.d, ⟨BitVec.ofNat 2048 (setElem w (x.rv f.d).data.toNat k v), 0, f.fmt⟩)] }

def vecIdx (f : LV) (x : Slot) : VecRes :=
  let a := (x.rs (f.a.setWidth 5)).toNat
  let b := (x.rs (f.b.setWidth 5)).toNat
  vecOp x f [] none fun i => ((a + i * b) % 2 ^ tagWidth f.fmt.toNat, 0)

/-! ### Conversions and block formats (R309 to R311) -/

def vecCvt (f : LV) (x : Slot) : VecRes :=
  let t := f.fmt.toNat
  let src := f.fn.toNat % 32
  let j := f.fn.toNat / 32 % 16
  let ws := tagWidth src
  let wd := tagWidth t
  let cvt := fun a => convertF src t f.rm.toNat (f.sat == 1) a
  if ws ≤ wd then vecOp x f [(f.a, typed src)] none fun i => cvt (vel x f.a ws (j * (2048 / wd) + i))
  else
    match badTag x [(f.a, typed src), (f.d, fun u => u == t || u == 0)] with
    | some tr => .error tr
    | none =>
      let m := laneMask x f
      let ns := 2048 / ws
      let rs := (List.range (2048 / wd)).map fun e =>
        if j * ns ≤ e ∧ e < j * ns + ns ∧ active m wd e then cvt (vel x f.a ws (e - j * ns))
        else (vel x f.d wd e, (0 : Flags))
      .ok { v := [(f.d, ⟨vdata wd (rs.map (·.1)), 0, f.fmt⟩)], fl := orFlags (rs.map (·.2)) }

/-- Elements from i on replaced by a list. -/
def overwrite (old : List Nat) (i : Nat) (new : List Nat) : List Nat :=
  old.take i ++ new ++ old.drop (i + new.length)

def vecQnt (f : LV) (x : Slot) : VecRes :=
  let t := f.fmt.toNat
  let w := tagWidth t
  let j := f.fn.toNat
  let srcs : List (VReg × (Nat → Bool)) :=
    (f.a, typed 8) :: ((if t = 13 then [(f.b, typed 8)] else []) ++ [(f.d, fun u => u == t || u == 0)])
  match badTag x srcs with
  | some tr => .error tr
  | none =>
    let vs := (List.range 64).map (vel x f.a 32)
    let old := (List.range (2048 / w)).map (vel x f.d w)
    let side := (x.rv f.d).side.toNat
    if t = 13 then
      let s := vel x f.b 32 0
      let (codes, q8) := qnBlock s vs
      let side := setElem 32 (setElem 8 side j q8) 2 s
      .ok { v := [(f.d, ⟨vdata 4 (overwrite old (64 * j) codes), BitVec.ofNat 128 side, f.fmt⟩)] }
    else
      let (c0, e0, f0) := mxQuant t (vs.take 32)
      let (c1, e1, f1) := mxQuant t (vs.drop 32)
      let side := setElem 8 (setElem 8 side (2 * j) e0) (2 * j + 1) e1
      .ok { v := [(f.d, ⟨vdata 8 (overwrite old (64 * j) (c0 ++ c1)), BitVec.ofNat 128 side, f.fmt⟩)], fl := f0 ||| f1 }

/-- Element i of a register of a block format, dequantised to F32 (R218, R219). -/
def regDequant (v : VVal) (i : Nat) : Nat × Flags :=
  let t := v.tag.toNat
  dequant t (elem (tagWidth t) v.data.toNat i) (elem 8 v.side.toNat (i / blockSize t)) (elem 32 v.side.toNat 2)

def vecDq (f : LV) (x : Slot) : VecRes :=
  let a := x.rv f.a
  let j := f.fn.toNat
  match badTag x [(f.a, isBlock)] with
  | some tr => .error tr
  | none =>
    if a.tag != 13 && decide (4 ≤ j) then .error (cILLEGAL, wordZero (.vdq f))
    else vecOp x f [] none fun i => regDequant a (64 * j + i)

/-! ### Permutes (R312) -/

def vecPerm (f : LV) (x : Slot) : VecRes :=
  let w := tagWidth f.fmt.toNat
  let n := 2048 / w
  vecOp x f [(f.a, untyped), (f.b, untyped), (f.c, untyped)] none fun i =>
    let t := vel x f.b w i % (2 * n)
    (if t < n then vel x f.a w t else vel x f.c w (t - n), 0)

def vecRotl (f : LV) (x : Slot) : VecRes :=
  let w := tagWidth f.fmt.toNat
  let n := 2048 / w
  let k := (x.rs (f.b.setWidth 5)).toNat
  vecOp x f [(f.a, untyped)] none fun i => (vel x f.a w ((i + k) % n), 0)

def vecZip (f : LV) (x : Slot) : VecRes :=
  let w := tagWidth f.fmt.toNat
  let n := 2048 / w
  let j := f.fn.toNat
  vecOp x f [(f.a, untyped), (f.b, untyped)] none fun i =>
    (vel x (if i % 2 = 0 then f.a else f.b) w (j * n / 2 + i / 2), 0)

def vecUnzip (f : LV) (x : Slot) : VecRes :=
  let w := tagWidth f.fmt.toNat
  let n := 2048 / w
  let j := f.fn.toNat
  vecOp x f [(f.a, untyped), (f.b, untyped)] none fun i =>
    (if i < n / 2 then vel x f.a w (2 * i + j) else vel x f.b w (2 * (i - n / 2) + j), 0)

/-! ### Reductions and scans (R228, R229, R313, R314) -/

/-- The combine of a reduction: 0 add, 1 max, 2 min. -/
def combine (op t rm : Nat) (sat : Bool) (a b : Nat) : Nat × Flags :=
  match op with
  | 0 => if isFloat t then arithF .add t rm a b else fitInt t sat (intVal t a + intVal t b)
  | 1 => minMaxElem true t a b
  | _ => minMaxElem false t a b

/-- The identity of R228. -/
def identity (op t : Nat) : Nat :=
  let w := tagWidth t
  let f := ffmt t
  let infBits := 2 ^ f.fbits * (2 ^ f.ebits - 1)
  match op with
  | 0 => if isFloat t then 2 ^ (w - 1) else 0
  | 1 => if isFloat t then 2 ^ (w - 1) + infBits else ofSigned w (intRange t).1
  | _ => if isFloat t then infBits else ofSigned w (intRange t).2

/-- One level of the pairwise tree. -/
def treeLevel (c : Nat → Nat → Nat × Flags) : List Nat → List Nat × Flags
  | a :: b :: rest =>
    let (r, fl) := c a b
    let (rs, fl') := treeLevel c rest
    (r :: rs, fl ||| fl')
  | l => (l, 0)

/-- The pairwise tree: levels until one value is left. -/
def tree (c : Nat → Nat → Nat × Flags) : Nat → List Nat → List Nat × Flags
  | 0, l => (l, 0)
  | k + 1, l =>
    let (l', fl) := treeLevel c l
    let (r, fl') := tree c k l'
    (r, fl ||| fl')

/-- The elements of v[a], the inactive ones replaced by an identity. -/
def contributions (x : Slot) (f : LV) (w ident : Nat) : List Nat :=
  let m := laneMask x f
  (List.range (2048 / w)).map fun i => if active m w i then vel x f.a w i else ident

def vecReduce (op : Nat) (f : LV) (x : Slot) : VecRes :=
  let t := f.fmt.toNat
  let w := tagWidth t
  match badTag x [(f.a, typed t)] with
  | some tr => .error tr
  | none =>
    let (l, fl) := tree (combine op t f.rm.toNat (f.sat == 1)) (Nat.log2 (2048 / w)) (contributions x f w (identity op t))
    .ok { v := [(f.d, ⟨vdata w [l.headD 0], 0, f.fmt⟩)], fl := fl }

/-- The running results of a scan after the first. -/
def scanFrom (c : Nat → Nat → Nat × Flags) (acc : Nat) : List Nat → List Nat × Flags
  | [] => ([], 0)
  | y :: ys =>
    let (r, fl) := c acc y
    let (rs, fl') := scanFrom c r ys
    (r :: rs, fl ||| fl')

def vecScan (f : LV) (x : Slot) : VecRes :=
  let t := f.fmt.toNat
  let w := tagWidth t
  let op := f.fn.toNat % 4
  match badTag x [(f.a, typed t)] with
  | some tr => .error tr
  | none =>
    match contributions x f w (identity op t) with
    | [] => .ok {}
    | y :: ys =>
      let v := unpackF (ffmt t) y
      let (y0, fl0) :=
        if isFloat t ∧ v.isNaN then ((ffmt t).defaultNaN, flagIf v.signalling flNV) else (y, (0 : Flags))
      let (rs, fl) := scanFrom (combine op t f.rm.toNat (f.sat == 1)) y0 ys
      .ok { v := [(f.d, ⟨vdata w (y0 :: rs), 0, f.fmt⟩)], fl := fl0 ||| fl }

/-! ### The non-zero scan and the integer element instructions (R315, R316) -/

def vecNzs (f : LV) (x : Slot) : VecRes :=
  let src := f.fn.toNat % 32
  let h := f.fn.toNat / 32 % 2
  let w := tagWidth src
  let m := laneMask x f
  match badTag x [(f.a, typed src)] with
  | some tr => .error tr
  | none =>
    let nonZero (a : Nat) : Bool := if isFloat src then a % 2 ^ (w - 1) != 0 else a != 0
    let list := ((List.range 64).map (64 * h + ·)).filter fun i =>
      decide (i < 2048 / w) && active m w i && nonZero (vel x f.a w i)
    let base := (x.rs (f.b.setWidth 5)).toNat
    let rs := (list.map fun i => (base + i) % 2 ^ 32) ++ List.replicate (64 - list.length) 0xFFFFFFFF
    .ok { v := [(f.d, ⟨vdata 32 rs, 0, 4⟩)], s := [(f.c.setWidth 5, BitVec.ofNat 64 list.length)] }

def vecDot4 (f : LV) (x : Slot) : VecRes :=
  let byteTag := fun u => u == 1 || u == 2
  let ta := (x.rv f.a).tag.toNat
  let tb := (x.rv f.b).tag.toNat
  vecOp x f [(f.a, byteTag), (f.b, byteTag), (f.c, typed 4)] none fun i =>
    let terms := (List.range 4).map fun q => intVal ta (vel x f.a 8 (4 * i + q)) * intVal tb (vel x f.b 8 (4 * i + q))
    fitInt 4 (f.sat == 1) (intVal 4 (vel x f.c 32 i) + terms.sum)

def vecCount (op : Nat → Nat → Nat) (f : LV) (x : Slot) : VecRes :=
  let t := f.fmt.toNat
  vecOp x f [(f.a, typed t)] none fun i => (op (tagWidth t) (vel x f.a (tagWidth t) i), 0)

/-! ### The two latency classes (R96) -/

/-- A class F instruction: its results wait four cycles, or it traps (R96, R113). -/
def classF (res : LV → Slot → VecRes) (f : LV) (s : State) : Plan :=
  issuing s fun t x =>
    match res f x with
    | .error (cause, val) => trap s t cause val 3
    | .ok w => [.slot t fun x =>
        { x.advance (x.after 3) with pend := x.pend ++ [⟨s.cycle + 4, x.seq, w.v, w.s, w.p, w.fl⟩] }]

/-- The operation that a class V instruction leaves outstanding, with no part to be performed elsewhere. -/
def doneOp (s : State) (x : Slot) (ta words : Nat) (w : Writes) (gq gv : Nat) : Op where
  seq := x.seq
  pc := x.pc
  words := words
  ta := ta
  sync := ta == 0
  issued := s.cycle
  left := 0
  wait := .none
  deadline := none
  v := w.v
  s := w.s
  p := w.p
  flags := w.fl
  gq := gq
  gv := gv
  dropped := false
  scalar := false
  note := 0
  again := []
  since := s.cycle
  dies := []

/-- A class V instruction computed in its core: its reply comes no sooner than 12 cycles after issue (R96). -/
def classV (res : LV → Slot → VecRes) (f : LV) (s : State) : Plan :=
  issuing s fun t x =>
    match res f x with
    | .error (cause, val) => trap s t cause val 3
    | .ok w => [.slot t (fun x => x.start (doneOp s x f.ta.toNat 3 w 0 0)), .send t x.seq 12 .vreply]

/-! ### The meanings -/

def execVadd (f : LV) (s : State) := run (classF (vecArith .add (· + ·)) f s) s
def execVsub (f : LV) (s : State) := run (classF (vecArith .sub (· - ·)) f s) s
def execVmul (f : LV) (s : State) := run (classF (vecArith .mul (· * ·)) f s) s
def execVfma (f : LV) (s : State) := run (classF (vecFma false) f s) s
def execVfms (f : LV) (s : State) := run (classF (vecFma true) f s) s
def execVmin (f : LV) (s : State) := run (classF (vecMinMax false) f s) s
def execVmax (f : LV) (s : State) := run (classF (vecMinMax true) f s) s
def execVabs (f : LV) (s : State) := run (classF (vecSign false) f s) s
def execVneg (f : LV) (s : State) := run (classF (vecSign true) f s) s
def execVand (f : LV) (s : State) := run (classF (vecLogic (· &&& ·)) f s) s
def execVor (f : LV) (s : State) := run (classF (vecLogic (· ||| ·)) f s) s
def execVxor (f : LV) (s : State) := run (classF (vecLogic (· ^^^ ·)) f s) s
def execVandn (f : LV) (s : State) := run (classF (vecLogic andNot) f s) s
def execVshl (f : LV) (s : State) := run (classF (vecShift fun w a sh => a * 2 ^ sh % 2 ^ w) f s) s
def execVshr (f : LV) (s : State) := run (classF (vecShift fun _ a sh => a / 2 ^ sh) f s) s
def execVsra (f : LV) (s : State) := run (classF (vecShift fun w a sh => ofSigned w (toSigned w a / 2 ^ sh)) f s) s
def execVmulh (f : LV) (s : State) := run (classF vecMulh f s) s
def execVdiv (f : LV) (s : State) := run (classV vecDiv f s) s
def execVsqrt (f : LV) (s : State) := run (classV vecSqrt f s) s
def execVrcp (f : LV) (s : State) := run (classV (vecSpecial .rcp) f s) s
def execVrsq (f : LV) (s : State) := run (classV (vecSpecial .rsq) f s) s
def execVexp2 (f : LV) (s : State) := run (classV (vecSpecial .exp2) f s) s
def execVlog2 (f : LV) (s : State) := run (classV (vecSpecial .log2) f s) s
def execVsint (f : LV) (s : State) := run (classV (vecSpecial .sint) f s) s
def execVcost (f : LV) (s : State) := run (classV (vecSpecial .cost) f s) s
def execVtanh (f : LV) (s : State) := run (classV (vecSpecial .tanh) f s) s
def execVcmp (f : LV) (s : State) := run (classF vecCmp f s) s
def execVsel (f : LV) (s : State) := run (classF vecSel f s) s
def execVmov (f : LV) (s : State) := run (classF vecMov f s) s
def execVbcast (f : LV) (s : State) := run (classF vecBcast f s) s
def execVextr (f : LV) (s : State) := run (classF vecExtr f s) s
def execVins (f : LV) (s : State) := run (classF vecIns f s) s
def execVcvt (f : LV) (s : State) := run (classF vecCvt f s) s
def execVqnt (f : LV) (s : State) := run (classF vecQnt f s) s
def execVdq (f : LV) (s : State) := run (classF vecDq f s) s
def execVretag (f : LV) (s : State) := run (classF vecRetag f s) s
def execVperm (f : LV) (s : State) := run (classF vecPerm f s) s
def execVrotl (f : LV) (s : State) := run (classF vecRotl f s) s
def execVzip (f : LV) (s : State) := run (classF vecZip f s) s
def execVunzip (f : LV) (s : State) := run (classF vecUnzip f s) s
def execVredadd (f : LV) (s : State) := run (classV (vecReduce 0) f s) s
def execVredmax (f : LV) (s : State) := run (classV (vecReduce 1) f s) s
def execVredmin (f : LV) (s : State) := run (classV (vecReduce 2) f s) s
def execVscan (f : LV) (s : State) := run (classV vecScan f s) s
def execVnzs (f : LV) (s : State) := run (classV vecNzs f s) s
def execVdot4 (f : LV) (s : State) := run (classF vecDot4 f s) s
def execVclz (f : LV) (s : State) := run (classF (vecCount clzNat) f s) s
def execVpopc (f : LV) (s : State) := run (classF (vecCount popNat) f s) s
def execVidx (f : LV) (s : State) := run (classF vecIdx f s) s

/-! ### Results become visible (R96) -/

/-- The class F results of a slot that are due. -/
def duePending (cycle : Nat) (x : Slot) : List Pending := x.pend.filter fun p => decide (p.due ≤ cycle)

/-- Every class F result due is written, in issue order; the results still to come stay (R96, R100, R216). -/
def Slot.land (cycle : Nat) (x : Slot) : Slot :=
  let y := (duePending cycle x).foldl (fun y p => y.setAll p.v p.s p.p p.flags) x
  { y with pend := x.pend.filter fun p => !decide (p.due ≤ cycle) }

def execClassFResultVisible (vf core slot : Nat) (s : State) :=
  run (when "CLASS_F_RESULT_VISIBLE" ((s.vdAt vf).isSome && duePending s.cycle (s.slotOf ⟨vf, core, slot⟩) != [])
    [.slot ⟨vf, core, slot⟩ (Slot.land s.cycle)]) s

/-- A completed operation's results are written at once, its tag is released and its signal added (R96, R98, R257); a
refused access writes nothing (R122), and a signal goes with a completion only. -/
def finishOp (t : Tid) (o : Op) : List Eff :=
  [.core t.vf t.core fun c =>
    let x := c.slotAt t.slot
    let y := if o.dropped then x else x.setAll o.v o.s o.p o.flags
    let y := { y with
      ops := y.ops.filter (·.seq != o.seq), tags := if o.ta = 0 then y.tags else y.tags &&& ~~~(1#8 <<< o.ta) }
    let c := c.setSlot t.slot y
    if o.dropped then c else c.addSem o.gq o.gv]

def Slot.opOf (x : Slot) (seq : Nat) : Option Op := x.ops.find? (·.seq == seq)

end Sys2Proof.Machine
end

