-- ==== Sys2Proof/Machine/Memory.lean ====
section
/-! DEFINITION. Scalar and vector loads, stores, full/empty accesses, atomics and cache maintenance (R318 to R332,
R337, R338). -/

namespace Sys2Proof.Machine

/-! ### Scalar forms -/

/-- The operation of a scalar load or atomic: it interlocks s[d] and does not stall issue (R319). -/
def scalarOp (s : State) (x : Slot) (d : SReg) : Op :=
  { doneOp s x 0 1 { s := [(d, 0)] } 0 0 with sync := false, scalar := true }

/-- The operation of a scalar instruction that stalls its slot (R98). -/
def stallOp (s : State) (x : Slot) (rs : List (SReg × Word)) : Op :=
  { doneOp s x 0 1 { s := rs } 0 0 with scalar := true }

/-- One access at an address. -/
def oneAccess (va size : Nat) (op : AccOp) (data : Nat) : Part := .access ⟨va, size, 2 ^ size - 1, op, data, 0, size⟩

/-- The effective address of the SI memory forms (R320). -/
def effective (x : Slot) (a : SReg) (imm : BitVec 12) : Word := x.rs a + immS imm

/-- A scalar load of `size` bytes (R318, R320). -/
def scalarLoad (size : Nat) (signed : Bool) (d a : SReg) (imm : BitVec 12) (s : State) : Plan :=
  issuing s fun t x =>
    let ea := effective x a imm
    if ea.toNat % size ≠ 0 then trap s t cMISALIGN ea 1
    else s.access t 1 (some (scalarOp s x d)) [oneAccess ea.toNat size (.loadS signed) 0]

/-- A scalar store of `size` bytes (R318, R320, R327). -/
def scalarStore (size : Nat) (op : AccOp) (d a : SReg) (imm : BitVec 12) (s : State) : Plan :=
  issuing s fun t x =>
    let ea := effective x a imm
    if ea.toNat % size ≠ 0 then trap s t cMISALIGN ea 1
    else s.access t 1 none [oneAccess ea.toNat size op ((x.rs d).toNat % 2 ^ (8 * size))]

def execLdb (d a : SReg) (imm : BitVec 12) (s : State) := run (scalarLoad 1 true d a imm s) s
def execLdbu (d a : SReg) (imm : BitVec 12) (s : State) := run (scalarLoad 1 false d a imm s) s
def execLdh (d a : SReg) (imm : BitVec 12) (s : State) := run (scalarLoad 2 true d a imm s) s
def execLdhu (d a : SReg) (imm : BitVec 12) (s : State) := run (scalarLoad 2 false d a imm s) s
def execLdw (d a : SReg) (imm : BitVec 12) (s : State) := run (scalarLoad 4 true d a imm s) s
def execLdwu (d a : SReg) (imm : BitVec 12) (s : State) := run (scalarLoad 4 false d a imm s) s
def execLdd (d a : SReg) (imm : BitVec 12) (s : State) := run (scalarLoad 8 false d a imm s) s
def execStb (d a : SReg) (imm : BitVec 12) (s : State) := run (scalarStore 1 .store d a imm s) s
def execSth (d a : SReg) (imm : BitVec 12) (s : State) := run (scalarStore 2 .store d a imm s) s
def execStw (d a : SReg) (imm : BitVec 12) (s : State) := run (scalarStore 4 .store d a imm s) s
def execStd (d a : SReg) (imm : BitVec 12) (s : State) := run (scalarStore 8 .store d a imm s) s
def execStf (d a : SReg) (imm : BitVec 12) (s : State) := run (scalarStore 8 .storeFull d a imm s) s

/-- The cycle a timeout of exponent te expires (R106); te = 31 never. -/
def deadline (cycle te : Nat) : Option Nat := if te = 31 then none else some (cycle + 2 ^ te)

/-- LDF (R326): its value, then its status. -/
def planLdf (d a b : SReg) (te : BitVec 5) (consume : BitVec 1) (s : State) : Plan :=
  issuing s fun t x =>
    let ea := x.rs a
    if ea.toNat % 8 ≠ 0 then trap s t cMISALIGN ea 1
    else
      let o := { stallOp s x [(d, 0), (b, BitVec.ofNat 64 stOK)] with
        wait := .full, deadline := deadline s.cycle te.toNat,
        again := [oneAccess ea.toNat 8 (.loadFull (consume == 1)) 0] }
      s.access t 1 (some o) o.again

def execLdf (d a b : SReg) (te : BitVec 5) (consume : BitVec 1) (s : State) := run (planLdf d a b te consume s) s

/-- FECLR (R327): every word of the range, each by itself; the slot stalls until all are empty. -/
def planFeclr (a b : SReg) (s : State) : Plan :=
  issuing s fun t x =>
    let lo := x.rs a
    let n := (x.rs b).toNat
    if lo.toNat % 8 ≠ 0 ∨ n % 8 ≠ 0 then trap s t cMISALIGN lo 1
    else if n = 0 then [.slot t (·.advance (x.after 1))]
    else
      let words := (List.range (n / 8)).map fun i => oneAccess ((lo.toNat + 8 * i) % 2 ^ 64) 8 .setEmpty 0
      s.access t 1 (some { stallOp s x [] with again := words }) words

def execFeclr (a b : SReg) (s : State) := run (planFeclr a b s) s

/-- AMO and CAS (R329, R330). -/
def scalarAtomic (code : Nat) (d a b : SReg) (scope : BitVec 3) (s : State) : Plan :=
  issuing s fun t x =>
    let ea := x.rs a
    if ea.toNat % 8 ≠ 0 then trap s t cMISALIGN ea 1
    else s.access t 1 (some (scalarOp s x d))
      [.atomic ⟨code, 64, ea.toNat, (x.rs b).toNat, (x.rs d).toNat, scope.toNat, none⟩]

def execAmo (d a b : SReg) (op : BitVec 4) (scope : BitVec 3) (s : State) :=
  run (scalarAtomic op.toNat d a b scope s) s
def execCas (d a b : SReg) (scope : BitVec 3) (s : State) := run (scalarAtomic 15 d a b scope s) s

/-! ### Prefetch and cache maintenance (R337, R338) -/

/-- A line of device memory overlaps a range of virtual addresses, as the RGNTAB in force for a core maps them (R286). -/
def VD.lineIn (v : VD) (core line lo hi : Nat) : Bool :=
  match tenantOf v.grants (line * 128) with
  | some tpa => (v.aliases (v.tableOf core) tpa).any fun a => decide (a < hi ∧ lo < a + 128)
  | none => false

/-- An L1 line overlaps a range, under the address it was filled under or any that leads to it. -/
def VD.l1In (v : VD) (core lo hi : Nat) (l : L1Line) : Bool :=
  decide (l.va < hi ∧ lo < l.va + 128) || v.lineIn core l.line lo hi

/-- FLUSH, and INVAL which also drops the lines and the die's visitor copies. -/
def maintain (drop : Bool) (a b : SReg) (s : State) : Plan :=
  issuing s fun t x =>
    let lo := (x.rs a).toNat
    let hi := lo + (x.rs b).toNat
    match s.vdAt t.vf with
    | none => []
    | some v =>
      let die := dieOf (v.coreNo t.core)
      s.cleanL1 t.vf t.core (v.l1In t.core lo hi) (!drop) ++
        (if drop then
          [.vd t.vf fun w => { w with visitors := w.visitors.filter fun x => !(x.die == die && v.lineIn t.core x.line lo hi) }]
        else []) ++
        [.slot t (·.advance (x.after 1))]

def execFlush (a b : SReg) (s : State) := run (maintain false a b s) s
def execInval (a b : SReg) (s : State) := run (maintain true a b s) s

/-- PREF: the line comes into L1, and nothing else happens. -/
def planPref (kind a : SReg) (imm : BitVec 12) (s : State) : Plan :=
  issuing s fun t x =>
    let ea := (effective x a imm).toNat
    let bring : List Eff :=
      if kind.toNat = 2 ∨ ea % 8 ≠ 0 ∨ (inFixedWindow ea || decide (2 ^ 56 ≤ ea)) = true then []
      else
        match s.resolve t.vf t.core ea 8 (if kind.toNat = 1 then .write else .read) x.priv true with
        | (.at (.dram pa cls _ bs _) _, es) => if bs then es else es ++ ((applyAll es s).loadDram t ea pa 8 cls bs).2
        | _ => []
    bring ++ [.slot t (·.advance (x.after 1))]

def execPref (kind a : SReg) (imm : BitVec 12) (s : State) := run (planPref kind a imm s) s

/-! ### Vector forms: active bytes, units and addresses (R321) -/

/-- A byte of a register is moved when its element is active (R210, R321). -/
def byteActive (m : Mask) (w b : Nat) : Bool := active m w (if w < 8 then 2 * b else b / (w / 8))

/-- The 8-byte units of 256 contiguous bytes from an address, those with an active byte only: the first byte of the
register each covers, its size and its mask. -/
def unitsOf (ea : Nat) (act : Nat → Bool) : List (Nat × Nat × Nat) :=
  let f := ea % 8
  ((List.range 33).map fun j =>
    let lo := 8 * j - f
    let hi := min 256 (8 * j + 8 - f)
    (lo, hi - lo, (List.range 8).foldl (fun k i => if i < hi - lo ∧ act (lo + i) = true then k + 2 ^ i else k) 0)).filter
    fun u => u.2.1 != 0 && u.2.2 != 0

/-- EA(δ) for each of several displacements, or the address of the first that passes its window's end (R135). -/
def lmAddresses (x : Slot) (f : LM) (ds : List Int) : Except Nat (List Nat) :=
  ds.mapM fun d =>
    match lmAddress x f d with
    | some a => .ok a
    | none => .error (lmAddressRaw x f d)

/-- The vector operation of an LM instruction, its results still to come (R321). -/
def lmOp (s : State) (x : Slot) (f : LM) (v : List (VReg × VVal)) (ss : List (SReg × Word)) : Op :=
  doneOp s x f.ta.toNat (LM.words f) { v := v, s := ss } f.gq.toNat f.gv.toNat

/-- The register a load merges into: inactive elements keep v[v], which must then carry fmt or RAW (R321). -/
def mergeBase (x : Slot) (f : LM) (full : Bool) : Except (Nat × Word) VVal :=
  let old := x.rv f.v
  if full then .ok ⟨0, 0, f.fmt⟩
  else if old.tag = f.fmt ∨ old.tag = 0 then .ok ⟨old.data, 0, f.fmt⟩
  else .error (tagTrap f.v.toNat old.tag)

/-- A store's data carries fmt; RAW takes any tag (R322). -/
def storeTag (x : Slot) (f : LM) : Except (Nat × Word) VVal :=
  let y := x.rv f.v
  if f.fmt = 0 ∨ y.tag = f.fmt then .ok y else .error (tagTrap f.v.toNat y.tag)

/-- Unwind a cause with its TRAPVAL into the trap. -/
def orTrap (s : State) (t : Tid) (words : Nat) {α : Type} (r : Except (Nat × Word) α) (k : α → List Eff) : List Eff :=
  match r with
  | .error (cause, val) => trap s t cause val words
  | .ok a => k a

/-- All elements of a width are active. -/
def fullMask (m : Mask) (w : Nat) : Bool := (List.range (2048 / w)).all (active m w)

/-- The bytes of an element of a format; two of four bits share one. -/
def elemSize (fmt : Nat) : Nat := max 1 (tagWidth fmt / 8)

/-- The parts of a contiguous access of 256 bytes, one for each unit. -/
def unitParts (x : Slot) (f : LM) (base : Nat) (act : Nat → Bool) (op : AccOp) (data : Nat) :
    Except Nat (List Part) := do
  let us := unitsOf base act
  let as ← lmAddresses x f (us.map fun u => (u.1 : Int))
  return (us.zip as).map fun (u, a) => .access ⟨a, u.2.1, u.2.2, op, data / 2 ^ (8 * u.1) % 2 ^ (8 * u.2.1), u.1, elemSize f.fmt.toNat⟩

/-- Addresses that pass a window's end raise ADDR (R135, R321). -/
def orAddr (s : State) (t : Tid) (words : Nat) {α : Type} (r : Except Nat α) (k : α → List Eff) : List Eff :=
  match r with
  | .error a => trap s t cADDR (BitVec.ofNat 64 a) words
  | .ok a => k a

/-- The side bytes of a block format (Table of R323): the address of each and its byte of the side word. -/
def sideBytes (fmt o b : Nat) : List (Nat × Nat) :=
  if fmt = 13 then
    let g := o / 8192
    ((List.range 8).map fun i => (b + g * 260 + 4 + o % 8192 / 32 + i, i)) ++
      ((List.range 4).map fun i => (b + g * 260 + i, 8 + i))
  else (List.range 8).map fun i => (b + o / 32 + i, i)

/-- VLD and VST (R322, R323). -/
def planVldVst (store : Bool) (f : LM) (s : State) : Plan :=
  issuing s fun t x =>
    let n := LM.words f
    let w := tagWidth f.fmt.toNat
    let m := if isBlock f.fmt.toNat then BitVec.allOnes 256 else lmGuard x f
    let act := byteActive m w
    let src : Except (Nat × Word) VVal := if store then storeTag x f else mergeBase x f (fullMask m w)
    orTrap s t n src fun y =>
      let o := lmOffset x f
      let base := lmAddressRaw x f 0
      if isBlock f.fmt.toNat ∧ o % 256 ≠ 0 then trap s t cMISALIGN (BitVec.ofNat 64 base) n
      else if base % min 8 (max 1 (w / 8)) ≠ 0 then trap s t cMISALIGN (BitVec.ofNat 64 base) n
      else
        orAddr s t n (unitParts x f base act (if store then .store else .loadV) y.data.toNat) fun ps =>
          let side := if isBlock f.fmt.toNat then
              (sideBytes f.fmt.toNat o (x.rs f.sc).toNat).map fun (a, i) =>
                Part.access ⟨a % 2 ^ 64, 1, 1, if store then .store else .loadV, (byteAt y.side.toNat i).toNat, 256 + i, 1⟩
            else []
          s.access t n (some (lmOp s x f (if store then [] else [(f.v, y)]) [])) (ps ++ side)

def execVld (f : LM) (s : State) := run (planVldVst false f s) s
def execVst (f : LM) (s : State) := run (planVldVst true f s) s

/-- The parts of an access of single elements: element number and displacement of each active one. -/
def elemParts (x : Slot) (f : LM) (w : Nat) (es : List (Nat × Int)) (op : AccOp) (data : Nat) : Except Nat (List Part) := do
  let as ← lmAddresses x f (es.map (·.2))
  return (es.zip as).map fun (e, a) => .access ⟨a, w / 8, 2 ^ (w / 8) - 1, op, elem w data e.1, e.1 * (w / 8), w / 8⟩

/-- The first element whose address is not aligned. -/
def misaligned (x : Slot) (f : LM) (w : Nat) (es : List (Nat × Int)) : Option Nat :=
  (es.map fun e => lmAddressRaw x f e.2).find? fun a => decide (a % (w / 8) ≠ 0)

/-- Strided and indexed accesses: the displacement of each element (R324, R325). -/
def elementwise (store : Bool) (f : LM) (s : State) (t : Tid) (x : Slot) (es : List (Nat × Int)) (full : Bool) :
    List Eff :=
  let n := LM.words f
  let w := tagWidth f.fmt.toNat
  let src : Except (Nat × Word) VVal := if store then storeTag x f else mergeBase x f full
  orTrap s t n src fun y =>
    match misaligned x f w es with
    | some a => trap s t cMISALIGN (BitVec.ofNat 64 a) n
    | none =>
      orAddr s t n (elemParts x f w es (if store then .store else .loadV) y.data.toNat) fun ps =>
        s.access t n (some (lmOp s x f (if store then [] else [(f.v, y)]) [])) ps

/-- VLDS and VSTS (R324): element i at i × s[sc]. -/
def planStride (store : Bool) (f : LM) (s : State) : Plan :=
  issuing s fun t x =>
    let w := tagWidth f.fmt.toNat
    let m := lmGuard x f
    let es := (activeElems m w).map fun (i : Nat) => (i, (i : Int) * (x.rs f.sc).toInt)
    elementwise store f s t x es (fullMask m w)

def execVlds (f : LM) (s : State) := run (planStride false f s) s
def execVsts (f : LM) (s : State) := run (planStride true f s) s

/-- VGATH and VSCAT (R325): element i at x(i) << shift, x an I32 or I64 index register. -/
def planIndexed (store : Bool) (f : LM) (s : State) : Plan :=
  issuing s fun t x =>
    let w := tagWidth f.fmt.toNat
    let ix := x.rv (f.sc.setWidth 6)
    let iw := tagWidth ix.tag.toNat
    if ix.tag ≠ 4 ∧ ix.tag ≠ 5 then
      trap s t (tagTrap f.sc.toNat ix.tag).1 (tagTrap f.sc.toNat ix.tag).2 (LM.words f)
    else
      let m := lmGuard x f
      let act := (activeElems m w).filter fun i => decide (i < 2048 / iw)
      let es : List (Nat × Int) := act.map fun i => (i, toSigned iw (elem iw ix.data.toNat i) * 2 ^ (f.fn.toNat % 4))
      elementwise store f s t x es (fullMask m w && decide (2048 / w ≤ 2048 / iw))

def execVgath (f : LM) (s : State) := run (planIndexed false f s) s
def execVscat (f : LM) (s : State) := run (planIndexed true f s) s

/-- VLDF (R328): each active unit once it is full, or, with consume, a whole 64-byte block's units at once. -/
def planVldf (f : LM) (s : State) : Plan :=
  issuing s fun t x =>
    let n := LM.words f
    let w := tagWidth f.fmt.toNat
    let m := lmGuard x f
    let consume := f.fn.toNat % 2 == 1
    let base := lmAddressRaw x f 0
    orTrap s t n (mergeBase x f (fullMask m w)) fun y =>
      let us := unitsOf base (byteActive m w)
      let lo := (us.head?.map (·.1)).getD 0
      let hi := (us.getLast?.map fun u => u.1 + 8).getD 0
      if base % 8 ≠ 0 then trap s t cMISALIGN (BitVec.ofNat 64 base) n
      else if consume ∧ us ≠ [] ∧ (base + lo) / 64 ≠ (base + hi - 1) / 64 then
        trap s t cMISALIGN (BitVec.ofNat 64 base) n
      else
        let o := { lmOp s x f [(f.v, y)] [(f.sc, BitVec.ofNat 64 stOK)] with
          wait := if us = [] then .none else .full, deadline := deadline s.cycle (f.fn.toNat / 2) }
        orAddr s t n (unitParts x f base (byteActive m w) (.loadFull consume) 0) fun ps =>
          let ps := if consume ∧ us ≠ [] then
              match lmAddress x f lo with
              | some a => [.access ⟨a, hi - lo, us.foldl (fun k u => k + u.2.2 * 2 ^ (u.1 - lo)) 0, .loadFull true, 0, lo, elemSize f.fmt.toNat⟩]
              | none => ps
            else ps
          s.access t n (some { o with again := ps }) ps

def execVldf (f : LM) (s : State) := run (planVldf f s) s

/-- VSTF (R328): every active unit written and set full. -/
def planVstf (f : LM) (s : State) : Plan :=
  issuing s fun t x =>
    let n := LM.words f
    let w := tagWidth f.fmt.toNat
    let base := lmAddressRaw x f 0
    orTrap s t n (storeTag x f) fun y =>
      if base % 8 ≠ 0 then trap s t cMISALIGN (BitVec.ofNat 64 base) n
      else
        orAddr s t n (unitParts x f base (byteActive (lmGuard x f) w) .storeFull y.data.toNat) fun ps =>
          s.access t n (some (lmOp s x f [] [])) ps

def execVstf (f : LM) (s : State) := run (planVstf f s) s

/-- VAMO (R331): one atomic for each active element; the old values replace the active elements. -/
def planVamo (f : LM) (s : State) : Plan :=
  issuing s fun t x =>
    let n := LM.words f
    let w := tagWidth f.fmt.toNat
    let y := x.rv f.v
    let es := (activeElems (lmGuard x f) w).map fun i => (i, ((w / 8 * i : Nat) : Int))
    if y.tag ≠ f.fmt then trap s t (tagTrap f.v.toNat y.tag).1 (tagTrap f.v.toNat y.tag).2 n
    else
      match misaligned x f w es with
      | some a => trap s t cMISALIGN (BitVec.ofNat 64 a) n
      | none =>
        orAddr s t n (lmAddresses x f (es.map (·.2))) fun as =>
          s.access t n (some (lmOp s x f [(f.v, ⟨y.data, 0, f.fmt⟩)] []))
            ((es.zip as).map fun (e, a) =>
              .atomic ⟨f.fn.toNat % 16, w, a, elem w y.data.toNat e.1, 0, f.sc.toNat, some e.1⟩)

def execVamo (f : LM) (s : State) := run (planVamo f s) s

end Sys2Proof.Machine
end

