-- ==== Sys2Proof/Machine/Virtual.lean ====
section
/-! DEFINITION. Work that a home, the scheduler or an engine does through virtual addresses, and what an acquire and a
release do in a core (R141, R145, R161, R262). -/

namespace Sys2Proof.Machine

/-- A run of virtual addresses cut where every decoding is contiguous: at 8-byte units in a fixed window, at 256 bytes
elsewhere (Table 7.1, R147, R155). -/
def piecesOf (va n : Nat) : List (Nat × Nat) :=
  if inFixedWindow va then chunks 8 (n / 8 + 2) va n else chunks 256 (n / 256 + 2) va n

/-- Every entry of the transit buffer that an access has to pass through is in use (R66). -/
def State.transitFull (s : State) (vf : Nat) (p : Place) : Bool :=
  match p with
  | .dram _ cls _ _ _ =>
    (match s.vdAt vf with | some v => v.noWays cls | none => false) && decide (16 ≤ (s.transits p.home).length)
  | _ => false

/-- Something may hold a read that an instruction makes before it issues: a narrow has lost its training (R12), or an entry of
a transit buffer is in use (R66). -/
def State.mayHold (s : State) : Bool := s.anyLost || s.flights.any fun f => match f.pk with | .transit .. => true | _ => false

/-- What stands on the way of an access made at once from a die: toward a module no ready strait (R17) or a frame withdrawn
there (R26), toward a die a narrow that has lost its training (R12), at a slice a full transit buffer (R66). -/
def State.onWay (s : State) (vf core : Nat) (p : Place) : Option Where :=
  match p with
  | .remote dev tpa =>
    if !s.routeReady dev then some (.away dev) else if Config.remoteLost dev tpa s.cycle then some (.fault cLINK) else none
  | p =>
    if core ≠ holmCore ∧
        (((s.dieAt vf p).any fun d => s.narrowLost (dieOf (s.coreNo vf core)) d) || s.transitFull vf p) = true then some .narrow
    else none

/-- Where an engine's access leads, and what stops it on its way. -/
def State.reach (s : State) (vf core va n : Nat) (kind : AccKind) (priv : Bool) : Where × List Eff :=
  match s.resolve vf core va n kind priv false with
  | (.at p g, es) => ((s.onWay vf core p).getD (.at p g), es)
  | r => r

/-- Pieces read at their homes through virtual addresses, in order, up to the first that fails: the bytes, what the reads
change, and, after a failure, the pieces left with its reason. -/
def State.moveIn (s : State) (vf core : Nat) (priv : Bool) :
    List (Nat × Nat) → List Byte × List Eff × Option (Where × List (Nat × Nat))
  | [] => ([], [], none)
  | (va, n) :: rest =>
    match s.reach vf core va n .read priv with
    | (.at p _, es) =>
      let s' := applyAll es s
      let (b, k) := s'.atHome vf p n
      let es := es ++ [.draw k]
      let (b', es', r) := State.moveIn (applyAll [.draw k] s') vf core priv rest
      (b ++ b', es ++ es', r)
    | (w, es) => ([], es, some (w, (va, n) :: rest))

/-- Bytes to be written at an address: of a byte in `half` only bits [3:0] are, the rest is as it stands (R367). -/
def keepNibbles (half : List Nat) (va : Nat) (old new : List Byte) : List Byte :=
  new.zipIdx.map fun (b, i) =>
    if half.contains (va + i) then ((old.getD i 0) &&& 0xF0#8) ||| (b &&& 0x0F#8) else b

/-- Pieces written at their homes, in order, up to the first that fails. -/
def State.moveOut (s : State) (t : Tid) (priv full : Bool) (half : List Nat) :
    List (Nat × List Byte) → List Eff × Option (Where × List (Nat × List Byte))
  | [] => ([], none)
  | (va, bs) :: rest =>
    match s.reach t.vf t.core va bs.length .write priv with
    | (.at p _, es) =>
      let s' := applyAll es s
      let bs := if half = [] then bs else keepNibbles half va (s'.atHome t.vf p bs.length).1 bs
      let new := bs.zipIdx.map fun (b, i) => (i, b)
      let es' := s'.toHome t p new full ++ s'.refresh t p new
      let (es'', r) := State.moveOut (applyAll es' s') t priv full half rest
      (es ++ es' ++ es'', r)
    | (w, es) => (es, some (w, (va, bs) :: rest))

/-- Bytes laid on the pieces of a run. -/
def layOn : List (Nat × Nat) → List Byte → List (Nat × List Byte)
  | [], _ => []
  | (va, n) :: rest, bs => (va, bs.take n) :: layOn rest (bs.drop n)

/-- Bytes read at their homes through virtual addresses, with what the walks change; or the first address that fails. -/
def State.readVirt (s : State) (vf core va n : Nat) (priv : Bool) : Except (Where × Nat) (List Byte × List Eff) :=
  match s.moveIn vf core priv (piecesOf va n) with
  | (b, es, none) => .ok (b, es)
  | (_, _, some (w, l)) => .error (w, (l.head?.map (·.1)).getD va)

/-- Bytes written at their homes through virtual addresses. -/
def State.writeVirt (s : State) (t : Tid) (va : Nat) (bs : List Byte) (priv full : Bool) :
    Except (Where × Nat) (List Eff) :=
  match s.moveOut t priv full [] (layOn (piecesOf va bs.length) bs) with
  | (es, none) => .ok es
  | (_, some (w, l)) => .error (w, (l.head?.map (·.1)).getD va)

/-! ### A packet that meets a fault at its home (R192) -/

/-- A token kept by a thread that ends has been given back (R168, R292). -/
def State.haltToken (s : State) (f : Flight) (object : Nat) : List Eff :=
  let e : Eff := .slot f.tid fun x => { x with tokens := x.tokens.filter (·.object != object) }
  e :: finishHalt (e.apply s) f.tid

/-- Where the instruction of a number stands and its words: a store without an operation is one word long. -/
def Slot.place (x : Slot) (seq : Nat) : Word × Nat :=
  match x.opOf seq with
  | some o => (o.pc, o.words)
  | none => (x.pc - 4, 1)

/-- A packet refused (R122): it is dropped without effect. -/
def State.refusePacket (s : State) (f : Flight) : List Eff :=
  .drop f.id ::
    (match f.pk with
      | .sync r =>
        if r.halt then s.haltToken f r.object else s.partDone f.tid f.seq fun o => { o with dropped := true }
      | _ => s.partDone f.tid f.seq fun o => { o with dropped := true })

/-- The packet waits at its home; its slot holds the fault or waits for the frame. A pager's own is refused at once. -/
def State.holdFlight (s : State) (f : Flight) (w : Where) (va : Nat) (kind : AccKind) : List Eff :=
  let t := f.tid
  let x := s.slotOf t
  let (pc, words) := x.place f.seq
  let h : Held :=
    { seq := f.seq, va := va, cause := 0, frame := 0, kind := kind, pc := pc, words := words,
      part := none, flight := some f.id, woken := false }
  match w with
  | .frame n => s.hold t [{ h with frame := n }]
  | .fault c =>
    if s.isPager t then
      let es := s.hold t [{ h with cause := c }] ++ s.refusePacket f
      es ++ (applyAll es s).settle t
    else s.hold t [{ h with cause := c }]
  | _ => []

/-- What a packet meets at its home: nothing changes while its translation is held at a narrow (R12). -/
def unlessHeld (mnemonic : String) (w : Where) (es : List Eff) : Plan :=
  match w with
  | .narrow => .error (.event mnemonic)
  | _ => .ok es

/-- An instruction that cannot issue because something it reads first faults or lies on a missing frame: it stays at pc
and issues afresh once the slot no longer holds the fault (R76, R118, R143). -/
def State.stallOn (s : State) (t : Tid) (w : Where) (va words : Nat) (kind : AccKind) : List Eff :=
  let x := s.slotOf t
  let h : Held :=
    { seq := x.seq, va := va, cause := 0, frame := 0, kind := kind, pc := x.pc, words := words,
      part := none, flight := none, woken := false }
  let fault (c : Nat) : List Eff :=
    let es := s.hold t [{ h with cause := c }]
    es ++ (applyAll es s).settle t
  match w with
  | .frame n => s.hold t [{ h with frame := n }]
  | .fault c => fault c
  -- it waits at the hub for 10 µs, and then its cause is LINK (R17)
  | .away _ =>
    match x.hub with
    | none => [.slot t fun x => { x with hub := some s.cycle }]
    | some c => if c + hubWait ≤ s.cycle then .slot t (fun x => { x with hub := none }) :: fault cLINK else []
  | _ => []

/-! ### Acquire and release in the core -/

/-- An ACQ or a BAR wait at isle scope or wider empties the fetch buffer, however it ends (R262). -/
def emptyFetch (t : Tid) (scope : Nat) : List Eff :=
  if scope = 0 then [] else [.core t.vf t.core fun c => { c with fetched := [] }]

/-- A core's lines of a range, or every line. -/
def State.linesIn (s : State) (vf core : Nat) (range : Option (Nat × Nat)) : L1Line → Bool :=
  match range, s.vdAt vf with
  | some (lo, hi), some v => v.l1In core lo hi
  | _, _ => fun _ => true

/-- The part of REL and FENCE done in the core: at isle scope or wider its dirty bytes are written back (Table 8.4). -/
def State.release (s : State) (t : Tid) (scope : Nat) (range : Option (Nat × Nat)) : List Eff :=
  if scope = 0 then [] else s.cleanL1 t.vf t.core (s.linesIn t.vf t.core range) true

/-- An acquire in the core (Table 8.4): at isle scope or wider L1 lines of the region leave and the fetch buffer is
emptied (R262); at dev scope or wider the die's visitor lines are dropped, the region cache is emptied (R141, R145) and
a new RGNTAB takes effect (R286). -/
def State.acquire (s : State) (t : Tid) (scope : Nat) (range : Option (Nat × Nat)) : List Eff :=
  if scope = 0 then []
  else
    s.cleanL1 t.vf t.core (s.linesIn t.vf t.core range) false ++
      [.core t.vf t.core fun c => { c with fetched := [] }] ++
      (if scope < 3 then [] else
        match s.vdAt t.vf with
        | some v =>
          let die := dieOf (v.coreNo t.core)
          [.vd t.vf (fun v => { v with visitors := v.visitors.filter (·.die != die) }),
           .core t.vf t.core fun c => { c with regions := [], table := v.rgntab }]
        | none => [])

end Sys2Proof.Machine
end

