-- ==== Sys2Proof/Machine/Arrive.lean ====
section
/-! DEFINITION. Accesses arrive at their places (R157, R171, R175): in the transit buffer (R66), at words whose bits they
wait for (R326, R328), or over a strait at a frame that is gone (R26). -/

namespace Sys2Proof.Machine

/-- An access already sent over a strait meets a frame that has been withdrawn: it fails at its origin with cause LINK (R26).
A pager's own is refused at once (R120). -/
def State.lostAway (s : State) (f : Flight) (p : Part) : List Eff :=
  let t := f.tid
  let (pc, words) := (s.slotOf t).place f.seq
  let es := .drop f.id :: s.hold t [
    { seq := f.seq, va := p.first, cause := cLINK, frame := 0, kind := p.kind, pc := pc, words := words, part := some p,
      flight := none, woken := false }]
  if s.isPager t then
    let es := es ++ s.partDone t f.seq fun o => { o with dropped := true }
    es ++ (applyAll es s).settle t
  else es

/-- The operation of a refused part: it counts as performed, and nothing is written. -/
def State.dropPart (s : State) (t : Tid) (seq : Nat) : List Eff := s.partDone t seq fun o => { o with dropped := true }

/-- A part translates afresh and leaves for its place, or is held anew (R121). What issue would have checked and done is checked
and done now, at the level the slot has now (DESIGN CHOICE, log entry 124): a store or an atomic to a page that has become GD
needs its token (R318), and a load of bounded sums sends the core's own first (R179). A part that a walk has held keeps its
turn, by its packet's number, unless it has to follow such sums. -/
def State.tryPart (s : State) (t : Tid) (h : Held) (p : Part) (id : Option Nat) : List Eff :=
  let gone := id.toList.map Eff.drop
  let (w, es) := s.routePart t (s.slotOf t).priv p
  let s' := applyAll es s
  match w, lacksToken (s.slotOf t) p w with
  | .at _ _, some va => gone ++ es ++ .slot t (fun x => x.denyToken { h with va := va }) :: s'.dropPart t h.seq
  | .at q _, none =>
    let sums := s'.sendSums t (sumReads [(p, w, [])])
    let pk := s'.outPacket p q
    es ++ sums ++
      (match id, sums with
        | some i, [] => [.swap i pk]
        | _, _ => gone ++ [.send t h.seq 0 pk])
  | .fault c, _ =>
    let es := gone ++ es ++ s'.hold t [{ h with cause := c, frame := 0, woken := false }]
    if s.isPager t then es ++ (applyAll es s).dropPart t h.seq else es
  | .frame n, _ => gone ++ es ++ s'.hold t [{ h with cause := 0, frame := n, woken := false }]
  | .narrow, _ => gone ++ es ++ [.send t h.seq 0 (.walk p)]
  | _, _ => gone ++ .slot t (·.refuse h) :: s'.dropPart t h.seq

/-- An access whose walk a narrow has held goes on (R12). -/
def State.walkOn (s : State) (f : Flight) (p : Part) : List Eff :=
  let t := f.tid
  let (pc, words) := (s.slotOf t).place f.seq
  let es := s.tryPart t
    { seq := f.seq, va := p.first, cause := 0, frame := 0, kind := p.kind, pc := pc, words := words, part := some p,
      flight := none, woken := false } p (some f.id)
  es ++ (applyAll es s).settle t

/-- A part is performed at its place. -/
def State.atPlace (s : State) (f : Flight) (w : Part) (p : Place) : List Eff :=
  let lost := match p with | .remote dev tpa => Config.remoteLost dev tpa s.cycle | _ => false
  if lost then s.lostAway f w
  else
    .drop f.id ::
      match w with
      | .access a => s.perform f a p
      | .atomic r => s.performAtomic f r p

/-- An acquire that can wait for a token: one in write mode of a GUARDED or HALO region; any other acts as one in read mode,
which has no timeout (R163, R164). -/
def State.waitsForToken (s : State) (t : Tid) (r : SyncReq) : Bool :=
  r.write &&
    match s.lookRegion t.vf t.core r.handle with
    | .region (some g) _ => (g.kind == 1 || g.kind == 2) && g.fits (s.coreAt t.vf t.core)
    | _ => false

/-- A request on its way that no timeout ends: an arrival at a barrier is counted whenever it comes (R109, R239), and an
acquire that waits for no token is done whenever it comes. -/
def State.unlimited (s : State) (f : Flight) : Bool :=
  match f.pk with
  | .barrier _ form _ _ => form != 2
  | .sync r => !s.waitsForToken f.tid r
  | _ => false

/-- The timeout of a packet's instruction has expired (R106). -/
def State.overdue (s : State) (f : Flight) : Bool :=
  match (s.slotOf f.tid).opOf f.seq with
  | some o => !s.inTime f.tid o
  | none => false

/-- A packet whose instruction's timeout has expired on its way, so that it is not done any more (R106). -/
def State.late (s : State) (f : Flight) : Bool := s.overdue f && !s.unlimited f

/-- An LDF or a VLDF that comes to its word: it is performed, or waits there; one whose timeout has expired stays for its
WAIT_TIMEOUT (R106), and one whose thread has ended goes (R168). -/
def State.atWord (s : State) (f : Flight) (a : Access) (p : Place) : Option (List Eff) :=
  if ((s.slotOf f.tid).opOf f.seq).isNone then some [.drop f.id]
  else if s.late f then none
  else if s.allFull f.tid.vf a p && s.firstWaiter f a p then some (s.atPlace f (.access a) p)
  else some (repack f.id (.wanting a p) s)

/-- An access that has come to its place; none while its instruction's timeout has expired. -/
def State.arrives (s : State) (f : Flight) (w : Part) (p : Place) : Option (List Eff) :=
  match w with
  | .access a =>
    (match a.op with
      | .loadFull _ => s.atWord f a p
      | _ => some (s.atPlace f w p))
  | .atomic _ => some (s.atPlace f w p)

/-- An access or an atomic at its place, or in an entry of the transit buffer while its device has no way there. One toward a
module whose straits have fallen since it was sent waits at the hub (R17). -/
def State.toPlace (s : State) (mnemonic : String) (f : Flight) (w : Part) (p : Place) : Plan :=
  if (match p with | .remote dev _ => !s.routeReady dev | _ => false) then
    .ok [.swap f.id (.route (match p with | .remote dev _ => dev | _ => 0) w p)]
  else if s.throughTransit f p then
    when mnemonic (decide ((s.transits p.home).length < 16)) [.swap f.id (.transit w p)]
  else
    match s.arrives f w p with
    | some es => .ok es
    | none => .error (.event mnemonic)

def planAccess (s : State) : Plan :=
  match s.delivering with
  | some f =>
    match f.pk with
    | .access a p => s.toPlace "MEMORY_ACCESS_AT_PLACE" f (.access a) p
    | .walk (.access a) => .ok (s.walkOn f (.access a))
    | _ => .error (.event "MEMORY_ACCESS_AT_PLACE")
  | none => .error (.event "MEMORY_ACCESS_AT_PLACE")

def execMemoryAccessAtPlace (s : State) := run (planAccess s) s

def planAtomic (s : State) : Plan :=
  match s.delivering with
  | some f =>
    match f.pk with
    | .atomic r p => s.toPlace "ATOMIC_AT_PLACE" f (.atomic r) p
    | .walk (.atomic r) => .ok (s.walkOn f (.atomic r))
    | _ => .error (.event "ATOMIC_AT_PLACE")
  | none => .error (.event "ATOMIC_AT_PLACE")

def execAtomicAtPlace (s : State) := run (planAtomic s) s

/-! ### The transit buffer (R66) -/

/-- The oldest request that waits for an entry of a slice's transit buffer. -/
def State.nextTransit (s : State) (slice : Nat) : Option (Nat × Part × Place) :=
  s.flights.findSome? fun g =>
    let wants (p : Part) (q : Place) : Option (Nat × Part × Place) :=
      if q.home = slice ∧ s.throughTransit g q = true ∧ s.deliverable g = true then some (g.id, p, q) else none
    match g.pk with
    | .access a q => wants (.access a) q
    | .atomic r q => wants (.atomic r) q
    | _ => none

/-- Entry `id` of a slice's transit buffer is answered and frees; the oldest request that waits takes it (R66). -/
def planTransit (slice id : Nat) (s : State) : Plan :=
  match s.flightAt id with
  | some f =>
    match f.pk with
    | .transit w p =>
      let first := s.flights.all fun g => decide (id ≤ g.id) || g.tid.core != f.tid.core || g.tid.vf != f.tid.vf ||
        (match g.pk with | .transit _ q => q.home != p.home | _ => true)
      (match if p.home = slice ∧ first = true ∧ s.waiting f = false then s.arrives f w p else none with
        | some es =>
          .ok (es ++
            (match s.nextTransit slice with
              | some (g, w', q) => [.swap g (.transit w' q)]
              | none => []))
        | none => .error (.event "TRANSIT_ENTRY_FREE"))
    | _ => .error (.event "TRANSIT_ENTRY_FREE")
  | none => .error (.event "TRANSIT_ENTRY_FREE")

def execTransitEntryFree (slice id : Nat) (s : State) := run (planTransit slice id s) s

/-! ### Replies (R96) -/

/-- A reply at its slot: the operation whose parts have all been performed is finished (R96, R126). The reply of a thread
that has ended is lost (R292). It waits for every die that it comes from (R12). -/
def replyPlan (name : String) (pk : Packet) (s : State) : Plan :=
  match s.flightAt s.turn with
  | some f =>
    if f.pk = pk ∧ f.notBefore ≤ s.cycle ∧ s.narrowDown f = false then
      match (s.slotOf f.tid).opOf f.seq with
      | some o => .ok (.drop f.id :: finishOp f.tid o)
      | none => .ok [.drop f.id]
    else .error (.event name)
  | none => .error (.event name)

def execClassVReply (s : State) := run (replyPlan "CLASS_V_REPLY" .vreply s) s
def execScalarLoadReply (s : State) := run (replyPlan "SCALAR_LOAD_REPLY" .sreply s) s

end Sys2Proof.Machine
end

