-- ==== Sys2Proof/Machine/Sync.lean ====
section
/-! DEFINITION. Acquire, release and fence, write tokens and halo strips (R159 to R170, R177, R333 to R336). -/

namespace Sys2Proof.Machine

/-! ### Issue (R333, R334, R336) -/

/-- The operand of Table 8.2. -/
def syncReq (rel write yield : Bool) (w : Word) (scope : Nat) : SyncReq where
  rel := rel
  write := write
  yield := yield
  handle := bits w.toNat 11 0
  row := bits w.toNat 27 12
  col := bits w.toNat 43 28
  scope := scope
  halt := false
  object := 0
  stage := 0

/-- ACQ and REL leave for their object; the slot stalls until s[d] is written. The holds of R162 and R163 have been met
when the instruction issues. -/
def syncIssue (i : Instr) (rel write yield : Bool) (d a : SReg) (scope te : Nat) (s : State) : Plan :=
  issuing s fun t x =>
    let w := x.rs a
    if bits w.toNat 63 44 ≠ 0 then trap s t cILLEGAL (wordZero i) 1
    else
      let o := { stallOp s x [(d, 0)] with left := 1, deadline := if write then deadline s.cycle te else none }
      [.slot t (fun x => x.start o), .send t x.seq 0 (.sync (syncReq rel write yield w scope))]

def execAcqRead (d a : SReg) (scope : BitVec 3) (s : State) :=
  run (syncIssue (.acqRead d a scope) false false false d a scope.toNat 31 s) s
def execAcqWrite (d a : SReg) (scope : BitVec 3) (te : BitVec 5) (s : State) :=
  run (syncIssue (.acqWrite d a scope te) false true false d a scope.toNat te.toNat s) s
def execRel (d a : SReg) (scope : BitVec 3) (s : State) :=
  run (syncIssue (.rel d a scope) true false false d a scope.toNat 31 s) s
def execRelYield (d a : SReg) (scope : BitVec 3) (s : State) :=
  run (syncIssue (.relYield d a scope) true false true d a scope.toNat 31 s) s

/-- FENCE (R177): the thread's earlier accesses have been performed when it issues; its dirty L1 bytes are written
back. -/
def execFence (scope : BitVec 3) (s : State) :=
  run (issuing s fun t x => s.release t scope.toNat none ++ [.slot t (·.advance (x.after 1))]) s

/-! ### The object (Table 8.1) -/

/-- The result of Table 8.3. -/
def syncResult (status rels : Nat) : Word := BitVec.ofNat 64 (status + (if status = stOK then rels * 2 ^ 32 else 0))

/-- Word 0 with its fields: the holder by core offset, slot and GEN. -/
def objectWord (rels : Nat) (holder : Option (Nat × Nat × Nat)) : Nat :=
  rels % 2 ^ 32 + match holder with
    | some (core, slot, gen) => 2 ^ 32 + core % 1024 * 2 ^ 33 + slot % 4 * 2 ^ 43 + gen % 65536 * 2 ^ 45
    | none => 0

/-- The holder of word 0. -/
def holderOf (w : Nat) : Option (Nat × Nat × Nat) :=
  if bit w 32 then some (bits w 42 33, bits w 44 43, bits w 60 45) else none

/-- A thread as a holder. -/
def State.holderOfTid (s : State) (t : Tid) : Nat × Nat × Nat := (t.core, t.slot, (s.slotOf t).gen.toNat)

/-- The range a token covers (R167): a GUARDED region, or a HALO tile's interior. -/
def tokenRange (g : Region) (row col : Nat) : Nat × Nat :=
  if g.kind = 2 then
    let h := haloOf g.kindf
    let lo := g.base + (row * h.gc + col) * h.tileBytes
    (lo, lo + h.tileBytes)
  else (g.base, g.base + g.size)

/-- The record of a granted token. -/
def newToken (g : Region) (r : SyncReq) (object : Nat) : Token :=
  let (lo, hi) := tokenRange g r.row r.col
  ⟨lo, hi, object, r.handle, g.kind == 2, g.scope, r.row, r.col⟩

/-! ### Halo strips (R146, R169, R170) -/

/-- Rows r0 … of columns c0 … of tile (i, j), as runs of addresses and lengths. -/
def tileRuns (g : Region) (h : Halo) (i j r0 nr c0 nc : Nat) : List (Nat × Nat) :=
  (List.range nr).map fun k =>
    (g.base + (i * h.gc + j) * h.tileBytes + ((r0 + k) * h.tc + c0) * h.e, nc * h.e)

/-- Runs read at their homes, one after another. -/
def State.readRuns (s : State) (t : Tid) (priv : Bool) (l : List (Nat × Nat)) :
    Except (Where × Nat) (List Byte × List Eff) :=
  match s.moveIn t.vf t.core priv (l.flatMap fun (a, n) => piecesOf a n) with
  | (b, es, none) => .ok (b, es)
  | (_, _, some (w, l)) => .error (w, (l.head?.map (·.1)).getD 0)

/-- The offsets of the four strips. -/
def Halo.north (h : Halo) : Nat := h.spoff
def Halo.south (h : Halo) : Nat := h.spoff + h.hn * h.tc * h.e
def Halo.west (h : Halo) : Nat := h.spoff + (h.hn + h.hs) * h.tc * h.e
def Halo.east (h : Halo) : Nat := h.west + h.tr * h.hw * h.e

/-- The pushes of tile (i, j): neighbour, strip offset there, and the runs of (i, j) it carries (R169). -/
def pushesOf (g : Region) (h : Halo) (i j : Nat) : List ((Nat × Nat) × Nat × List (Nat × Nat)) :=
  (if i + 1 < h.gr then [((i + 1, j), h.north, tileRuns g h i j (h.tr - h.hn) h.hn 0 h.tc)] else []) ++
  (if 0 < i then [((i - 1, j), h.south, tileRuns g h i j 0 h.hs 0 h.tc)] else []) ++
  (if j + 1 < h.gc then [((i, j + 1), h.west, tileRuns g h i j 0 h.tr (h.tc - h.hw) h.hw)] else []) ++
  (if 0 < j then [((i, j - 1), h.east, tileRuns g h i j 0 h.tr 0 h.he)] else [])

/-- The strips that the holder of tile (i, j) is filled with (R170): offset and runs of the neighbours. -/
def fillsOf (g : Region) (h : Halo) (i j : Nat) : List (Nat × List (Nat × Nat)) :=
  (if 0 < i then [(h.north, tileRuns g h (i - 1) j (h.tr - h.hn) h.hn 0 h.tc)] else []) ++
  (if i + 1 < h.gr then [(h.south, tileRuns g h (i + 1) j 0 h.hs 0 h.tc)] else []) ++
  (if 0 < j then [(h.west, tileRuns g h i (j - 1) 0 h.tr (h.tc - h.hw) h.hw)] else []) ++
  (if j + 1 < h.gc then [(h.east, tileRuns g h i (j + 1) 0 h.tr 0 h.he)] else [])

/-- Bytes into a core's scratchpad, each word set full. -/
def stripEff (vf core off : Nat) (bs : List Byte) : Eff :=
  .core vf core fun c => bs.zipIdx.foldl (fun c (b, i) =>
    if off + i < c.spSize then ({ c with sram := writeCell c.sram (off + i) b } : Core).setFull (off + i) true else c) c

/-- The pushes leave for the neighbours' token holders, as their objects name them now. -/
def State.pushes (s : State) (t : Tid) (seq : Nat) (priv : Bool) (g : Region) (h : Halo) (i j : Nat) :
    Except (Where × Nat) (List Eff) :=
  (pushesOf g h i j).foldlM (fun es ((ni, nj), off, runs) => do
    let (w, e1) ← (applyAll es s).readVirt t.vf t.core (g.sync + 64 * (ni * h.gc + nj)) 8 priv
    match holderOf (leNat w) with
    | some (core, _, _) =>
      let (b, e2) ← (applyAll (es ++ e1) s).readRuns t priv runs
      return es ++ e1 ++ e2 ++ [.send t seq 0 (.halo core off b)]
    | none => return es ++ e1) []

def planHaloPush (s : State) : Plan :=
  match s.delivering with
  | some f =>
    match f.pk with
    | .halo core off b => .ok [.drop f.id, stripEff f.tid.vf core off b]
    | _ => .error (.event "HALO_PUSH")
  | none => .error (.event "HALO_PUSH")

def execHaloPush (s : State) := run (planHaloPush s) s

/-! ### The step at the object (R159 to R168) -/

/-- The request is answered without effect. -/
def State.syncEnd (s : State) (f : Flight) (status : Nat) : List Eff :=
  .drop f.id :: (match f.pk with | .sync r => if r.rel then [] else emptyFetch f.tid r.scope | _ => []) ++
    s.partDone f.tid f.seq (·.setS0 (syncResult status 0))

/-- The tokens that a core's threads hold. -/
def Core.tokens (c : Core) : List Token := (List.range 4).flatMap fun k => (c.slotAt k).tokens

/-- A core that holds some tokens may not take one more: another tile of the HALO region is among them, or they are eight
(R146, R164, R167). -/
def tokenDenied (held : List Token) (k : Token) : Bool :=
  (k.halo && held.any fun q => q.object != k.object && q.handle == k.handle && q.halo) || decide (8 ≤ held.length)

/-- The waiter that an object's token goes to when its holder yields: the oldest whose core, which may be the holder's, may
still take it; the ones before it are DENIED (log entry 95). -/
def State.nextWaiter (s : State) : List TokenWaiter → List TokenWaiter × Option (TokenWaiter × List TokenWaiter)
  | [] => ([], none)
  | w :: rest =>
    if tokenDenied ((s.coreAt w.tid.vf w.tid.core).tokens.filter (·.object != w.token.object)) w.token then
      let (ds, r) := State.nextWaiter s rest
      (w :: ds, r)
    else ([], some (w, rest))

/-- A waiter that is not granted its token. -/
def State.denyWaiter (s : State) (w : TokenWaiter) : List Eff :=
  emptyFetch w.tid w.req.scope ++
    s.partDone w.tid w.seq fun o => ({ o with wait := .none } : Op).setS0 (syncResult stDENIED 0)

/-- A waiter is granted the token: its range is recorded, its acquire takes effect in its core, and it completes, or, on
a HALO region, first fills its strips. Where its descriptor cannot be read any more, what it asked for stands. -/
def State.grantWaiter (s : State) (w : TokenWaiter) (object rels : Nat) : List Eff :=
  let (k, range, fills) : Token × (Nat × Nat) × Bool :=
    match s.lookRegion w.tid.vf w.tid.core w.req.handle with
    | .region (some g) _ => (newToken g w.req object, (g.base, g.base + g.size), g.kind == 2)
    | _ => (w.token, (w.token.lo, w.token.hi), false)
  .slot w.tid (fun x => ({ x with tokens := x.tokens ++ [k] }).modOp w.seq fun o =>
      ({ o with wait := .none, deadline := none } : Op).setS0 (syncResult stOK rels)) ::
    s.acquire w.tid w.req.scope (some range) ++
    (if fills then [.send w.tid w.seq 0 (.sync { w.req with stage := 3, object := object })]
    else s.partDone w.tid w.seq (·.setS0 (syncResult stOK rels)))

/-- The threads that wait for an object's token, in arrival order (R164). -/
def VD.setWaiters (v : VD) (object : Nat) (l : List TokenWaiter) : VD :=
  { v with waiters := if l = [] then erase v.waiters object else put v.waiters object l }

def VD.addWaiter (v : VD) (object : Nat) (w : TokenWaiter) : VD :=
  v.setWaiters object ((lookup v.waiters object).getD [] ++ [w])

/-- A token request by R164, on an object whose word is w: the new word, and what follows. -/
def State.tokenRequest (s : State) (f : Flight) (r : SyncReq) (g : Region) (object w : Nat) (remote : Bool) :
    Option Nat × List Eff :=
  let t := f.tid
  let rels := w % 2 ^ 32
  let me := s.holderOfTid t
  let k := newToken g r object
  let done (es : List Eff) : List Eff :=
    .drop f.id :: es ++ s.acquire t r.scope (some (g.base, g.base + g.size)) ++
      s.partDone t f.seq (·.setS0 (syncResult stOK rels))
  if remote then (none, s.syncEnd f stDENIED)
  else if holderOf w = some me then (none, done [])
  else if tokenDenied (s.coreAt t.vf t.core).tokens k then (none, s.syncEnd f stDENIED)
  else if bit w 32 = false then
    let keep : Eff := .slot t fun x => { x with tokens := x.tokens ++ [k] }
    (some (objectWord rels (some me)),
      if g.kind = 2 then
        keep :: s.acquire t r.scope (some (g.base, g.base + g.size)) ++
          [.slot t fun x => x.modOp f.seq fun o => { o.setS0 (syncResult stOK rels) with deadline := none }] ++
          repack f.id (.sync { r with stage := 3, object := object }) s
      else done [keep])
  else
    (none, [.drop f.id, .slot t (fun x => x.modOp f.seq fun o => { o with wait := .token { r with object := object } }),
      .vd t.vf fun v => v.addWaiter object ⟨t, f.seq, r, k⟩])

/-- A request at its object once everything before its step 4 has been done: the object's word is read and written in
one step. -/
def State.atObject (s : State) (f : Flight) (r : SyncReq) (g : Option Region) (object : Nat) : List Eff :=
  let t := f.tid
  let priv := (s.slotOf t).priv
  match s.resolve t.vf t.core object 8 .atomic priv true with
  | (.at p _, es) =>
    let remote := match p with | .remote _ _ => true | _ => false
    let (b, k) := s.atHome t.vf p 8
    let w := leNat b
    let rels := w % 2 ^ 32
    let store (x : Nat) : List Eff := s.toHome t p ((leBytes 8 x).zipIdx.map fun (b, i) => (i, b)) false
    es ++ .draw k ::
      (if bits w 63 61 ≠ 0 then (if r.halt then .drop f.id :: s.haltToken f object else s.syncEnd f stDENIED)
      else if r.rel then
        let mine := holderOf w = some (s.holderOfTid t)
        if r.yield ∧ mine then
          let ws := (lookup (match s.vdAt t.vf with | some v => v.waiters | none => []) object).getD []
          let gone : Eff := .slot t fun x => { x with tokens := x.tokens.filter (·.object != object) }
          let (denied, next) := s.nextWaiter ws
          denied.flatMap s.denyWaiter ++
          (match next with
            | some (q, rest) =>
              store (objectWord (rels + 1) (some (s.holderOfTid q.tid))) ++
                [.vd t.vf fun v => v.setWaiters object rest] ++
                s.grantWaiter q object (rels + 1)
            | none => store (objectWord (rels + 1) none) ++ [.vd t.vf fun v => v.setWaiters object []]) ++
            (.drop f.id ::
              if r.halt then s.haltToken f object
              else gone :: s.partDone t f.seq (·.setS0 (syncResult stOK rels)))
        else
          store (objectWord (rels + 1) (holderOf w)) ++
            (.drop f.id ::
              if r.halt then s.haltToken f object
              else s.partDone t f.seq (·.setS0 (syncResult (if r.yield then stDENIED else stOK) rels)))
      else
        match g with
        | some g =>
          if r.write ∧ (g.kind = 1 ∨ g.kind = 2) then
            let (new, es) := s.tokenRequest f r g object w remote
            (match new with | some x => store x | none => []) ++ es
          else
            .drop f.id :: s.acquire t r.scope (some (g.base, g.base + g.size)) ++
              s.partDone t f.seq (·.setS0 (syncResult stOK rels))
        | none => s.syncEnd f stBADH)
  | (.addr, _) => if r.halt then .drop f.id :: s.haltToken f object else s.syncEnd f stBADH
  | (w, es) => es ++ s.holdFlight f w object .atomic

/-- A granted HALO acquire fills its strips and completes (R170). -/
def State.fillStrips (s : State) (f : Flight) (r : SyncReq) (g : Region) : Plan :=
  let t := f.tid
  let priv := (s.slotOf t).priv
  let h := haloOf g.kindf
  let r := (fillsOf g h r.row r.col).foldlM (fun (es : List Eff) (off, runs) => do
    let (b, e) ← (applyAll es s).readRuns t priv runs
    return es ++ e ++ [stripEff t.vf t.core off b]) []
  match r with
  | .ok es => .ok (.drop f.id :: es ++ s.partDone t f.seq id)
  | .error (.addr, _) => .ok (.drop f.id :: s.partDone t f.seq id)
  | .error (w, va) => unlessHeld "SYNC_OP_AT_OBJECT" w (s.holdFlight f w va .read)

/-- A REL's steps 1 to 3 (R162): dirty bytes of X written back, withheld sums sent, halo pushes started; each leaves the
packet at its next stage. Once nothing is left of them, the REL is performed at its object. -/
def State.relStages (s : State) (f : Flight) (r : SyncReq) (g : Option Region) (object : Nat) : Plan :=
  let t := f.tid
  let x := s.slotOf t
  let range := match g with
    | some g => some (g.base, g.base + g.size)
    | none => (x.tokens.find? (·.object == object)).map fun k => (k.lo, k.hi)
  let lines := match g with
    | some g => if g.kind = 3 then (s.coreAt t.vf t.core).sums.filter fun l => l.handle == r.handle else []
    | none => []
  let holds := x.tokens.any fun k => k.object == object && k.halo
  -- the stores to a tile whose strips are to be pushed are acknowledged first, at whatever scope (R169)
  let tile : List Eff := match g with
    | some g => if g.kind = 2 ∧ holds = true then
        let (lo, hi) := tokenRange g r.row r.col
        s.cleanL1 t.vf t.core (s.linesIn t.vf t.core (some (lo, hi))) true
      else []
    | none => []
  let pending := s.flights.any fun q => q.tid.vf == t.vf && q.tid.core == t.core &&
    (match q.pk with
      | .partialSum h _ _ _ _ => h == r.handle
      | .halo .. => q.seq == f.seq && q.tid.slot == t.slot
      | _ => false)
  if pending || r.halt && s.unperformedBefore t f.seq then .error (.event "SYNC_OP_AT_OBJECT")
  else if r.stage < 1 then
    .ok (s.release t r.scope range ++ tile ++ sumDrains (s.sumTid t) (lines.filter (·.lanes != [])) false ++
      (if lines = [] then [] else
        [.core t.vf t.core fun c => { c with sums := c.sums.map fun l => if l.handle = r.handle then l.sent else l }]) ++
      repack f.id (.sync { r with stage := 1, object := object }) s)
  else if r.stage < 2 then
    match g with
    | some g =>
      if g.kind = 2 ∧ holds = true then
        match s.pushes t f.seq x.priv g (haloOf g.kindf) r.row r.col with
        | .ok es => .ok (es ++ repack f.id (.sync { r with stage := 2, object := object }) s)
        | .error (.addr, _) => .ok (repack f.id (.sync { r with stage := 2, object := object }) s)
        | .error (w, va) => unlessHeld "SYNC_OP_AT_OBJECT" w (s.holdFlight f w va .read)
      else .ok (repack f.id (.sync { r with stage := 2, object := object }) s)
    | none => .ok (repack f.id (.sync { r with stage := 2, object := object }) s)
  else .ok (s.atObject f r g object)

def planSync (s : State) : Plan :=
  match s.delivering with
  | some f =>
    match f.pk with
    | .sync r =>
      let t := f.tid
      let look := s.lookRegion t.vf t.core r.handle
      -- an acquire that waits for a token and whose timeout has expired on its way stays for its WAIT_TIMEOUT (R106)
      if s.late f then .error (.event "SYNC_OP_AT_OBJECT") else
      match look with
      | .frame n => .ok (s.holdFlight f (.frame n) 0 .read)
      | .region reg _ =>
        let reg := reg.filter fun g => g.fits (s.coreAt t.vf t.core)
        let es := look.effs t.vf t.core r.handle
        let s := applyAll es s
        match objectOf r reg, r.halt with
        | none, false => .ok (es ++ s.syncEnd f stBADH)
        | none, true => (s.relStages f r none r.object).map (es ++ ·)
        | some (g, o), halt =>
          let o := if halt then r.object else o
          if r.stage = 3 then (s.fillStrips f r g).map (es ++ ·)
          else if r.rel then (s.relStages f r (some g) o).map (es ++ ·)
          else .ok (es ++ s.atObject f r (some g) o)
    | _ => .error (.event "SYNC_OP_AT_OBJECT")
  | none => .error (.event "SYNC_OP_AT_OBJECT")

def execSyncOpAtObject (s : State) := run (planSync s) s

end Sys2Proof.Machine
end

