-- ==== Sys2Proof/Machine/Control.lean ====
section
/-! DEFINITION. CSRs (R285 to R287), the waiting and signalling instructions at issue (R294 to R297, R340 to R344), and
the steps that carry signals, messages and CSR accesses (R104, R286, R339). -/

namespace Sys2Proof.Machine

/-! ### CSRs (Table 14.11) -/

/-- SRAMCFG as it reads (Table 3.3). -/
def sramcfg (v : VD) (c : Core) : Nat :=
  c.l1size + bits v.vdlim.toNat 38 36 * 16 + bits v.vdlim.toNat 15 0 * 256

/-- MATQ as it reads (Table 20.4). -/
def matq (c : Core) : Nat :=
  let holder := (List.range 4).find? fun k => (c.slotAt k).claim
  c.queue.length + (if holder.isSome then 8 else 0) + holder.getD 0 * 16 +
    (if (c.queue.head?.map fun o => o.fault.isSome || o.exchange.isSome).getD false then 64 else 0) + (if c.fault then 128 else 0) +
    (if c.rotto then 256 else 0)

/-- The value of a CSR; none for an unassigned number. PAGER and RGNTAB are read at the fault slice. -/
def State.csr (s : State) (t : Tid) (x : Slot) (n : Nat) : Option Word :=
  match s.vdAt t.vf with
  | none => none
  | some v =>
    let c := v.coreAt t.core
    if 0x100 ≤ n ∧ n < 0x108 then some (x.tdim[(n - 0x100) % 8]'(Nat.mod_lt _ (by decide)))
    else if 0x108 ≤ n ∧ n < 0x10C then some (x.adim[(n - 0x108) % 4]'(Nat.mod_lt _ (by decide)))
    else
      match n with
      | 0x001 => some (BitVec.ofNat 64 (s.cycle + (x.team.map (·.dist)).getD 0))
      | 0x002 => some (BitVec.ofNat 64 (v.coreNo t.core))
      | 0x003 => some (BitVec.ofNat 64 t.slot)
      | 0x004 => some (x.rank.setWidth 64)
      | 0x005 => some (x.tsize.setWidth 64)
      | 0x006 => some (x.gen.setWidth 64)
      | 0x010 => some (x.fpflags.setWidth 64)
      | 0x011 => some (x.rmode.setWidth 64)
      | 0x012 => some (x.waitlim.setWidth 64)
      | 0x020 => some (x.trapcause.setWidth 64)
      | 0x021 => some x.trappc
      | 0x022 => some x.trapval
      | 0x023 => some x.trapvec
      | 0x024 => some (x.trapst.setWidth 64)
      | 0x025 => some v.pager
      | 0x026 => some v.rgntab
      | 0x030 => some (BitVec.ofNat 64 (sramcfg v c))
      | 0x10C => some (BitVec.ofNat 64 (matq c))
      | 0x110 => some (BitVec.ofNat 64 c.rampdummy)
      | _ => none

/-- A CSR that no level writes. -/
def csrReadOnly (n : Nat) : Bool := decide (1 ≤ n ∧ n ≤ 6) || n == 0x10C || n == 0x110

/-- U mode may not read it, or may not write it (Table 14.11). -/
def csrPriv (n : Nat) (write : Bool) : Bool :=
  decide (0x020 ≤ n ∧ n ≤ 0x025) || (write && (n == 0x026 || n == 0x030))

/-- The writable fields of TDIM and ADIM (Tables 20.2 and 20.3). -/
def tdimMask : Word := 0x00FFFFFFFFFFFF7F#64
def adimMask : Word := 0x1FFFFFFF01FF7F7F#64

/-- A write to a CSR of the slot: reserved bits are ignored (R6). -/
def Slot.writeCsr (x : Slot) (n : Nat) (w : Word) : Slot :=
  if 0x100 ≤ n ∧ n < 0x108 then
    { x with tdim := x.tdim.set ((n - 0x100) % 8) (w &&& tdimMask) (Nat.mod_lt _ (by decide)) }
  else if 0x108 ≤ n ∧ n < 0x10C then
    { x with adim := x.adim.set ((n - 0x108) % 4) (w &&& adimMask) (Nat.mod_lt _ (by decide)) }
  else
    match n with
    | 0x010 => { x with fpflags := w.setWidth 6 }
    | 0x011 => { x with rmode := w.setWidth 3 }
    | 0x012 => { x with waitlim := w.setWidth 5 }
    | 0x020 => { x with trapcause := w.setWidth 4 }
    | 0x021 => { x with trappc := w &&& ~~~3#64 }
    | 0x022 => { x with trapval := w }
    | 0x023 => { x with trapvec := w &&& 0x00FFFFFFFFFFFFFC#64 }
    | 0x024 => { x with trapst := w.setWidth 8 }
    | _ => x

/-- L1SIZE of R63: limited so that the scratchpad stays within the grant. -/
def limitL1 (v : VD) (l1 : Nat) : Nat := if bits v.vdlim.toNat 38 36 < 7 - l1 then 7 - bits v.vdlim.toNat 38 36 else l1

/-- The split changes (R63): L1's lines are written back and leave; scratchpad bytes that L1 takes are lost, and those
it gives up read zero and empty. -/
def State.setL1size (s : State) (vf core l1 : Nat) : List Eff :=
  s.cleanL1 vf core (fun _ => true) false ++
    [.core vf core fun c =>
      let c := { c with l1size := l1 }
      { c with
        sram := c.sram.filter fun (o, _) => decide (o < c.spSize)
        sramFull := c.sramFull.filter fun w => decide (8 * w < c.spSize) }]

/-- The access to PAGER or RGNTAB leaves for the fault slice; the slot stalls until it answers (R286). -/
def csrRequest (s : State) (t : Tid) (x : Slot) (d : SReg) (n : Nat) (w : Option Word) : List Eff :=
  [.slot t (fun x => x.start { stallOp s x [(d, 0)] with left := 1 }), .send t x.seq 0 (.csr (n == 0x025) w)]

def planMfcsr (d : SReg) (csr : BitVec 12) (s : State) : Plan :=
  issuing s fun t x =>
    let n := csr.toNat
    match s.csr t x n with
    | none => trap s t cILLEGAL (wordZero (.mfcsr d csr)) 1
    | some w =>
      if csrPriv n false && !x.priv then trap s t cPRIV (wordZero (.mfcsr d csr)) 1
      else if n = 0x025 ∨ n = 0x026 then csrRequest s t x d n none
      else [.slot t fun y => (y.setS d w).advance (x.after 1)]

def execMfcsr (d : SReg) (csr : BitVec 12) (s : State) := run (planMfcsr d csr s) s

def planMtcsr (d a : SReg) (csr : BitVec 12) (s : State) : Plan :=
  issuing s fun t x =>
    let n := csr.toNat
    let w := x.rs a
    match s.csr t x n with
    | none => trap s t cILLEGAL (wordZero (.mtcsr d a csr)) 1
    | some old =>
      if csrReadOnly n || (n == 0x011 && decide (5 ≤ w.toNat % 8)) then
        trap s t cILLEGAL (wordZero (.mtcsr d a csr)) 1
      else if csrPriv n true && !x.priv then trap s t cPRIV (wordZero (.mtcsr d a csr)) 1
      else if n = 0x025 ∨ n = 0x026 then csrRequest s t x d n (some w)
      else
        (if n = 0x030 then
          match s.vdAt t.vf with
          | some v =>
            let l1 := limitL1 v (w.toNat % 4)
            if l1 = (v.coreAt t.core).l1size then [] else s.setL1size t.vf t.core l1
          | none => []
        else []) ++
        [.slot t fun y => ((y.writeCsr n w).setS d old).advance (x.after 1)]

def execMtcsr (d a : SReg) (csr : BitVec 12) (s : State) := run (planMtcsr d a csr s) s

/-- PAGER and RGNTAB at the fault slice, in arrival order (R120, R143, R286). -/
def planCsrAccess (s : State) : Plan :=
  match s.delivering with
  | some f =>
    match f.pk with
    | .csr pager w =>
      let first := s.flights.all fun g => decide (f.id ≤ g.id) || g.tid.vf != f.tid.vf ||
        (match g.pk with | .csr p _ => p != pager | _ => true)
      match s.vdAt f.tid.vf, first with
      | some v, true =>
        .ok (.drop f.id ::
          (match w with
            | some w => [.vd f.tid.vf fun v =>
                if pager then { v with pager := w &&& 0x1FFFFFFF#64 } else { v with rgntab := w &&& 0x00FFFFFFFFFC0000#64 }]
            | none => []) ++
          s.partDone f.tid f.seq (·.setS0 (if pager then v.pager else v.rgntab)) ++
          -- lines that the new table describes as storage L1 never holds leave (R138)
          (match w with
            | some w => if pager then [] else
                (applyAll [.vd f.tid.vf fun v => { v with rgntab := w &&& 0x00FFFFFFFFFC0000#64 }] s).purge f.tid.vf
            | none => []))
      | _, _ => .error (.event "FAULT_SLICE_CSR_ACCESS")
    | _ => .error (.event "FAULT_SLICE_CSR_ACCESS")
  | none => .error (.event "FAULT_SLICE_CSR_ACCESS")

def execFaultSliceCsrAccess (s : State) := run (planCsrAccess s) s

/-! ### Sleeping and the matrix claim (R294, R296) -/

/-- SLEEP: a set latch is taken at once; otherwise the slot waits. -/
def planSleep (d : SReg) (te : BitVec 5) (s : State) : Plan :=
  issuing s fun t x =>
    if x.latch then [.slot t fun y => ({ y with latch := false }.setS d 0).advance (x.after 1)]
    else [.slot t fun x => x.start
      { stallOp s x [(d, BitVec.ofNat 64 stOK)] with wait := .latch, deadline := deadline s.cycle te.toNat }]

def execSleep (d : SReg) (te : BitVec 5) (s : State) := run (planSleep d te s) s

/-- The claim is granted: FAULT and ROTTO clear (R364). -/
def Core.grantClaim (c : Core) (slot : Nat) : Core :=
  { c.setSlot slot { c.slotAt slot with claim := true } with
    fault := false, rotto := false, claims := c.claims.filter (·.1 != slot) }

/-- Some slot holds the matrix claim. -/
def Core.claimed (c : Core) : Bool := (List.range 4).any fun k => (c.slotAt k).claim

def planMclaim (d : SReg) (te : BitVec 5) (s : State) : Plan :=
  issuing s fun t x =>
    let c := s.coreAt t.vf t.core
    let now (y : Slot) : Slot := (y.setS d (BitVec.ofNat 64 stOK)).advance (x.after 1)
    if x.claim then [.slot t now]
    else if !c.claimed && c.claims == [] then [.core t.vf t.core (·.grantClaim t.slot), .slot t now]
    else
      [.slot t (fun x => x.start
        { stallOp s x [(d, BitVec.ofNat 64 stOK)] with wait := .claim, deadline := deadline s.cycle te.toNat }),
       .core t.vf t.core fun c => { c with claims := c.claims ++ [(t.slot, x.seq)] }]

def execMclaim (d : SReg) (te : BitVec 5) (s : State) := run (planMclaim d te s) s

def planMfree (s : State) : Plan :=
  issuing s fun t x =>
    if x.claim then [.slot t fun y => { y with claim := false }.advance (x.after 1)]
    else trap s t cCLAIM 0 1

def execMfree (s : State) := run (planMfree s) s

/-! ### Events and wakes (R295, R297) -/

/-- A notice waits at the Holm for room in the tenant's completion ring (R37, R40); its TAG is filled when it is
written. -/
def postNotice (vf status : Nat) (r0 r1 : Word) : Eff :=
  .vd vf fun v =>
    { v with channel := { v.channel with notices := v.channel.notices ++ [completion 0 status 0 r0 r1] } }

/-- The notice of an EVSIG: result 0, and its code in result 1 (R295). -/
def signalNotice (vf : Nat) (notice : Option (Word × Nat)) : List Eff :=
  match notice with
  | some (w, code) => [postNotice vf stOK w (BitVec.ofNat 64 (code + 0xFFFE * 2 ^ 16))]
  | none => []

/-- EVSIG: the thread's earlier accesses have been performed when it issues; the addition is performed, then the notice
posted (R295). -/
def planEvsig (d a : SReg) (code : BitVec 12) (s : State) : Plan :=
  issuing s fun t x =>
    let e := x.rs a
    let n := e.toNat
    let add := bits n 25 18
    if bits n 63 27 ≠ 0 then trap s t cILLEGAL (wordZero (.evsig d a code)) 1
    else
      match if add = 0 then some 0 else s.offset? t.vf (bits n 9 0) with
      | none => trap s t cADDR e 1
      | some core =>
        s.release t 3 none ++
          (let notice := if bit n 26 then some (x.rs d, code.toNat) else none
           if add = 0 then .slot t (·.advance (x.after 1)) :: signalNotice t.vf notice
           else
            [.slot t (fun x => x.start { stallOp s x [] with left := 1 }),
             .send t x.seq 0 (.qsig core (bits n 17 10) add notice)])

def execEvsig (d a : SReg) (code : BitVec 12) (s : State) := run (planEvsig d a code s) s

def planFwake (d a b : SReg) (s : State) : Plan :=
  issuing s fun t x =>
    if x.priv then
      [.slot t (fun x => x.start { stallOp s x [(d, 0)] with left := 1 }),
       .send t x.seq 0 (.fwake (bits (x.rs a).toNat 15 0) (bit (x.rs b).toNat 0))]
    else trap s t cPRIV (wordZero (.fwake d a b)) 1

def execFwake (d a b : SReg) (s : State) := run (planFwake d a b s) s

/-! ### Semaphores (R339 to R341) -/

/-- QWAIT waits on its semaphore; the wait is examined and met by WAIT_CONDITION_MET. -/
def planQwait (f : LM) (s : State) : Plan :=
  issuing s fun t _ =>
    [.slot t fun x => x.start { lmOp s x f [] [(f.sc, 0)] with
      left := 1, wait := .sem f.wq.toNat f.wt.toNat, deadline := deadline s.cycle (f.fn.toNat % 32) }]

def execQwait (f : LM) (s : State) := run (planQwait f s) s

/-- QSIG: earlier accesses have been performed when it issues. -/
def planQsig (f : LM) (s : State) : Plan :=
  issuing s fun t x =>
    let w := x.rs f.sa
    let n := w.toNat
    if bits n 63 19 ≠ 0 then trap s t cILLEGAL (wordZero (.qsig f)) (LM.words f)
    else
      match if bit n 18 then some t.core else s.offset? t.vf (bits n 9 0) with
      | none => trap s t cADDR w (LM.words f)
      | some core =>
        s.release t (f.fn.toNat % 8) none ++
          [.slot t (fun x => x.start { lmOp s x f [] [(f.sc, 0)] with left := 1 }),
           .send t x.seq 0 (.qsig core (bits n 17 10) (bits (x.rs f.sb).toNat 15 0) none)]

def execQsig (f : LM) (s : State) := run (planQsig f s) s

/-- The addition reaches its core (R339, R341): q after it is the result. -/
def planQsigAdd (s : State) : Plan :=
  match s.delivering with
  | some f =>
    match f.pk with
    | .qsig core q amount notice =>
      let after := satAdd ((s.coreAt f.tid.vf core).sem q) amount
      .ok (.drop f.id :: .core f.tid.vf core (·.addSem q amount) ::
        s.partDone f.tid f.seq (·.setS0 (BitVec.ofNat 64 (after * 2 ^ 16))) ++ signalNotice f.tid.vf notice)
    | _ => .error (.event "QSIG_ADD_AT_CORE")
  | none => .error (.event "QSIG_ADD_AT_CORE")

def execQsigAddAtCore (s : State) := run (planQsigAdd s) s

/-! ### Barriers (R108 to R110, R342) -/

/-- The three forms at issue: 0 arrive-and-wait, 1 arrive, 2 wait. An arrival is a release at the instruction's scope;
earlier accesses have been performed. -/
def barIssue (form : Nat) (f : LM) (s : State) : Plan :=
  issuing s fun t x =>
    let ea := x.rs f.sa
    let scope := f.fn.toNat / 4 % 8
    if ea.toNat % 64 ≠ 0 then trap s t cMISALIGN ea (LM.words f)
    else if 2 ^ 56 ≤ ea.toNat ∨ inFixedWindow ea.toNat = true then trap s t cADDR ea (LM.words f)
    else
      let parity := bit (x.rs f.sb).toNat 0
      (if form = 2 then [] else s.release t scope none) ++
        [.slot t (fun x => x.start { lmOp s x f [] [(f.sc, 0)] with
            left := 1, deadline := if form = 1 then none else deadline s.cycle (f.v.toNat % 32) }),
         .send t x.seq 0 (.barrier ea.toNat form parity scope)]

def execBarArriveWait (f : LM) (s : State) := run (barIssue 0 f s) s
def execBarArrive (f : LM) (s : State) := run (barIssue 1 f s) s
def execBarWait (f : LM) (s : State) := run (barIssue 2 f s) s

/-- A barrier result: its status, and the next parity in bit 8. -/
def barResult (status : Nat) (next : Bool) : Word := BitVec.ofNat 64 (status + if next then 256 else 0)

/-- The fields of the barrier word (Table 5.8). -/
def barMalformed (w : Nat) : Bool := bits w 15 0 == 0 || bits w 63 33 != 0

/-- An arrival counted at the home (R109): its status, the next parity and the new word. -/
def arrive (w : Nat) (p : Bool) : Nat × Bool × Nat :=
  let phase := bit w 32
  if barMalformed w then (stDENIED, p, w)
  else if p != phase then (stOVER, phase, w)
  else
    let expect := bits w 15 0
    let count := bits w 31 16 + 1
    let flag := fun b : Bool => if b then 2 ^ 32 else 0
    if count = expect then (stOK, !p, expect + flag (!phase))
    else (stOK, !p, expect + count % 65536 * 2 ^ 16 + flag phase)

/-- The wait's view of the object: none while it has to wait. -/
def barWait (w : Nat) (p : Bool) : Option (Nat × Bool) :=
  if barMalformed w then some (stDENIED, p) else if bit w 32 != p then some (stOK, !p) else none

def planBarrier (s : State) : Plan :=
  match s.delivering with
  | some f =>
    match f.pk with
    | .barrier va form p scope =>
      let t := f.tid
      -- a wait whose timeout has expired on its way stays for its WAIT_TIMEOUT (R106); an arrival is counted (R109, R239)
      if s.late f then .error (.event "BARRIER_ARRIVAL_AT_HOME") else
      match s.resolve t.vf t.core va 8 .atomic (s.slotOf t).priv true with
      | (.at q _, es) =>
        let (b, k) := s.atHome t.vf q 8
        let w := leNat b
        let store (x : Nat) : List Eff := s.toHome t q ((leBytes 8 x).zipIdx.map fun (b, i) => (i, b)) false
        let finish (status : Nat) (next acq : Bool) : List Eff :=
          .drop f.id :: (if acq then s.acquire t scope none else []) ++ s.partDone t f.seq (·.setS0 (barResult status next))
        -- the wait of an arrival whose timeout has expired on its way: TIMEOUT, with the next phase's parity
        let lapse : List Eff :=
          .drop f.id :: emptyFetch t scope ++ s.partDone t f.seq (·.setS0 (barResult stTIMEOUT (!p)))
        let park (counted : Bool) : List Eff :=
          [.drop f.id, .slot t fun x => x.modOp f.seq fun o => { o with wait := .phase va p counted scope, since := s.cycle }]
        .ok (es ++ .draw k ::
          (if form = 1 then
            let (st, next, w') := arrive w p
            (if st = stOK then store w' else []) ++ finish st next false
          else if form = 0 then
            let (st, next, w') := arrive w p
            if st = stOK then
              store w' ++ if s.overdue f then lapse else (match barWait w' p with | some (st, next) => finish st next true | none => park true)
            else finish st next false
          else
            match barWait w p with
            | some (st, next) => finish st next (st == stOK)
            | none => park false))
      | (.addr, _) => .ok (.drop f.id :: s.partDone t f.seq (·.setS0 (barResult stDENIED p)))
      | (w, es) => .ok (es ++ s.holdFlight f w va .atomic)
    | _ => .error (.event "BARRIER_ARRIVAL_AT_HOME")
  | none => .error (.event "BARRIER_ARRIVAL_AT_HOME")

def execBarrierArrivalAtHome (s : State) := run (planBarrier s) s

/-! ### Messages (R103 to R105, R343, R344) -/

/-- An inbox header (Table 5.6). -/
def inboxHeader (core slot gen dst words : Nat) (sys : Bool) : BitVec 64 :=
  BitVec.ofNat 64 (core % 1024 + slot % 4 * 2 ^ 10 + gen % 65536 * 2 ^ 12 + dst % 4 * 2 ^ 28 + words % 8 * 2 ^ 30 +
    2 ^ 33 + if sys then 2 ^ 34 else 0)

def planMsend (f : LM) (s : State) : Plan :=
  issuing s fun t x =>
    let w := x.rs f.sa
    let n := w.toNat
    let k := f.fn.toNat % 8
    if bits n 63 28 ≠ 0 then trap s t cILLEGAL (wordZero (.msend f)) (LM.words f)
    else
      match s.offset? t.vf (bits n 9 0) with
      | none => trap s t cADDR w (LM.words f)
      | some core =>
        let payload := BitVec.ofNat 448 ((x.rv f.v).data.toNat % 2 ^ (64 * k))
        let header := inboxHeader (s.coreNo t.vf t.core) t.slot x.gen.toNat (bits n 11 10) k false
        [.slot t (fun x => x.start { lmOp s x f [] [(f.sc, 0)] with left := 1 }),
         .send t x.seq 0 (.message core (bits n 11 10) (BitVec.ofNat 16 (bits n 27 12)) header payload)]

def execMsend (f : LM) (s : State) := run (planMsend f s) s

/-- A message at its target (R104, R125): its status and its effect. -/
def Core.arrive (c : Core) (slot : Nat) (gen : BitVec 16) (header : BitVec 64) (payload : BitVec 448) :
    Nat × (Core → Core) :=
  let x := c.slotAt slot
  if !x.live || x.gen != gen then (stSTALE, id)
  else
    match c.freeEntry with
    | some e => (stOK, fun c => c.receive e slot header payload)
    | none =>
      if c.halted && decide (c.spill.length < 256) then
        (stOK, fun c => { c with spill := c.spill ++ [(⟨0, header, payload⟩ : Message)] })
      else (stBUSY, id)

def planMessage (s : State) : Plan :=
  match s.delivering with
  | some f =>
    match f.pk with
    | .message core slot gen header payload =>
      let first := s.flights.all fun g => decide (f.id ≤ g.id) || g.tid != f.tid ||
        (match g.pk with | .message c k _ _ _ => !(c == core && k == slot) | _ => true)
      if first then
        let (st, g) := (s.coreAt f.tid.vf core).arrive slot gen header payload
        .ok (.drop f.id :: .core f.tid.vf core g :: s.partDone f.tid f.seq (·.setS0 (BitVec.ofNat 64 st)))
      else .error (.event "MESSAGE_ARRIVAL")
    | _ => .error (.event "MESSAGE_ARRIVAL")
  | none => .error (.event "MESSAGE_ARRIVAL")

def execMessageArrival (s : State) := run (planMessage s) s

/-- MRECV waits for an entry of its slot. -/
def planMrecv (f : LM) (s : State) : Plan :=
  issuing s fun t _ =>
    [.slot t fun x => x.start { lmOp s x f [] [(f.sc, 0)] with
      left := 1, wait := .inbox f.v, deadline := deadline s.cycle (f.fn.toNat % 32) }]

def execMrecv (f : LM) (s : State) := run (planMrecv f s) s

end Sys2Proof.Machine
end

