-- ==== Sys2Proof/Machine/MapOps.lean ====
section
/-! DEFINITION. The key map and window instructions and their execution at the home (R181 to R203, R349 to R358), and
the invalidation of translations (R149, R194). -/

namespace Sys2Proof.Machine

/-! ### Issue (R349, R350) -/

/-- A 16-byte key: s[sb] low, s[sb+1] high (R354). -/
def mapKey (x : Slot) (f : LM) (k16 : Bool) : Nat :=
  (x.rs f.sb).toNat + if k16 then (x.rs (f.sb + 1)).toNat * 2 ^ 64 else 0

/-- A request as an instruction forms it; its shard is found at the home, but for MSTAT, which names it. -/
def mapReq (code : Nat) (x : Slot) (f : LM) (k16 : Bool) : MapReq where
  code := code
  handle := (x.rs f.sa).toNat
  shard := bits (x.rs f.sb).toNat 63 0
  key := mapKey x f k16
  k16 := k16
  first := false
  operand := (x.rv f.v).data.toNat
  combine := f.fn.toNat / 2 % 8
  lane := none
  page := false

/-- MPROBE, MINS, MSET and MREM: one request to the key's shard. -/
def mapSingle (code : Nat) (f : LM) (s : State) : Plan :=
  issuing s fun t x =>
    [.slot t (fun x => x.start { lmOp s x f [(f.v, VVal.zero)] [(f.sc, 0)] with left := 1 }),
     .send t x.seq 0 (.map (mapReq code x f (f.fn.toNat % 2 == 1)))]

def execMprobe (f : LM) (s : State) := run (mapSingle 0 f s) s
def execMins (f : LM) (s : State) := run (mapSingle 1 f s) s
def execMset (f : LM) (s : State) := run (mapSingle 2 f s) s
def execMrem (f : LM) (s : State) := run (mapSingle 3 f s) s

/-- MPROBEV and MSETV (R355): one request for each active lane; results to v[v+1]. -/
def mapBatch (code : Nat) (f : LM) (s : State) : Plan :=
  issuing s fun t x =>
    let m := lmGuard x f
    let lanes := (List.range 32).filter fun i => m.getLsbD (8 * i)
    let keys := (x.rv f.v).data.toNat
    let vals := (x.rv (f.v + 1)).data.toNat
    let base : VVal := ⟨if code = 2 then (x.rv (f.v + 1)).data else 0, 0, 0⟩
    .slot t (fun x => x.start { lmOp s x f [(f.v + 1, base)] [(f.sc, 0)] with left := max 1 lanes.length }) ::
      lanes.map (fun i => .send t x.seq 0 (.map { mapReq code x f false with
        key := elem 64 keys i, operand := elem 64 vals i, lane := some i })) ++
      -- with no lane active its handle and its map are examined all the same (R351)
      (if lanes = [] then [.send t x.seq 0 (.map { mapReq code x f false with lane := some 64 })] else [])

def execMprobev (f : LM) (s : State) := run (mapBatch 0 f s) s
def execMsetv (f : LM) (s : State) := run (mapBatch 2 f s) s

def execMstat (f : LM) (s : State) :=
  run (issuing s fun t x =>
    [.slot t (fun x => x.start { lmOp s x f [(f.v, ⟨0, 0, 5⟩)] [(f.sc, 0)] with left := 1 }),
     .send t x.seq 0 (.map (mapReq 4 x f false))]) s

/-- MITER (R357): s[sb], and s[sb+1] for 16-byte keys, are results as well. -/
def planMiter (f : LM) (s : State) : Plan :=
  issuing s fun t x =>
    let k16 := f.fn.toNat % 2 == 1
    let first := f.fn.toNat / 2 % 2 == 1
    let keys := (f.sb, (0 : Word)) :: if k16 then [(f.sb + 1, 0)] else []
    [.slot t (fun x => x.start { lmOp s x f [(f.v, VVal.zero)] ((f.sc, 0) :: keys) with left := 1 }),
     .send t x.seq 0 (.map { mapReq 5 x f k16 with first := first, shard := 4096 })]

def execMiter (f : LM) (s : State) := run (planMiter f s) s

/-- The window instructions (R358). -/
def windowIssue (code : Nat) (f : LM) (s : State) : Plan :=
  issuing s fun t x =>
    let v : List (VReg × VVal) := if code = 1 then [(f.v, VVal.zero)] else []
    [.slot t (fun x => x.start { lmOp s x f v [(f.sc, 0)] with left := 1 }),
     .send t x.seq 0 (.window ⟨code, (x.rs f.sa).toNat, (x.rv f.v).data.toNat, (x.rs f.sb).toNat⟩)]

def execWfeed (f : LM) (s : State) := run (windowIssue 0 f s) s
def execWread (f : LM) (s : State) := run (windowIssue 1 f s) s
def execWlen (f : LM) (s : State) := run (windowIssue 2 f s) s

/-! ### A slab at its home (R182, R192) -/

/-- The storage that an operation reaches. -/
inductive Slab where
  | at (backs : List (Nat × Nat × Nat)) (effs : List Eff)
  | blocked (w : Where) (va : Nat) (effs : List Eff)
  | none

/-- The pages that an operation touches: the first, and one more that the private arrangement settles (log entry 24). -/
def State.touched (s : State) (ps : List (Nat × Nat × Nat)) : List Nat :=
  ((ps.head?.map (·.2.1)).toList ++ (ps[Config.freeNat s.free % max 1 ps.length]?.map (·.2.1)).toList).eraseDups

/-- Some addresses reached in turn. -/
def State.reachAll (s : State) (t : Tid) : List Nat → List Eff × Option (Where × Nat)
  | [] => ([], none)
  | a :: rest =>
    match s.resolve t.vf t.core a 8 .atomic (s.slotOf t).priv true with
    | (.at _ _, es) =>
      let (es', r) := State.reachAll (applyAll es s) t rest
      (es ++ es', r)
    | (w, es) => (es, some (w, a))

/-- The storage of an operation on a region, through the region's translation. -/
def State.slab (s : State) (t : Tid) (handle va n : Nat) : Slab :=
  match s.vdAt t.vf with
  | none => .none
  | some v =>
    if handle = 0 then
      match (pagePieces va n).find? fun p => (v.stage2 p.2.1).isNone with
      | some p => .blocked (.frame (p.2.1 / 2 ^ 21)) p.2.1 []
      | none => .at (v.frameBacks va n) []
    else
      match s.reachAll t (s.touched (pagePieces va n)) with
      | (es, none) => .at (s.backsOf t v handle va n) es
      | (_, some (.addr, _)) => .none
      | (es, some (w, a)) => .blocked w a es

/-- An operation waits at its home for the frame of its descriptor. A descriptor has no virtual address: its wait, and the
NOFRAME fault that it may end in, name address 0 and a read (R143, log entry 116). -/
def State.holdTable (s : State) (f : Flight) (n : Nat) : List Eff := s.holdFlight f (.frame n) 0 .read

/-- The operation waits at its home for a fault; no later one on its object passes it, then or after a RETRY (R192). -/
def State.holdFirst (s : State) (f : Flight) (w : Where) (va : Nat) : List Eff :=
  s.holdFlight f w va .atomic ++
    [.vd f.tid.vf fun v => { v with arrived := (v.arrived.filter fun i => i != f.id) ++ [f.id] }]

/-- The request is answered: `g` leaves the results in the operation. -/
def State.mapEnd (s : State) (f : Flight) (g : Op → Op) : List Eff := .drop f.id :: s.partDone f.tid f.seq g

/-- A status that writes no vector register (R351). -/
def Op.bare (o : Op) (w : Word) : Op :=
  match o.s with
  | (r, _) :: _ => { o with v := [], s := [(r, w)] }
  | [] => { o with v := [] }

/-- Lane i of a batched form takes its outcome (R355). -/
def Op.lane (o : Op) (i code value : Nat) (set : Bool) : Op :=
  match o.v, o.s with
  | (r, y) :: _, (d, w) :: rest =>
    let hit := if set then code != stNOCAP else code == stPRESENT
    let w := if hit then w ||| (1#64 <<< (8 + i)) else w
    let w := if code = stNOCAP then (w &&& ~~~0xFF#64) ||| BitVec.ofNat 64 stNOCAP else w
    { o with
      v := if hit then [(r, { y with data := BitVec.ofNat 2048 (setElem 64 y.data.toNat i value) })] else o.v
      s := (d, w) :: rest }
  | _, _ => o

/-! ### Translations to invalidate (R149, R194) -/

/-- The page key whose translations an executed page-map operation invalidates. -/
def staleKey (code outcome key old new : Nat) : Option Nat :=
  if outcome = stREMOVED then some key
  else if outcome = stCHANGED then (if old = new then none else some key)
  else if outcome = stINSERTED ∧ key % 2 = 0 ∧ code ≠ 0 then some (key / 2 / 32 * 2 + 1)
  else none

/-- The invalidations of a key leave for every core that has translated anything; the operation waits for each. -/
def State.invalidate (s : State) (f : Flight) (key : Nat) : List Eff :=
  match s.vdAt f.tid.vf with
  | some v =>
    let cores := v.cores.map (·.1)
    .slot f.tid (fun x => x.modOp f.seq fun o => { o with left := o.left + cores.length }) ::
      cores.map fun c => .send f.tid f.seq 0 (.inval key (key % 2 == 1) c none)
  | none => []

/-- An address on the page of a key. -/
def onPage (key va : Nat) : Bool :=
  if key % 2 = 0 then va / 2 ^ 16 % 2 ^ 40 == key / 2 else va / 2 ^ 21 % 2 ^ 35 == key / 2

/-- The address of a part in flight. -/
def Packet.part? : Packet → Option Nat
  | .access a _ | .transit a _ | .wanting a _ => some a.va
  | .atomic r _ => some r.va
  | .route _ p _ => some p.va
  | _ => none

/-- The accesses of a core to the page of a key that are under way. -/
def State.onTheirWay (s : State) (vf core key : Nat) : List (Tid × Nat) :=
  (s.flights.filter fun g => g.tid.vf == vf && g.tid.core == core &&
    (match g.pk.part? with | some va => onPage key va | none => false)).map fun g => (g.tid, g.seq)

/-- The forwards of a virtual device's stores that are under way (R153). -/
def State.forwarding (s : State) (vf : Nat) : Bool :=
  s.flights.any fun g => g.tid.vf == vf && (match g.pk with | .forward .. => true | _ => false)

/-- At a core (R149): the entry goes; once the accesses it translated have returned or reached their homes, forwards and the
core's dirty bytes included, under whatever address a line was filled, the core acknowledges. -/
def planInval (s : State) : Plan :=
  match s.delivering with
  | some f =>
    match f.pk with
    | .inval key big c old =>
      let now := s.onTheirWay f.tid.vf c key
      let gone : Eff := .core f.tid.vf c fun c => { c with tlb := c.tlb.filter (·.key != key) }
      let ack : List Eff := .drop f.id :: s.cleanL1 f.tid.vf c (fun _ => true) true ++ [gone] ++
        s.partDone f.tid f.seq id
      match old with
      | none => .ok (if now = [] ∧ s.forwarding f.tid.vf = false then ack
          else gone :: repack f.id (.inval key big c (some now)) s)
      | some l =>
        if (l.any fun x => now.contains x) || s.forwarding f.tid.vf then .error (.event "TLB_INVALIDATION") else .ok ack
    | _ => .error (.event "TLB_INVALIDATION")
  | none => .error (.event "TLB_INVALIDATION")

def execTlbInvalidation (s : State) := run (planInval s) s

/-! ### A map operation at its shard (R185, R187, R191) -/

/-- The region and map of a request; none is BADH (R351). -/
def mapRegion (r : MapReq) (reg : Option Region) : Option (Region × MapDesc) :=
  match reg with
  | some g =>
    let m := mapOf g.kindf
    if g.kind = 4 ∧ m.k16 = r.k16 ∨ g.kind = 4 ∧ r.code = 4 then
      if r.lane.isSome ∧ (m.k16 = true ∨ 1 < m.vsz) then none else some (g, m)
    else none
  | none => none

/-- The results of one executed key operation. -/
def Op.mapped (o : Op) (r : MapReq) (status : Word) (code value : Nat) : Op :=
  match r.lane with
  | some i => o.lane i code value (r.code == 2)
  | none =>
    if code = stNOCAP then o.bare status
    else
      let o := o.setS0 status
      { o with v := o.v.map fun (d, y) => (d, { y with data := BitVec.ofNat 2048 value }) }

/-- A status of a map operation that changes nothing: of a batched form it is the instruction's (R351, R355). -/
def Op.mapStops (o : Op) (r : MapReq) (code i count : Nat) : Op :=
  o.bare (if r.lane.isSome then BitVec.ofNat 64 code else mapStatus code false i count)

def State.mapAt (s : State) (f : Flight) (r : MapReq) (g : Region) (m : MapDesc) : Plan :=
  let t := f.tid
  let i := r.shardOf m
  let size := g.size / 2 ^ m.shlog
  match s.vdAt t.vf with
  | none => .error (.event "MAP_OP_AT_HOME")
  | some v =>
    let none' := bits v.vdlim.toNat 15 0 = 0
    if r.code = 4 ∧ 2 ^ m.shlog ≤ i then
      .ok (s.mapEnd f (·.bare (BitVec.ofNat 64 (if none' then stNOCAP else stDENIED))))
    else if r.lane.isSome ∧ r.lane = some 64 ∧ ¬ none' then .ok (s.mapEnd f id)
    else if none' then
      let sh := s.shardAt v (s.backsOf t v r.handle (g.base + i * size) size) size g.kindf m
      .ok (s.mapEnd f (·.mapStops r stNOCAP i sh.entries.length))
    else
      match s.slab t r.handle (g.base + i * size) size with
      | .none => .ok (s.mapEnd f (·.bare (BitVec.ofNat 64 stBADH)))
      | .blocked w va es => unlessHeld "MAP_OP_AT_HOME" w (es ++ s.holdFirst f w va)
      | .at backs es =>
        let sh := s.shardAt v backs size g.kindf m
        -- what an operation leaves as it was is not listed: zero storage stays zero
        let put' (x : Shard) : List Eff := (if x = sh then [] else [.vd t.vf (·.putShard x)]) ++ [.draw 3]
        if r.code = 4 then
          let sh := sh.migrate
          .ok (es ++ put' sh ++ s.mapEnd f fun o =>
            { o.setS0 (mapStatus stOK false i sh.entries.length) with
              v := o.v.map fun (d, y) => (d, { y with data := BitVec.ofNat 2048 (sh.stat m) }) })
        else if r.code = 5 then
          let sh := sh.migrate
          match sh.least m (if r.first ∨ r.shard < 4096 then none else some r.key) with
          | some (key, value) =>
            .ok (es ++ put' sh ++ s.mapEnd f fun o =>
              { o with
                v := o.v.map fun (d, y) => (d, { y with data := BitVec.ofNat 2048 value })
                s := match o.s with
                  | (c, _) :: (b, _) :: rest =>
                    (c, mapStatus stPRESENT false i sh.entries.length) :: (b, BitVec.ofNat 64 key) ::
                      rest.map fun (b', _) => (b', BitVec.ofNat 64 (key / 2 ^ 64))
                  | l => l })
          | none =>
            if i + 1 < 2 ^ m.shlog then .ok (es ++ put' sh ++ repack f.id (.map { r with shard := i + 1 }) s)
            else
              .ok (es ++ put' sh ++ s.mapEnd f fun o =>
                { o with s := (o.s.take 1).map fun (c, _) => (c, mapStatus stMISS false i sh.entries.length) })
        else
          let o := sh.exec m r.code r.key r.operand r.combine
          let old := (findEntry sh.entries r.key).getD 0
          let status := mapStatus o.code o.old i o.shard.entries.length
          let stale := if r.handle = 0 then staleKey r.code o.code r.key old o.value else none
          .ok (es ++ put' o.shard ++
            (match stale with | some key => s.invalidate f key | none => []) ++
            (.drop f.id ::
              (match stale with
                | some key =>
                  (applyAll (s.invalidate f key) s).partDone t f.seq fun p => p.mapped r status o.code o.value
                | none => s.partDone t f.seq fun p => p.mapped r status o.code o.value)))

def planMap (s : State) : Plan :=
  match s.delivering with
  | some f =>
    match f.pk with
    | .map r =>
      let look := s.lookRegion f.tid.vf f.tid.core r.handle
      match look with
      | .frame n => .ok (s.holdTable f n)
      | .region reg _ =>
        let es := look.effs f.tid.vf f.tid.core r.handle
        match mapRegion r reg with
        | none => .ok (es ++ s.mapEnd f (·.bare (BitVec.ofNat 64 stBADH)))
        | some (g, m) => (s.mapAt f r g m).map (es ++ ·)
    | _ => .error (.event "MAP_OP_AT_HOME")
  | none => .error (.event "MAP_OP_AT_HOME")

def execMapOpAtHome (s : State) := run (planMap s) s

/-! ### A window operation at its home (R198 to R203) -/

/-- The window in some storage: empty when it is all zero, unpredictable when it was overwritten (R145, R195). -/
def State.winAt (s : State) (v : VD) (backs : List (Nat × Nat × Nat)) (size desc : Nat) (d : WinDesc) : Win :=
  let fresh : Win := ⟨backs, size, desc, [], d.w0, [], [], []⟩
  let free : Win := { fresh with back := Config.freeWindow s.free, agg := (Config.freeWindow s.free).headD [] }
  match v.wins.find? fun w => overlap w.backs backs with
  | some w =>
    if w.zeroed = [] ∧ w.desc = desc ∧ w.size = size ∧ agree w.backs backs = true ∧
        s.clean { v with wins := [] } (newBacks w.backs backs) = true then { w with backs := w.backs ++ newBacks w.backs backs }
    else if s.blanked { v with wins := [] } w.backs w.zeroed backs then fresh
    else free
  | none => if s.clean v backs then fresh else free

def VD.putWin (v : VD) (w : Win) : VD :=
  { v with wins := (v.wins.filter fun x => !overlap x.backs w.backs) ++ [{ w with zeroed := [] }] }

def State.windowAt (s : State) (f : Flight) (r : WinReq) (g : Region) : Plan :=
  let t := f.tid
  let d := winOf g.kindf
  let width := if d.lw then 64 else 32
  match s.vdAt t.vf with
  | none => .error (.event "WINDOW_OP_AT_HOME")
  | some v =>
    if bits v.vdlim.toNat 15 0 = 0 then .ok (s.mapEnd f (·.bare (winStatus stNOCAP 0 0)))
    else
      match s.slab t r.handle g.base g.size with
      | .none => .ok (s.mapEnd f (·.bare (BitVec.ofNat 64 stBADH)))
      | .blocked w va es => unlessHeld "WINDOW_OP_AT_HOME" w (es ++ s.holdFirst f w va)
      | .at backs es =>
          let w := s.winAt v backs g.size g.kindf d
          let save (x : Win) : List Eff := (if x = w then [] else [.vd t.vf (·.putWin x)]) ++ [.draw 1]
          if r.code = 0 then
            let (x, flip) := w.feed d ((List.range (d.lanes + 1)).map (elem width r.data))
            .ok (es ++ save x ++ s.mapEnd f (·.setS0 (winStatus stOK flip x.count)))
          else if r.code = 1 then
            .ok (es ++ .draw 1 :: s.mapEnd f fun o =>
              { o.setS0 (winStatus stOK 0 w.count) with
                v := o.v.map fun (k, _) =>
                  (k, ⟨BitVec.ofNat 2048 (packElems width (w.read d)), 0, BitVec.ofNat 5 (winTag d)⟩) })
          else
            match w.setLength d r.length with
            | some (x, flip) => .ok (es ++ save x ++ s.mapEnd f (·.setS0 (winStatus stOK flip x.count)))
            | none => .ok (es ++ s.mapEnd f (·.setS0 (winStatus stDENIED 0 w.count)))

def planWindow (s : State) : Plan :=
  match s.delivering with
  | some f =>
    match f.pk with
    | .window r =>
      let look := s.lookRegion f.tid.vf f.tid.core r.handle
      match look with
      | .frame n => .ok (s.holdTable f n)
      | .region reg _ =>
        let es := look.effs f.tid.vf f.tid.core r.handle
        match reg.filter (·.kind == 5) with
        | none => .ok (es ++ s.mapEnd f (·.bare (BitVec.ofNat 64 stBADH)))
        | some g => (s.windowAt f r g).map (es ++ ·)
    | _ => .error (.event "WINDOW_OP_AT_HOME")
  | none => .error (.event "WINDOW_OP_AT_HOME")

def execWindowOpAtHome (s : State) := run (planWindow s) s

end Sys2Proof.Machine
end

