-- ==== Sys2Proof/Machine/Sums.lean ====
section
/-! DEFINITION. Bounded sums: the sum buffer of a core, grants, drains and loads with a tolerance (R179, R204 to R209,
R359 to R361). -/

namespace Sys2Proof.Machine

/-! ### A line of the sum buffer (R205, R206) -/

/-- x + y of the region's element type: FP32 rounded in a mode of Table 11.3, or modulo 2^32. -/
def sumAdd (float : Bool) (rm x y : Nat) : Nat := if float then (arithF .add 8 rm x y).1 else (x + y) % 2 ^ 32

/-- |a|: exact for INT32. -/
def sumAbs (float : Bool) (a : Nat) : Nat := if float then a % 2 ^ 31 else (toSigned 32 a).natAbs

/-- A tracker plus |a|: rounded up for FP32, exact for INT32. -/
def trackAdd (float : Bool) (t a : Nat) : Nat :=
  if float then (arithF .add 8 3 t (sumAbs true a)).1 else t + sumAbs false a

/-- t > g. -/
def above (float : Bool) (t g : Nat) : Bool :=
  if float then
    let x := unpackF (ffmt 8) t
    x.isNaN || cmpV x (unpackF (ffmt 8) g) == .gt
  else decide (g < t)

/-- A NaN or an infinity. -/
def isSpecial (float : Bool) (a : Nat) : Bool := float && decide (0x7F800000 ≤ a % 2 ^ 31)

/-- Amounts added to a held line with a grant (R206): the line, and the message when its sums are sent. -/
def SumLine.add (l : SumLine) (amounts : List (Nat × Nat)) : SumLine × Option (List (Nat × Nat)) :=
  let l' := amounts.foldl (fun (l : SumLine) (j, a) =>
    { l with
      t := l.t.set j (trackAdd l.float (l.t.getD j 0) a)
      p := l.p.set j (sumAdd l.float 0 (l.p.getD j 0) a) }) l
  if (amounts.any fun x => isSpecial l.float x.2 || above l.float (l'.t.getD x.1 0) l.grant) then
    (l'.sent, some l'.lanes)
  else (l', none)

/-- A line a core starts: its sums and trackers cleared (R205). -/
def SumLine.start (handle line va : Nat) (float : Bool) (grant : Nat) : SumLine :=
  ⟨handle, line, va, float, grant, List.replicate 32 0, List.replicate 32 0⟩

def isLine (handle line : Nat) (l : SumLine) : Bool := l.handle == handle && l.line == line

/-- A line used becomes the most recently used. Only a BADD uses one: a BLOAD of a line that the buffer holds leaves its place (R205;
DESIGN CHOICE, log entry 132). -/
def Core.useLine (c : Core) (l : SumLine) : Core :=
  { c with sums := c.sums.filter (fun k => !isLine l.handle l.line k) ++ [l] }

/-- A status bit of Table 19.4. -/
def Op.flagS0 (o : Op) (b : Nat) : Op :=
  match o.s with
  | (r, w) :: rest => { o with s := (r, w ||| (1#64 <<< b)) :: rest }
  | [] => o

/-- Amounts taken by a line of the buffer: withheld, sent, or, with grant 0, written through (R205, R206). The BADD notes that
it has added to a line. -/
def State.addToLine (s : State) (t : Tid) (seq : Nat) (l : SumLine) (amounts : List (Nat × Nat)) : List Eff :=
  .slot t (fun x => x.modOp seq fun o => { o with note := o.note + 1 }) ::
  let zero := if l.float then l.grant % 2 ^ 31 == 0 else l.grant == 0
  if zero then
    [.core t.vf t.core (·.useLine l), .slot t (fun x => x.modOp seq (·.flagS0 8)),
     .send t seq 0 (.partialSum l.handle l.line amounts l.float false)]
  else
    let (l', msg) := l.add amounts
    .core t.vf t.core (·.useLine l') ::
      (match msg with
        | some lanes => if lanes = [] then [] else [.slot t (fun x => x.modOp seq (·.flagS0 9)),
            .send (s.sumTid t) 0 0 (.partialSum l.handle l.line lanes l.float false)]
        | none => [])

/-- The least recently used line leaves a full sum buffer for a BADD: its sums go home, which the BADD's status says (Table
19.4), and its grant is returned (R205, R209). -/
def State.makeRoom (s : State) (t : Tid) (seq : Nat) : List Eff :=
  let c := s.coreAt t.vf t.core
  match if 64 ≤ c.sums.length then c.sums.head? else none with
  | some old => sumDrains (s.sumTid t) [old] true ++
      (if old.lanes = [] then [] else [.slot t fun x => x.modOp seq (·.flagS0 9)]) ++
      [.core t.vf t.core fun c => { c with sums := c.sums.filter fun k => !isLine old.handle old.line k }]
  | none => []

/-- The lines of a BADD in increasing order: one the buffer does not hold asks its home for a grant, the least recently
used line leaving when all 64 are in use; the rest of the work waits for the answer (R205, R359). -/
def State.addLines (t : Tid) (seq handle : Nat) (float : Bool) :
    List (Nat × List (Nat × Nat)) → State → List Eff
  | [], s => s.partDone t seq id
  | (line, amounts) :: rest, s =>
    let c := s.coreAt t.vf t.core
    match c.sums.find? (isLine handle line) with
    | some l =>
      let es := s.addToLine t seq l amounts
      es ++ State.addLines t seq handle float rest (applyAll es s)
    | none =>
      s.makeRoom t seq ++ [.send t seq 0 (.grant handle line amounts rest float)]

/-- The lines of the active lanes from an element up, in increasing line order. -/
def groupLines (first : Nat) (lanes : List (Nat × Nat)) : List (Nat × List (Nat × Nat)) :=
  let els := lanes.map fun (i, a) => (first + i, a)
  ((List.range 4).map fun k => first / 32 + k).filterMap fun line =>
    let l := els.filterMap fun (e, a) => if e / 32 = line then some (e % 32, a) else none
    if l = [] then none else some (line, l)

/-- A BSUM region whose element type is fmt's; none is BADH (R351). -/
def sumRegion (fmt : Nat) (reg : Option Region) : Option Region :=
  reg.filter fun g => g.kind == 3 && ((sumOf g.kindf).float == (fmt == 8))

/-- The work of a BADD once its handle is resolved. -/
def State.baddWork (s : State) (t : Tid) (seq handle : Nat) (fmt first : Nat) (lanes : List (Nat × Nat))
    (reg : Option Region) : List Eff :=
  match sumRegion fmt reg, s.vdAt t.vf with
  | some g, some v =>
    if bits v.vdlim.toNat 15 0 = 0 then s.partDone t seq (·.bare (BitVec.ofNat 64 stNOCAP))
    else if lanes.any fun (i, _) => decide (g.size / 4 ≤ first + i) then
      s.partDone t seq (·.bare (BitVec.ofNat 64 stDENIED))
    else State.addLines t seq handle (fmt == 8) (groupLines first lanes) s
  | _, _ => s.partDone t seq (·.bare (BitVec.ofNat 64 stBADH))

/-- BADD (R359). While its descriptor lies on a missing frame it does not issue (R143). -/
def planBadd (f : LM) (s : State) : Plan :=
  issuing s fun t x =>
    let y := x.rv f.v
    if y.tag ≠ f.fmt then trap s t (tagTrap f.v.toNat y.tag).1 (tagTrap f.v.toNat y.tag).2 (LM.words f)
    else
      let m := lmGuard x f
      let lanes := ((List.range 64).filter fun i => m.getLsbD (4 * i)).map fun i => (i, elem 32 y.data.toNat i)
      let handle := (x.rs f.sa).toNat
      let first := (x.rs f.sb).toNat
      let es : List Eff := [.slot t fun x => x.start { lmOp s x f [] [(f.sc, 0)] with left := 1 }]
      let look := s.lookRegion t.vf t.core handle
      match look with
      | .frame n => s.stallOn t (.frame n) 0 (LM.words f) .read
      | .region reg _ =>
        let es := es ++ look.effs t.vf t.core handle
        es ++ (applyAll es s).baddWork t x.seq handle f.fmt.toNat first lanes reg

def execBadd (f : LM) (s : State) := run (planBadd f s) s

/-! ### A line at its home (R192, R207) -/

/-- The places of a line's two halves: a line may begin in one page and end in the next. -/
def State.linePlaces (s : State) (t : Tid) (va : Nat) (kind : AccKind) : Except (Where × Nat) ((Place × Place) × List Eff) :=
  match s.resolve t.vf t.core va 8 kind true true with
  | (.at p _, es) =>
    match (applyAll es s).resolve t.vf t.core (va + 64) 8 kind true true with
    | (.at q _, es') => .ok ((p, q), es ++ es')
    | (w, _) => .error (w, va + 64)
  | (w, _) => .error (w, va)

/-- The 32 elements of a line, as a numeral, and the free values that takes. -/
def State.readLine (s : State) (vf : Nat) (p q : Place) : Nat × Nat :=
  let (a, k) := s.atHome vf p 64
  let (b, k') := (applyAll [.draw k] s).atHome vf q 64
  (leNat (a ++ b), k + k')

/-! ### Grants at the home (R205, R208) -/

/-- The grants of a line. -/
def VD.grantsOf (v : VD) (handle line : Nat) : Grants :=
  (v.sums.find? fun g => g.handle == handle && g.line == line).getD ⟨handle, line, [], []⟩

/-- Changed grants; a line with none and no waiting load is not listed. -/
def VD.setGrants (v : VD) (g : Grants) : VD :=
  let rest := v.sums.filter fun k => !(k.handle == g.handle && k.line == g.line)
  { v with sums := if g.holders = [] ∧ g.waiting = [] then rest else rest ++ [g] }

/-- A BLOAD waits on a line (R208). -/
def State.loadWaits (s : State) (g : Grants) : Bool := g.waiting.any fun id => s.flights.any (·.id == id)

/-- The grant of R205: g while fewer than 16 cores hold one and no load waits. -/
def Grants.offer (g : Grants) (waits : Bool) (size : Nat) : Nat :=
  if g.holders.length < 16 ∧ waits = false then size else 0

/-- A line's messages of this core are still on their way. -/
def State.sumsInFlight (s : State) (t : Tid) (before handle line : Nat) : Bool :=
  s.flights.any fun g => decide (g.id < before) && g.tid.vf == t.vf && g.tid.core == t.core &&
    (match g.pk with | .partialSum h l _ _ _ => h == handle && l == line | _ => false)

/-- A request for a grant at its home, which reaches the line's page like every request (R192, Table 25.7). -/
def planGrant (s : State) : Plan :=
  match s.delivering with
  | some f =>
    match f.pk with
    | .grant handle line amounts rest float =>
      let t := f.tid
      let look := s.lookRegion t.vf t.core handle
      -- the core's messages of the line, which return it, come first
      if s.sumsInFlight t s.nextId handle line then .error (.event "GRANT_REQUEST_AT_HOME") else
      match look with
      | .frame n => .ok (s.holdTable f n)
      | .region reg _ =>
        let es := .drop f.id :: look.effs t.vf t.core handle
        match sumRegion (if float then 8 else 4) reg, s.vdAt t.vf with
        | some g, some v =>
          let va := g.base + 128 * line
          -- its thread has ended: nothing is withheld any more (R77, R209)
          if ((s.slotOf t).opOf f.seq).isNone then
            .ok (es ++ ((line, amounts) :: rest).map fun x =>
              .send (s.sumTid t) 0 0 (.partialSum handle x.1 x.2 float false))
          -- a WAYMASK that has become zero stops a BADD that has added nothing yet (R66)
          else if bits v.vdlim.toNat 15 0 = 0 ∧ ((s.slotOf t).opOf f.seq).any (·.note = 0) = true then
            .ok (es ++ s.partDone t f.seq (·.bare (BitVec.ofNat 64 stNOCAP)))
          else
            match s.linePlaces t va .write with
            | .error (.addr, _) => .ok (es ++ s.partDone t f.seq (·.bare (BitVec.ofNat 64 stBADH)))
            | .error (w, a) => unlessHeld "GRANT_REQUEST_AT_HOME" w (s.holdFirst f w a)
            | .ok (_, es') =>
              -- another slot's request has been answered first: the buffer holds the line
              let es := match (s.coreAt t.vf t.core).sums.find? (isLine handle line) with
                | some l => es ++ es' ++ s.addToLine t f.seq l amounts
                | none =>
                  let gr := v.grantsOf handle line
                  let size := gr.offer (s.loadWaits gr) (sumOf g.kindf).grant
                  es ++ es' ++ (if (if float then size % 2 ^ 31 else size) = 0 then [] else
                      [.vd t.vf fun v => v.setGrants { gr with holders := put gr.holders t.core size }]) ++
                    s.makeRoom t f.seq ++ s.addToLine t f.seq (SumLine.start handle line va float size) amounts
              .ok (es ++ State.addLines t f.seq handle float rest (applyAll es s))
        | _, _ => .ok (es ++ s.partDone t f.seq (·.bare (BitVec.ofNat 64 stBADH)))
    | _ => .error (.event "GRANT_REQUEST_AT_HOME")
  | none => .error (.event "GRANT_REQUEST_AT_HOME")

def execGrantRequestAtHome (s : State) := run (planGrant s) s

/-! ### Partial sums at the home (R207) -/

/-- Sums added to the elements of a line at its home (R207), or why its page cannot be reached. -/
def State.addSums (s : State) (t : Tid) (va : Nat) (lanes : List (Nat × Nat)) (float : Bool) :
    Except (Where × Nat) (List Eff) :=
  match s.linePlaces t va .write with
  | .ok ((p, q), es) =>
    let (old, k) := s.readLine t.vf p q
    let bytes := lanes.flatMap fun (j, a) =>
      (leBytes 4 (sumAdd float 0 (elem 32 old j) a)).zipIdx.map fun (x, i) => (4 * j + i, x)
    let low := bytes.filter (·.1 < 64)
    let high := (bytes.filter (64 ≤ ·.1)).map fun ib => (ib.1 - 64, ib.2)
    .ok (es ++ .draw k :: (if low = [] then [] else s.toHome t p low false) ++
      (if high = [] then [] else s.toHome t q high false))
  | .error e => .error e

/-- Sums applied at their homes one after another: the thread or buffer they come from, handle, line, lanes, and whether they
are FP32. Those whose page cannot be reached go. -/
def State.settleAll : List (Tid × Nat × Nat × List (Nat × Nat) × Bool) → State → List Eff
  | [], _ => []
  | (t, handle, line, lanes, float) :: rest, s =>
    let es := match s.lookRegion t.vf t.core handle with
      | .region (some g) _ =>
        (match if lanes = [] then .ok [] else s.addSums t (g.base + 128 * line) lanes float with
          | .ok es => es
          | .error _ => [])
      | _ => []
    es ++ State.settleAll rest (applyAll es s)

/-- What a virtual device's cores withhold and what they have sent reaches its homes before a VD.RESET completes
(Table 10.7). -/
def State.settleSums (s : State) (v : VD) : List Eff :=
  State.settleAll
    ((s.flights.filterMap fun f =>
        if f.tid.vf = v.vf then
          match f.pk with
          | .partialSum h l lanes float _ => some (f.tid, h, l, lanes, float)
          | _ => none
        else none) ++
      v.cores.flatMap fun (off, c) => c.sums.map fun l => (s.drainTid v.vf off, l.handle, l.line, l.lanes, l.float)) s

/-- A message of partial sums, or of additions written through, is applied at the home, or waits there for its page
(R192, R207). Sums whose region is no longer valid, or whose element's address gives ADDR, go (log entry 116). -/
def planPartialSum (s : State) : Plan :=
  match s.delivering with
  | some f =>
    match f.pk with
    | .partialSum handle line lanes float returned =>
      let t := f.tid
      if s.sumsInFlight t f.id handle line then .error (.event "PARTIAL_SUM_AT_HOME")
      else
        let look := s.lookRegion t.vf t.core handle
        let back : List Eff := if returned then
            [.vd t.vf fun v => let g := v.grantsOf handle line; v.setGrants { g with holders := erase g.holders t.core }]
          else []
        let done := .drop f.id :: back ++ if returned then s.partDone t f.seq id else []
        match look with
        | .frame n => if lanes = [] then .ok done else .ok (s.holdTable f n)
        | .region (some g) _ =>
          if lanes = [] then .ok done
          else
            match s.addSums t (g.base + 128 * line) lanes float with
            | .ok es => .ok (es ++ done)
            | .error (.addr, _) => .ok done
            | .error (w, a) => unlessHeld "PARTIAL_SUM_AT_HOME" w (s.holdFirst f w a)
        | .region none _ => .ok done
    | _ => .error (.event "PARTIAL_SUM_AT_HOME")
  | none => .error (.event "PARTIAL_SUM_AT_HOME")

def execPartialSumAtHome (s : State) := run (planPartialSum s) s

/-! ### Loads with a tolerance (R208, R360) -/

/-- A negative or NaN tolerance of an FP32 region (R360). -/
def badEps (float : Bool) (eps : Nat) : Bool :=
  float && (decide (0x7F800000 < eps % 2 ^ 31) || (decide (2 ^ 31 < eps)))

/-- What stops a load with a tolerance (R351, R360): its status. -/
def bloadStops (v : VD) (g : Region) (e eps : Nat) (float : Bool) : Option Nat :=
  if bits v.vdlim.toNat 15 0 = 0 then some stNOCAP
  else if g.size / 4 ≤ e ∨ badEps float eps = true then some stDENIED
  else none

/-- BLOAD: the core's own sums of the line leave first (R179), unless it will have no effect (R351, R360). While its
descriptor lies on a missing frame it does not issue (R143). -/
def planBload (f : LM) (s : State) : Plan :=
  issuing s fun t x =>
    let handle := (x.rs f.sa).toNat
    let e := bits (x.rs f.sb).toNat 31 0
    let eps := bits (x.rs f.sb).toNat 63 32
    let float := f.fmt == 8
    let look := s.lookRegion t.vf t.core handle
    match look with
    | .frame n => s.stallOn t (.frame n) 0 (LM.words f) .read
    | .region reg _ =>
      let goes := match sumRegion f.fmt.toNat reg, s.vdAt t.vf with
        | some g, some v => (bloadStops v g e eps float).isNone
        | _, _ => false
      let own := if goes then (s.coreAt t.vf t.core).sums.filter fun l => isLine handle (e / 32) l && l.lanes != [] else []
      [.slot t (fun x => x.start { lmOp s x f [(f.v, ⟨0, 0, f.fmt⟩)] [(f.sc, 0)] with left := 1 })] ++
        look.effs t.vf t.core handle ++ sumDrains (s.sumTid t) own false ++
        (if own = [] then [] else
          [.core t.vf t.core fun c => { c with sums := c.sums.map fun l => if isLine handle (e / 32) l then l.sent else l }]) ++
        [.send t x.seq 0 (.bload handle (e / 32) (some (e % 32)) eps float)]

def execBload (f : LM) (s : State) := run (planBload f s) s

/-- B as a number of grants of one size (R208). -/
def Grants.total (g : Grants) : Nat := (g.holders.map (·.2)).sum

/-- k × g in FP32, exactly and rounded. -/
def timesGrant (g k : Nat) : FVal × Nat :=
  let v := mulV (unpackF (ffmt 8) g) (.num false k 0 false)
  (v, (roundF (ffmt 8) 0 false v).1)

/-- B ≤ ε. -/
def withinEps (float : Bool) (size eps : Nat) (holders : List (Nat × Nat)) : Bool :=
  if float then
    let c := cmpV (timesGrant size holders.length).1 (unpackF (ffmt 8) eps)
    holders == [] && eps % 2 ^ 31 == 0 || c != .gt
  else decide ((holders.map (·.2)).sum ≤ eps)

/-- The holders to drain, largest grant first, until B ≤ ε. -/
def toDrain (float : Bool) (size eps : Nat) : Nat → List (Nat × Nat) → List Nat
  | 0, _ => []
  | k + 1, hs =>
    if withinEps float size eps hs then []
    else
      match hs.find? fun h => hs.all fun h' => decide (h'.2 ≤ h.2) with
      | some h => h.1 :: toDrain float size eps k (hs.filter (·.1 != h.1))
      | none => []

/-- A BLOAD at its home (R208): while the outstanding grants exceed the tolerance it asks the largest holders to drain, and
then it answers. Sums that another core withholds may be missing within the tolerance, also behind a barrier, which drains
nothing (R249; R179 read with Table 13.7: DEDUCED, log entry 111). -/
def planBloadHome (s : State) : Plan :=
  match s.delivering with
  | some f =>
    match f.pk with
    | .bload handle line lane eps float =>
      let t := f.tid
      let look := s.lookRegion t.vf t.core handle
      match look with
      | .frame n => .ok (s.holdTable f n)
      | .region reg _ =>
        let es := look.effs t.vf t.core handle
        match sumRegion (if float then 8 else 4) reg, s.vdAt t.vf with
        | some g, some v =>
          match bloadStops v g (32 * line + lane.getD 0) eps float with
          | some code => .ok (es ++ s.mapEnd f (·.bare (BitVec.ofNat 64 code)))
          | none =>
            if s.drains t.vf t.core handle line then .error (.event "BLOAD_AT_HOME")
            else
              let gr := v.grantsOf handle line
              let size := (sumOf g.kindf).grant
              if withinEps float size eps gr.holders then
                let va := g.base + 128 * line
                match s.linePlaces t va .read with
                | .ok ((p, q), es') =>
                  let (b, k) := s.readLine t.vf p q
                  let bound := if float then (timesGrant size gr.holders.length).2 else gr.total
                  .ok (es ++ es' ++ [.draw k,
                    .vd t.vf fun v => v.setGrants { gr with waiting := gr.waiting.filter (· != f.id) }] ++
                    s.mapEnd f fun o =>
                      { o.setS0 (BitVec.ofNat 64 (stOK + o.note % 65536 * 2 ^ 16 + bound % 2 ^ 32 * 2 ^ 32)) with
                        v := o.v.map fun (r, y) => (r, { y with data := BitVec.ofNat 2048 b }) })
                | .error (.addr, _) => .ok (es ++ s.mapEnd f (·.bare (BitVec.ofNat 64 stBADH)))
                | .error (w, a) => unlessHeld "BLOAD_AT_HOME" w (es ++ s.holdFirst f w a)
              else
                let cores := toDrain float size eps 16 gr.holders
                .ok (es ++
                  [.vd t.vf (fun v => v.setGrants { gr with
                    waiting := if gr.waiting.contains f.id then gr.waiting else gr.waiting ++ [f.id] }),
                   .slot t (fun x => x.modOp f.seq fun o => { o with note := o.note + cores.length })] ++
                  cores.map fun c => .send t 0 0 (.drain handle line c))
        | _, _ => .ok (es ++ s.mapEnd f (·.bare (BitVec.ofNat 64 stBADH)))
    | _ => .error (.event "BLOAD_AT_HOME")
  | none => .error (.event "BLOAD_AT_HOME")

def execBloadAtHome (s : State) := run (planBloadHome s) s

/-- A holder is asked for its sums and grant (R208). -/
def planForcedDrain (s : State) : Plan :=
  match s.delivering with
  | some f =>
    match f.pk with
    | .drain handle line core =>
      let t := s.drainTid f.tid.vf core
      let own := (s.coreAt t.vf core).sums.filter (isLine handle line)
      -- a core that has lost the line since, its sums being on their way or gone, returns its grant alone
      let lost := own == [] && !s.flights.any fun q => q.tid.vf == t.vf && q.tid.core == core &&
        (match q.pk with | .partialSum h l _ _ r => h == handle && l == line && r | _ => false)
      .ok (.drop f.id :: sumDrains t own true ++
        (if lost then [.send t 0 0 (.partialSum handle line [] false true)] else []) ++
        [.core t.vf core fun c => { c with sums := c.sums.filter fun l => !isLine handle line l }])
    | _ => .error (.event "FORCED_DRAIN_REQUEST")
  | none => .error (.event "FORCED_DRAIN_REQUEST")

def execForcedDrainRequest (s : State) := run (planForcedDrain s) s

/-- BDRAIN (R361): complete once every drain is acknowledged. -/
def planBdrain (f : LM) (s : State) : Plan :=
  issuing s fun t x =>
    let all := f.fn.toNat % 2 == 1
    let handle := (x.rs f.sa).toNat
    let look := if all then .region none none else s.lookRegion t.vf t.core handle
    let ok : Bool := all || match look with
      | .region (some g) _ => g.kind == 3
      | _ => false
    let lines := (s.coreAt t.vf t.core).sums.filter fun l => all || l.handle == handle
    match look with
    | .frame n => s.stallOn t (.frame n) 0 (LM.words f) .read
    | .region _ _ =>
      look.effs t.vf t.core handle ++
        (if ok then
          [.slot t (fun x => x.start { lmOp s x f [] [(f.sc, BitVec.ofNat 64 (stOK + lines.length * 256))] with
             left := lines.length }),
           .core t.vf t.core (fun c => { c with sums := c.sums.filter fun l => !(all || l.handle == handle) })] ++
          lines.map (fun l => .send t x.seq 0 (.partialSum l.handle l.line l.lanes l.float true)) ++
          (if lines = [] then [.send t x.seq 12 .vreply] else [])
        else
          [.slot t (fun x => x.start (lmOp s x f [] [(f.sc, BitVec.ofNat 64 stBADH)])), .send t x.seq 12 .vreply])

def execBdrain (f : LM) (s : State) := run (planBdrain f s) s

end Sys2Proof.Machine
end

