-- ==== Sys2Proof/Machine/Matrix.lean ====
section
/-! DEFINITION. The matrix unit (chapter 20): acceptance into the queue (R362 to R365), transfers, products and drains
(R366 to R378), the exchange of MMAR (R375) and the ramp limiter's bound on products (R89, R90). -/

namespace Sys2Proof.Machine

/-! ### Shape registers (Tables 20.2 and 20.3) -/

def tRows (w : Word) : Nat := bits w.toNat 6 0
def tCols (w : Word) : Nat := bits w.toNat 15 8
def tWidth (w : Word) : Nat := 4 * 2 ^ bits w.toNat 17 16
def tSm (w : Word) : Bool := bit w.toNat 18
def tSmoff (w : Word) : Nat := bits w.toNat 31 19
def tStride (w : Word) : Nat := bits w.toNat 55 32
def aRows (w : Word) : Nat := bits w.toNat 6 0
def aCols (w : Word) : Nat := bits w.toNat 14 8
def aShift (w : Word) : Int := toSigned 8 (bits w.toNat 23 16)
def aSm (w : Word) : Bool := bit w.toNat 24
def aStride (w : Word) : Nat := bits w.toNat 47 32
def aSmoff (w : Word) : Nat := bits w.toNat 60 48

/-- The fields of a TDIM are valid. -/
def tOk (w : Word) : Bool :=
  decide (1 ≤ tRows w ∧ tRows w ≤ 64 ∧ 1 ≤ tCols w ∧ tCols w ≤ 192 ∧ bits w.toNat 17 16 ≠ 3 ∧ tCols w * tWidth w ≤ 768)

/-- The fields of an ADIM are valid. -/
def aOk (w : Word) : Bool := decide (1 ≤ aRows w ∧ aRows w ≤ 64 ∧ 1 ≤ aCols w ∧ aCols w ≤ 64)

def Slot.td (x : Slot) (t : Nat) : Word := x.tdim[t % 8]'(Nat.mod_lt _ (by decide))
def Slot.ad (x : Slot) (a : Nat) : Word := x.adim[a % 4]'(Nat.mod_lt _ (by decide))
def MatOp.td (o : MatOp) (t : Nat) : Word := o.tdim[t % 8]'(Nat.mod_lt _ (by decide))
def MatOp.ad (o : MatOp) (a : Nat) : Word := o.adim[a % 4]'(Nat.mod_lt _ (by decide))

/-! ### Fields of the nine instructions (Table 20.1) -/

/-- TLD's source type. -/
def tldSource (f : LM) : Nat := if f.fn.toNat % 16 = 0 then f.fmt.toNat else f.fn.toNat % 16
def tldT (f : LM) : Bool := bit f.fn.toNat 4
def tldMeta (f : LM) : Bool := bit f.fn.toNat 5

/-- N of MMAS. -/
def mmasN (f : LM) : Nat := match f.fn.toNat % 4 with | 0 => 4 | 1 => 6 | 2 => 8 | _ => 12

/-- The instruction is one of the three products. -/
def MatKind.product (k : MatKind) : Bool := match k with | .mma | .mmas | .mmar => true | _ => false

/-- The result tag and the group of k of an operand type (Table 11.10). -/
def resultTag (t : Nat) : Nat := if t = 1 ∨ t = 14 then 4 else 8
def groupOf (t : Nat) : Nat :=
  match t with
  | 6 => 16
  | 7 => 16
  | 13 => 64
  | 14 => 64
  | _ => 32

/-- B's tags for A's type (Table 11.10). -/
def partner (a b : Nat) : Bool := if a = 9 ∨ a = 10 then b == 9 || b == 10 else b == a

/-! ### Shadow tags (R365) -/

/-- The tag a tile will carry once an operation has completed. -/
def MatOp.tileTag (o : MatOp) (i : Nat) (old : Nat) : Nat :=
  match o.kind with
  | .tld => if o.f.v.toNat = i then (if tldMeta o.f then 15 else o.f.fmt.toNat) else old
  | .tzero => if o.f.fn.toNat % 2 = 0 ∧ o.f.v.toNat = i then 0 else old
  | _ => old

def MatOp.accTag (o : MatOp) (i : Nat) (old : Nat) : Nat :=
  match o.kind with
  | .mma | .mmas | .mmar => if o.f.sa.toNat = i then resultTag o.f.fmt.toNat else old
  | .ald => if o.f.v.toNat = i then o.f.fmt.toNat else old
  | .tzero => if o.f.fn.toNat % 2 = 1 ∧ o.f.v.toNat = i then 0 else old
  | _ => old

def Core.shadowTile (c : Core) (i : Nat) : Nat := c.queue.foldl (fun t o => o.tileTag i t) (c.tile i).tag.toNat
def Core.shadowAcc (c : Core) (i : Nat) : Nat := c.queue.foldl (fun t o => o.accTag i t) (c.acc i).tag.toNat

/-! ### The layout of a transfer in memory (R367) -/

/-- Lines of `len` bytes, `stride` apart, and the addresses and sizes of the side bytes after them. -/
structure Layout where
  lines : Nat
  len : Nat
  stride : Nat
  side : List (Nat × Nat)
deriving DecidableEq, Repr

/-- EA of a displacement, whether or not it passes its window's end. -/
def MatOp.raw (o : MatOp) (d : Nat) : Nat := eaRaw o.f.mode.toNat o.core (o.sum + d)

/-- The side bytes of `rows` rows of `blocks` blocks: one byte a block, then QN4's superscales of some groups. -/
def MatOp.sideOf (o : MatOp) (t rows blocks stride : Nat) (groups : List Nat) : List (Nat × Nat) :=
  (List.range rows).flatMap (fun r => (List.range blocks).map fun b =>
    ((o.side + sideOffset t ((o.off + r * stride + 32 * b) % 2 ^ 64)) % 2 ^ 64, 1)) ++
  (if t = 13 then groups.map fun g => ((o.side + g * 260) % 2 ^ 64, 4) else [])

/-- The groups of QN4 that a drain's blocks touch (R377). -/
def MatOp.groups (o : MatOp) (rows blocks stride : Nat) : List Nat :=
  ((List.range rows).flatMap fun r => (List.range blocks).map fun b =>
    (o.off + r * stride + 32 * b) % 2 ^ 64 / 8192).eraseDups

/-- The layout of a transfer; `tag` is the tile's tag, which TST alone looks at. -/
def MatOp.layout (o : MatOp) (tag : Nat) : Layout :=
  let d := o.td o.f.v.toNat
  let a := o.ad o.f.v.toNat
  match o.kind with
  | .tld =>
    let s := tldSource o.f
    let w := tagWidth s
    if tldMeta o.f then ⟨tRows d, 96, tStride d, []⟩
    else if tldT o.f then ⟨tCols d, tRows d * w / 8, tStride d, []⟩
    else
      let len := (tCols d * w + 7) / 8
      ⟨tRows d, len, tStride d,
        if isBlock s then o.sideOf s (tRows d) (len / 32) (tStride d) [o.off % 2 ^ 64 / 8192] else []⟩
  | .tst =>
    let len := (tCols d * tWidth d + 7) / 8
    ⟨tRows d, len, tStride d,
      if isBlock tag then o.sideOf tag (tRows d) ((len + 31) / 32) (tStride d) [o.off % 2 ^ 64 / 8192] else []⟩
  | .ald => ⟨aRows a, 4 * aCols a, aStride a, []⟩
  | .adrain =>
    let t := o.f.fmt.toNat
    let len := (aCols a * tagWidth t + 7) / 8
    ⟨aRows a, len, aStride a,
      if isBlock t then
        o.sideOf t (aRows a) (len / 32) (aStride a) (o.groups (aRows a) (len / 32) (aStride a)) else []⟩
  | _ => ⟨0, 0, 0, []⟩

/-- The pieces of a transfer in order: displacement (none for a side byte), address and size. -/
def MatOp.pieces (o : MatOp) (l : Layout) : List (Option Nat × Nat × Nat) :=
  (List.range l.lines).flatMap (fun m =>
    let a := o.raw (m * l.stride)
    (piecesOf a l.len).map fun (va, n) => (some (m * l.stride + (va - a)), va, n)) ++
  l.side.flatMap fun (a, n) => (piecesOf a n).map fun (va, k) => (none, va, k)

/-! ### Acceptance (R365) -/

/-- An address that decodes to ADDR (R131). -/
def State.addrBad (s : State) (t : Tid) (va n : Nat) (store : Bool) : Bool :=
  if inFixedWindow va || decide (2 ^ 56 ≤ va) then
    match (s.resolve t.vf t.core va n (if store then .write else .read) true false).1 with
    | .addr => true
    | _ => false
  else false

/-- An address outside the issuing core's scratchpad. -/
def State.notOwnScratch (s : State) (t : Tid) (va n : Nat) : Bool :=
  match windowOf va (s.coreNo t.vf t.core) with
  | some (core, off) => core != s.coreNo t.vf t.core || decide ((s.coreAt t.vf t.core).spSize < off + n)
  | none => true

/-- The first factor of a smoothing vector outside the scratchpad, as a self-window address. -/
def badFactor (c : Core) (smoff n : Nat) : Option Nat :=
  ((List.range n).map fun k => 64 * smoff + 2 * k).find? (fun o => decide (c.spSize < o + 2)) |>.map
    (0x00F2000000000000 + ·)

/-- The checks of step 3: the first operand whose shadow tag is not accepted. -/
def MatOp.tagCheck (o : MatOp) (c : Core) : Option (Nat × Nat) :=
  let t := o.f.fmt.toNat
  let first (l : List (Nat × Nat × Bool)) : Option (Nat × Nat) := (l.find? fun x => !x.2.2).map fun x => (x.1, x.2.1)
  let tile (i : Nat) (ok : Nat → Bool) : Nat × Nat × Bool := (i, c.shadowTile i, ok (c.shadowTile i))
  let acc (i : Nat) (ok : Nat → Bool) : Nat × Nat × Bool := (i, c.shadowAcc i, ok (c.shadowAcc i))
  let res (x : Nat) : Bool := x == 0 || x == resultTag t
  match o.kind with
  | .mma | .mmar => first [tile o.f.sb.toNat (· == t), tile o.f.sc.toNat (partner t), acc o.f.sa.toNat res]
  | .mmas =>
    first [tile o.f.sb.toNat (· == t), tile o.f.sc.toNat (partner t), tile o.f.v.toNat (· == 15), acc o.f.sa.toNat res]
  | .adrain =>
    first [acc o.f.v.toNat fun x =>
      (x == 8 && (t == 8 || t == 6 || t == 7 || t == 9 || t == 10 || isBlock t)) || (x == 4 && (t == 4 || t == 1 || t == 8))]
  | _ => none

/-- The checks of step 4: the number of the first shape register that fails. -/
def MatOp.shapeCheck (o : MatOp) (tag : Nat) : Option Nat :=
  let f := o.f
  let d := o.td f.v.toNat
  let a := o.ad f.v.toNat
  let t := f.fmt.toNat
  match o.kind with
  | .tld =>
    let bad : Bool :=
      if tldMeta f then decide (tRows d < 1 ∨ 64 < tRows d)
      else
        !tOk d || tWidth d != tagWidth t || (tSm d && tldSource f == t) || (tldT f && decide (64 < tCols d)) ||
          (isBlock (tldSource f) && tCols d % blockSize (tldSource f) != 0)
    if bad then some (f.v.toNat % 8) else none
  | .tst => if tOk d then none else some (f.v.toNat % 8)
  | .mma | .mmas | .mmar =>
    let da := o.td f.sb.toNat
    let db := o.td f.sc.toNat
    let ac := o.ad f.sa.toNat
    let w := tagWidth t
    let sparse : Bool := match o.kind with | .mmas => tCols da * w != 768 | _ => false
    if !tOk da || tWidth da != w || tCols da % groupOf t != 0 || sparse then some (f.sb.toNat % 8)
    else if !tOk db || tWidth db != w || tCols db != tCols da then some (f.sc.toNat % 8)
    else if !aOk ac || decide (tRows da < aRows ac) || decide (tRows db < aCols ac) then some (8 + f.sa.toNat % 4)
    else none
  | .adrain =>
    let bad : Bool :=
      !aOk a || (isBlock t && (aCols a % blockSize t != 0 || o.off % 32 != 0 || aStride a % 32 != 0)) ||
        (aSm a && (t == 1 || t == 4)) || (aShift a != 0 && t == 4 && tag == 4)
    if bad then some (8 + f.v.toNat % 4) else none
  | .ald => if aOk a then none else some (8 + f.v.toNat % 4)
  | _ => none

/-- The alignment of step 5, in bytes, and whether it is that of off and stride. -/
def MatOp.align (o : MatOp) (tag : Nat) : Nat × Bool :=
  match o.kind with
  | .tld => if isBlock (tldSource o.f) then (32, true) else (max 1 (tagWidth (tldSource o.f) / 8), false)
  | .tst => if isBlock tag then (32, true) else (max 1 (tWidth (o.td o.f.v.toNat) / 8), false)
  | .ald => (4, false)
  | .adrain => if isBlock o.f.fmt.toNat then (1, false) else (max 1 (tagWidth o.f.fmt.toNat / 8), false)
  | _ => (1, false)

def MatOp.alignCheck (o : MatOp) (tag : Nat) (l : Layout) : Option Nat :=
  let (n, block) := o.align tag
  let n := if o.kind = .tld ∧ tldMeta o.f = true then 1 else n
  if (if block then o.off else o.raw 0) % n ≠ 0 then some (o.raw 0)
  else if l.stride % n ≠ 0 then some (o.raw l.stride)
  else none

/-- The smoothing vector an operation reads: SMOFF and its number of factors. -/
def MatOp.smoothing (o : MatOp) : Option (Nat × Nat) :=
  match o.kind with
  | .tld =>
    let d := o.td o.f.v.toNat
    if tSm d && !tldMeta o.f then some (tSmoff d, tCols d) else none
  | .adrain =>
    let a := o.ad o.f.v.toNat
    if aSm a then some (aSmoff a, aCols a) else none
  | _ => none

/-- The checks of step 6: the first address that gives ADDR. -/
def MatOp.addrCheck (o : MatOp) (s : State) (t : Tid) (l : Layout) : Option Nat :=
  let store : Bool := match o.kind with | .tst => true | _ => false
  let bad : Option Nat × Nat × Nat → Bool := fun (d, va, n) =>
    (match d with | some d => (eaForm o.f.mode.toNat o.core (o.sum + d)).isNone | none => false) ||
      (match o.kind with | .adrain => s.notOwnScratch t va n | _ => s.addrBad t va n store)
  match (o.pieces l).find? bad with
  | some p => some p.2.1
  | none =>
    match o.smoothing with
    | some (off, n) => badFactor (s.coreAt t.vf t.core) off n
    | none => none

/-- The operation as the queue records it (R365). -/
def matOpOf (k : MatKind) (f : LM) (x : Slot) : MatOp where
  kind := k
  f := f
  slot := 0
  seq := x.seq
  tdim := x.tdim
  adim := x.adim
  rmode := x.rmode.toNat
  te := x.waitlim.toNat
  priv := x.priv
  sum := lmSum x f
  core := (x.rs f.sb).toNat % 1024
  off := lmOffset x f
  side := (x.rs f.sc).toNat
  moved := 0
  got := []
  fault := none
  frame := none
  away := none
  exchange := none
  refused := false
  done := false
  flags := 0

/-- The trap a matrix instruction meets at acceptance: its cause and TRAPVAL. -/
def MatOp.check (o : MatOp) (s : State) (t : Tid) (claim : Bool) : Option (Nat × Nat) :=
  let c := s.coreAt t.vf t.core
  let tag := match o.kind with | .adrain => c.shadowAcc o.f.v.toNat | _ => c.shadowTile o.f.v.toNat
  let l := o.layout tag
  if !claim then some (cCLAIM, 0)
  else
    match o.tagCheck c with
    | some (r, g) => some (cTAG, r + 256 * g)
    | none =>
      match o.shapeCheck tag with
      | some n => some (cSHAPE, n)
      | none =>
        match o.alignCheck tag l with
        | some a => some (cMISALIGN, a)
        | none =>
          match o.addrCheck s t l with
          | some a => some (cADDR, a)
          | none => none

/-- A matrix instruction reaches the queue (R365): a trap, or the operation is recorded. -/
def matIssue (k : MatKind) (f : LM) (s : State) : Plan :=
  issuing s fun t x =>
    let o := matOpOf k f x
    match o.check s t x.claim with
    | some (cause, val) => trap s t cause (BitVec.ofNat 64 val) (LM.words f)
    | none =>
      [.core t.vf t.core fun c => { c with queue := c.queue ++ [{ o with slot := t.slot }] },
       .slot t (·.advance (x.after (LM.words f)))]

def execTld (f : LM) (s : State) := run (matIssue .tld f s) s
def execTst (f : LM) (s : State) := run (matIssue .tst f s) s
def execTzero (f : LM) (s : State) := run (matIssue .tzero f s) s
def execMma (f : LM) (s : State) := run (matIssue .mma f s) s
def execMmas (f : LM) (s : State) := run (matIssue .mmas f s) s
def execMmar (f : LM) (s : State) := run (matIssue .mmar f s) s
def execAdrain (f : LM) (s : State) := run (matIssue .adrain f s) s
def execAld (f : LM) (s : State) := run (matIssue .ald f s) s
def execMsync (f : LM) (s : State) := run (matIssue .msync f s) s

/-! ### Elements of tiles and accumulators -/

/-- Element c of row r of a tile, at width w. -/
def Tile.el (x : Tile) (w r c : Nat) : Nat := elem w (elem 768 x.data.toNat r) c

/-- A tile from its rows and its side bytes. -/
def tileOf (rows : List (List Nat)) (w : Nat) (side : List Nat) (tag : Nat) : Tile :=
  ⟨BitVec.ofNat 49152 (packElems 768 (rows.map (packElems w))), BitVec.ofNat 2048 (packElems 8 side), BitVec.ofNat 5 tag⟩

/-- Element (i, j) of an accumulator. -/
def Acc.el (x : Acc) (i j : Nat) : Nat := elem 32 x.data.toNat (64 * i + j)

/-- The scale byte of the block of column k in a row of a tile. -/
def Tile.scale (x : Tile) (t r k : Nat) : Nat := (byteAt x.side.toNat (3 * r + k / blockSize t)).toNat

/-- The value of the element stored at column c of a tile's row, standing for column k: by its type, the scale of k's block
and the tile's superscale (R219, R227). -/
def Tile.valAs (x : Tile) (t r c k : Nat) : FVal :=
  let v := x.el (tagWidth t) r c
  if isBlock t then blockVal t v (x.scale t r k) (x.side.toNat / 2 ^ 1536 % 2 ^ 32) else unpackF (ffmt t) v

/-- The value of an element of a tile. -/
def Tile.val (x : Tile) (t r c : Nat) : FVal := x.valAs t r c c

/-- BF16 factor k of a smoothing vector in the core's scratchpad (R224). -/
def Core.factor (c : Core) (smoff k : Nat) : Nat := leNat (readBytes c.sram (64 * smoff + 2 * k) 2)

/-! ### Loading tiles and accumulators (R368 to R372) -/

/-- A number of w bits from the bytes a load has read, at a bit offset of line m; none when they have not been read. -/
def gotEl (got : List Byte) (len m w i : Nat) : Option Nat :=
  let lo := m * len + w * i / 8
  let n := max 1 (w / 8)
  if lo + n ≤ got.length then some (leNat ((got.drop lo).take n) / 2 ^ (w * i % 8) % 2 ^ w) else none

/-- The tile that TLD leaves, from the bytes it has read: an element not loaded is zero (R368, R369, R379). -/
def MatOp.loadedTile (o : MatOp) (c : Core) : Tile :=
  let f := o.f
  let d := o.td f.v.toNat
  let t := f.fmt.toNat
  let s := tldSource f
  let l := o.layout 0
  let base := l.lines * l.len
  if tldMeta f then
    tileOf ((List.range (tRows d)).map fun r => (List.range 96).map fun b => ((o.got.getD (96 * r + b) 0).toNat)) 8 [] 15
  else
    let blocks := l.len / 32
    let sideByte (r b : Nat) : Option Nat := (o.got[base + r * blocks + b]?).map (·.toNat)
    let super : Option Nat :=
      if base + l.lines * blocks + 4 ≤ o.got.length then some (leNat ((o.got.drop (base + l.lines * blocks)).take 4)) else none
    let el (r k : Nat) : Nat :=
      let x := if tldT f then gotEl o.got l.len k (tagWidth s) r else gotEl o.got l.len r (tagWidth s) k
      match x with
      | none => 0
      | some x =>
        if s = t then x
        else
          let v : Option FVal :=
            if isBlock s then
              match sideByte r (k / blockSize s), (if s = 13 then super else some 0) with
              | some e, some q => some (blockVal s x e q)
              | _, _ => none
            else some (unpackF (ffmt s) x)
          match v with
          | none => 0
          | some v =>
            let v := if tSm d then smoothLoad v (c.factor (tSmoff d) k) else v
            (roundF (ffmt t) o.rmode (f.sat == 1) v).1
    let side : List Nat :=
      if isBlock t then
        (List.range 256).map fun n =>
          if n / 3 < tRows d ∧ n % 3 < blocks ∧ n < 192 then (sideByte (n / 3) (n % 3)).getD 0
          else if t = 13 ∧ 192 ≤ n ∧ n < 196 then super.getD 0 / 2 ^ (8 * (n - 192)) % 256
          else 0
      else []
    tileOf ((List.range (tRows d)).map fun r => (List.range (tCols d)).map (el r)) (tagWidth t) side t

/-- The accumulator that ALD leaves (R372). -/
def MatOp.loadedAcc (o : MatOp) : Acc :=
  let a := o.ad o.f.v.toNat
  let len := 4 * aCols a
  ⟨BitVec.ofNat 131072 (packElems 2048 ((List.range (aRows a)).map fun i =>
      packElems 32 ((List.range (aCols a)).map fun j => (gotEl o.got len i 32 j).getD 0))), o.f.fmt⟩

/-- A load's storage is written from what it has read. -/
def Core.finishLoad (c : Core) (o : MatOp) : Core :=
  match o.kind with
  | .tld => { c with tiles := put c.tiles o.f.v.toNat (o.loadedTile c) }
  | .ald => { c with accs := put c.accs o.f.v.toNat o.loadedAcc }
  | _ => c

/-- The bytes TST stores, in the order of its pieces (R370). -/
def MatOp.storedTile (o : MatOp) (c : Core) : List Byte :=
  let x := c.tile o.f.v.toNat
  let l := o.layout x.tag.toNat
  (List.range l.lines).flatMap (fun r => leBytes l.len (elem 768 x.data.toNat r)) ++
    (if isBlock x.tag.toNat then
      (List.range l.lines).flatMap (fun r => (List.range ((l.len + 31) / 32)).map fun b => byteAt x.side.toNat (3 * r + b)) ++
        (if x.tag = 13 then (List.range 4).map fun i => byteAt x.side.toNat (192 + i) else [])
    else [])

/-- The bytes of which TST writes the low element only: the last of each row of an odd number of 4-bit elements. -/
def MatOp.halfBytes (o : MatOp) : List Nat :=
  let d := o.td o.f.v.toNat
  if tWidth d = 4 ∧ tCols d % 2 = 1 then (List.range (tRows d)).map fun r => o.raw (r * tStride d) + tCols d / 2 else []

/-! ### Products (R225, R227, R373, R374) -/

/-- The exact sum of a list of values, from the left. A sum that is zero has the sign that IEEE additions give it: a group of
products that are all -0 sums to -0 (R227; DESIGN CHOICE, log entry 133). -/
def sumV : List FVal → FVal
  | [] => .zero false
  | v :: vs => vs.foldl (addV 0) v

/-- A list cut into runs of n. -/
def splitEvery (n : Nat) : Nat → List FVal → List (List FVal)
  | 0, _ => []
  | k + 1, l => l.take n :: splitEvery n k (l.drop n)

/-- The index idx of kept element p of row r of a metadata tile (R225). -/
def Tile.index (x : Tile) (r p : Nat) : Nat := elem 5 (elem 768 x.data.toNat r) p

/-- The places that hold logical element k of a row in the N-of-24 form. -/
def keptAt (md : Tile) (n r k : Nat) : List Nat :=
  ((List.range n).map fun m => k / 24 * n + m).filter fun p => md.index r p == k % 24

/-- Row r of A as values: dense, or by its metadata, each logical element under the scale of its own group's block (R225,
R374). An MX scale of 255 makes the sum of its group NaN also where the row keeps no element of it (log entry 31). -/
def rowValues (x : Tile) (t r len : Nat) (md : Option (Tile × Nat)) : List FVal :=
  (List.range len).map fun k =>
    match md with
    | none => x.val t r k
    | some (y, n) =>
      if (t = 11 ∨ t = 12) ∧ x.scale t r k = 255 then .nan false
      else sumV ((keptAt y n r k).map fun p => x.valAs t r p k)

/-- The same for integer types. -/
def rowInts (x : Tile) (t r len : Nat) (md : Option (Tile × Nat)) : List Int :=
  (List.range len).map fun k =>
    let v (p : Nat) : Int := intVal t (x.el (tagWidth t) r p)
    match md with
    | none => v k
    | some (y, n) => (keptAt y n r k).foldl (fun a p => a + v p) 0

/-- One element of a product: the groups added in increasing k, two roundings each (R227). -/
def addGroups (acc : Nat) (as bs : List (List FVal)) : Nat × Flags :=
  (as.zip bs).foldl (fun (r : Nat × Flags) (a, b) =>
    let (g, f1) := roundF (ffmt 8) 0 false (sumV (List.zipWith mulV a b))
    let (x, f2) := roundF (ffmt 8) 0 false (addV 0 (unpackF (ffmt 8) r.1) (unpackF (ffmt 8) g))
    (x, r.2 ||| f1 ||| f2)) (acc, 0)

/-- The accumulator and the flags after a product. -/
def MatOp.product (o : MatOp) (c : Core) : Acc × Flags :=
  let f := o.f
  let t := f.fmt.toNat
  let a := c.tile f.sb.toNat
  let b := c.tile f.sc.toNat
  let old := c.acc f.sa.toNat
  let ad := o.ad f.sa.toNat
  let len := tCols (o.td f.sb.toNat)
  let md := match o.kind with | .mmas => some (c.tile f.v.toNat, mmasN f) | _ => none
  let tb := b.tag.toNat
  let out (els : Nat → Nat → Nat × Flags) : Acc × Flags :=
    let rs := (List.range 4096).map fun n =>
      if n / 64 < aRows ad ∧ n % 64 < aCols ad then els (n / 64) (n % 64) else (old.el (n / 64) (n % 64), (0 : Flags))
    (⟨BitVec.ofNat 131072 (packElems 32 (rs.map (·.1))), BitVec.ofNat 5 (resultTag t)⟩, orFlags (rs.map (·.2)))
  if t = 1 ∨ t = 14 then
    let as := (List.range (aRows ad)).map fun i => rowInts a t i len md
    let bs := (List.range (aCols ad)).map fun j => rowInts b t j len none
    out fun i j =>
      let sum := (List.zipWith (· * ·) (as.getD i []) (bs.getD j [])).foldl (· + ·) 0
      (ofSigned 32 ((old.el i j : Int) + sum), 0)
  else
    let g := groupOf t
    let as := (List.range (aRows ad)).map fun i => splitEvery g (len / g) (rowValues a t i len md)
    let bs := (List.range (aCols ad)).map fun j => splitEvery g (len / g) (rowValues b tb j len none)
    out fun i j => addGroups (old.el i j) (as.getD i []) (bs.getD j [])

/-! ### Draining (R376, R377) -/

/-- y of one element, with the flags of smoothing. -/
def MatOp.drainValue (o : MatOp) (c : Core) (x : Acc) (i j : Nat) : FVal × Flags :=
  let a := o.ad o.f.v.toNat
  let v := if x.tag = 4 then intV (toSigned 32 (x.el i j)) else unpackF (ffmt 8) (x.el i j)
  let v := match v with
    | .num n m e st => .num n m (e + aShift a) st
    | v => v
  if aSm a then
    let (q, dz) := divV 23 (.num false 1 0 false) (unpackF (ffmt 7) (c.factor (aSmoff a) j))
    let (r, f1) := roundF (ffmt 8) 0 false q
    let (y, f2) := roundF (ffmt 7) 0 false (mulV v (unpackF (ffmt 8) r))
    (unpackF (ffmt 7) y, dz ||| f1 ||| f2)
  else (v, 0)

/-- An integer result: rounded by RMODE, NX when that is inexact, then clamped, SAT when the clamp changes it. -/
def drainInt (t rm : Nat) (v : FVal) : Nat × Flags :=
  let w := tagWidth t
  let (lo, hi) := intRange t
  match v with
  | .nan _ => (0, 0)
  | .inf n => (ofSigned w (if n then lo else hi), flSAT)
  | .zero _ => (0, 0)
  | .num n m e s =>
    let (q, inexact) := roundInt rm n m e s
    let c := clampInt lo hi q
    (ofSigned w c, flagIf inexact flNX ||| flagIf (c != q) flSAT)

/-- z of one element of a type that is not a block format. -/
def drainElem (t rm : Nat) (sat : Bool) (v : FVal) : Nat × Flags :=
  if t = 1 ∨ t = 4 then drainInt t rm v else roundF (ffmt t) rm sat v

/-- The writes of a drain without a reduction: scratchpad offsets and bytes, and the flags. -/
def MatOp.drained (o : MatOp) (c : Core) (place : Nat → Nat) : List (Nat × Byte) × Flags :=
  let t := o.f.fmt.toNat
  let x := c.acc o.f.v.toNat
  let a := o.ad o.f.v.toNat
  let l := o.layout 0
  let ys := (List.range (aRows a)).map fun i => (List.range (aCols a)).map fun j => o.drainValue c x i j
  let fl := orFlags (ys.flatten.map (·.2))
  let row (i : Nat) (bs : List Byte) : List (Nat × Byte) :=
    bs.zipIdx.map fun (b, k) => (place (o.raw (i * l.stride)) + k, b)
  if isBlock t then
    let vs := ys.map fun r => r.map fun y => roundF (ffmt 8) 0 false y.1
    let q := if t = 13 then superscale (vs.flatten.map (·.1)) else 0
    let size := blockSize t
    let blocks := aCols a / size
    let rs := vs.map fun r => (List.range blocks).map fun b =>
      let v := ((r.map (·.1)).drop (b * size)).take size
      if t = 13 then ((qnBlock q v).1, (qnBlock q v).2, (0 : Flags)) else mxQuant t v
    let data := (rs.zipIdx.flatMap fun (r, i) => row i (leBytes l.len (packElems (tagWidth t) (r.flatMap (·.1)))))
    let scales := rs.flatten.map (·.2.1)
    let side := ((l.side.zipIdx).flatMap fun ((va, n), k) =>
      if k < scales.length then [(place va, BitVec.ofNat 8 (scales.getD k 0))]
      else (leBytes n q).zipIdx.map fun (b, i) => (place va + i, b))
    (data ++ side, fl ||| orFlags (vs.flatten.map (·.2)) ||| orFlags (rs.flatten.map (·.2.2)))
  else
    let zs := ys.map fun r => r.map fun y => drainElem t o.rmode (o.f.sat == 1) y.1
    (zs.zipIdx.flatMap fun (r, i) => row i (leBytes l.len (packElems (tagWidth t) (r.map (·.1)))),
      fl ||| orFlags (zs.flatten.map (·.2)))

/-- A byte written by the matrix unit into its scratchpad: its word is set full (R171). -/
def Core.engineByte (c : Core) (o : Nat) (b : Byte) : Core :=
  if o < c.spSize then ({ c with sram := writeCell c.sram o b } : Core).setFull o true else c

/-- A reducing write of one F32 element at the bank (R154): .radd or .rmax. -/
def Core.reduceWord (c : Core) (mx : Bool) (o z : Nat) : Core × Flags :=
  let old := leNat (readBytes c.sram o 4)
  let (r, fl) := if mx then minMaxF true 8 old z else arithF .add 8 0 old z
  ((leBytes 4 r).zipIdx.foldl (fun c (b, i) => c.engineByte (o + i) b) c, fl)

/-- Four bytes at a time of a list of writes, as words. -/
def wordsOf : List (Nat × Byte) → List (Nat × Nat)
  | (o, a) :: (_, b) :: (_, c) :: (_, d) :: rest => (o, leNat [a, b, c, d]) :: wordsOf rest
  | _ => []

/-- ADRAIN: the core after it, and its flags. -/
def MatOp.drain (o : MatOp) (c : Core) (self : Nat) : Core × Flags :=
  let a := o.ad o.f.v.toNat
  let place (va : Nat) : Nat := ((windowOf va self).map (·.2)).getD c.spSize
  let (ws, fl) := o.drained c place
  let red := o.f.fn.toNat % 4
  let (c', fl) :=
    if red = 0 then (ws.foldl (fun c (k, b) => c.engineByte k b) c, fl)
    else (wordsOf ws).foldl (fun (r : Core × Flags) (k, z) =>
      let (c, g) := r.1.reduceWord (red == 2) k z
      (c, r.2 ||| g)) (c, fl)
  if bit o.f.fn.toNat 2 then
    let x := c.acc o.f.v.toNat
    let y := (List.range 4096).map fun n => if n / 64 < aRows a ∧ n % 64 < aCols a then 0 else x.el (n / 64) (n % 64)
    ({ c' with accs := put c'.accs o.f.v.toNat ⟨BitVec.ofNat 131072 (packElems 32 y), x.tag⟩ }, fl)
  else (c', fl)

/-! ### The ramp limiter (R89, R90) -/

/-- The array cycles of a product. -/
def MatOp.count (o : MatOp) : Nat :=
  match o.kind with
  | .mma | .mmar => 192
  | .mmas => 192 * mmasN o.f / 24
  | _ => 0

/-- The effective ceiling C of an isle (R22, R23, R89). -/
def State.ceiling (s : State) (isle : Nat) : Nat := min (s.module.thermalCeil.getD (isle / 16) 8) s.module.powerCeil

/-- The windows of an isle with nothing counted need no step of their own: it stands in the window of now. -/
def Isle.current (x : Isle) (n : Nat) : Isle :=
  if x.sNow = 0 ∧ x.sPrev = 0 then { x with window := n, per := List.replicate 16 0 } else x

/-- A product started in window n on unit `j` of the isle. -/
def Isle.start (x : Isle) (n j count : Nat) : Isle :=
  let x := x.current n
  { x with sNow := x.sNow + count, per := x.per.modify j (· + count) }

/-- A product of `count` array cycles may start. -/
def State.rampOk (s : State) (isle count : Nat) : Bool :=
  let x := (s.isleAt isle).current (s.cycle / 1700)
  decide (x.window = s.cycle / 1700 ∧ x.sNow + count ≤ x.sPrev + 3400 ∧ x.sNow + count ≤ s.ceiling isle * 3400)

/-! ### Starting the oldest operation (R366) -/

/-- The oldest operation of the queue changed. -/
def Core.setHead (c : Core) (g : MatOp → MatOp) : Core :=
  { c with queue := match c.queue with | o :: rest => g o :: rest | [] => [] }

/-- The neighbours of R2 within the atoll's rings (R59). -/
def westOf (off : Nat) : Nat := off / 4 * 4 + (off % 4 + 3) % 4
def northOf (size off : Nat) : Nat :=
  let rows := min 4 (size / 4)
  off / 16 * 16 + (off / 4 % 4 + rows - 1) % rows * 4 + off % 4

/-- A transfer stopped by a fault: the message leaves with ENGINE set (R119, R379). One at an address that is no longer
there is refused at once. -/
def State.stopMatrix (s : State) (t : Tid) (o : MatOp) (w : Where) (va : Nat) (store : Bool) : List Eff :=
  let post (k : Nat) : List Eff :=
    [.core t.vf t.core (·.setHead fun o => { o with fault := some (pageOf va) }),
     .send t o.seq 0 (.fault (pageOf va) va k (if store then .write else .read) true 0 0 none)]
  match w with
  | .frame n => .core t.vf t.core (·.setHead fun o => { o with frame := some (n, va) }) :: s.frameWait t.vf n
  | .fault k => post k
  | .away _ =>
    match o.away with
    | some since => if since + hubWait ≤ s.cycle then post cLINK else []
    | none => [.core t.vf t.core (·.setHead fun o => { o with away := some s.cycle })]
  -- it is held at a narrow (R12)
  | .narrow => []
  | _ =>
    [.core t.vf t.core fun c =>
      let c := { c with fault := true }
      match c.queue with
      | o :: _ => (c.finishLoad o).setHead fun o => { o with refused := true, done := true }
      | [] => c]

/-- A transfer moves its pieces, from the first not yet moved (R367, R379). -/
def State.startTransfer (s : State) (vf off : Nat) (o : MatOp) : List Eff :=
  let t : Tid := ⟨vf, off, o.slot⟩
  let c := s.coreAt vf off
  let all := (o.pieces (o.layout (c.tile o.f.v.toNat).tag.toNat)).map (·.2)
  let left := all.drop o.moved
  match o.kind with
  | .tst =>
    let data := (layOn all (o.storedTile c)).drop o.moved
    let (es, stop) := s.moveOut t o.priv true o.halfBytes data
    let n := match stop with | some (_, l) => all.length - l.length | none => all.length
    es ++ .core vf off (·.setHead fun o => { o with moved := n, done := stop.isNone, away := if n = o.moved then o.away else none }) ::
      (match stop with
        | some (w, l) => (applyAll es s).stopMatrix t o w ((l.head?.map (·.1)).getD 0) true
        | none => [])
  | _ =>
    let (b, es, stop) := s.moveIn vf off o.priv left
    let n := match stop with | some (_, l) => all.length - l.length | none => all.length
    es ++ .core vf off (fun c =>
        let c := c.setHead fun o => { o with
          moved := n, got := o.got ++ b, done := stop.isNone, away := if n = o.moved then o.away else none }
        match stop, c.queue with
        | none, o :: _ => c.finishLoad o
        | _, _ => c) ::
      (match stop with
        | some (w, l) => (applyAll es s).stopMatrix t o w ((l.head?.map (·.1)).getD 0) false
        | none => [])

/-- A product runs; MMAR then begins its exchange (R375). -/
def State.startProduct (s : State) (vf off : Nat) (o : MatOp) : List Eff :=
  let c := s.coreAt vf off
  let core := s.coreNo vf off
  let (acc, fl) := o.product c
  let size := match s.vdAt vf with | some v => atollSize v.node | none => 16
  let t : Tid := ⟨vf, off, o.slot⟩
  let a := c.tile o.f.sb.toNat
  let b := c.tile o.f.sc.toNat
  .isle (isleOf core) (·.start (s.cycle / 1700) (core % 16) o.count) ::
    .core vf off (fun c =>
      ({ c with accs := put c.accs o.f.sa.toNat acc } : Core).setHead fun o => { o with flags := o.flags ||| fl }) ::
    (match o.kind with
      | .mmar =>
        [.core vf off (·.setHead fun p => { p with exchange := some s.cycle }),
         .send t o.seq 0 (.tile (westOf off) true a.data a.side),
         .send t o.seq 0 (.tile (northOf size off) false b.data b.side)]
      | _ => [.core vf off (·.setHead fun p => { p with done := true })])

/-- The oldest operation, not parked and not done, starts. -/
def State.startHead (s : State) (vf off : Nat) (o : MatOp) : List Eff :=
  match o.kind with
  | .tld | .tst | .ald => s.startTransfer vf off o
  | .tzero =>
    [.core vf off fun c =>
      let c := if o.f.fn.toNat % 2 = 1 then { c with accs := erase c.accs o.f.v.toNat }
        else { c with tiles := erase c.tiles o.f.v.toNat }
      c.setHead fun o => { o with done := true }]
  | .mma | .mmas | .mmar => s.startProduct vf off o
  | .adrain =>
    [.core vf off fun c =>
      let (c, fl) := o.drain c (s.coreNo vf off)
      c.setHead fun o => { o with done := true, flags := o.flags ||| fl }]
  | .msync => [.core vf off (·.setHead fun o => { o with done := true })]

/-- A core whose context has been saved does nothing until its next turn (R125). -/
def State.asleep (s : State) (vf off : Nat) : Bool :=
  (s.coreAt vf off).halted && match s.vdAt vf with | some v => !v.saving.contains off | none => true

/-- An operation that has not started waits for its thread's accesses before it, or for the thread's wait at a barrier (R172,
R249). On a core that halts it completes without what the halt abandons or a fault holds (R380). MSYNC accesses nothing
(R378). -/
def State.awaits (s : State) (vf off : Nat) (o : MatOp) : Bool :=
  let t : Tid := ⟨vf, off, o.slot⟩
  o.kind != .msync && o.moved == 0 && if (s.coreAt vf off).halted then s.underWay t o.seq else s.readsLater t o.seq

/-- The oldest operation may start: it waits on nothing, and a product fits under the ramp limiter. -/
def State.canStart (s : State) (vf off : Nat) (o : MatOp) : Bool :=
  (s.vdAt vf).isSome && !s.asleep vf off && !o.done && o.fault.isNone && o.frame.isNone && o.exchange.isNone &&
    !s.awaits vf off o && (!o.kind.product || s.rampOk (isleOf (s.coreNo vf off)) o.count)

/-- An operation starts: the dirty bytes of its core reach their homes before its first read (R172). -/
def planMatStart (vf off : Nat) (s : State) : Plan :=
  match (s.coreAt vf off).queue with
  | o :: _ =>
    let e := if o.moved = 0 then s.release ⟨vf, off, o.slot⟩ 4 none else []
    when "MATRIX_OP_START" (s.canStart vf off o) (e ++ (applyAll e s).startHead vf off o)
  | [] => .error (.event "MATRIX_OP_START")

def execMatrixOpStart (vf core : Nat) (s : State) := run (planMatStart vf core s) s

/-! ### The exchange of MMAR (R375) -/

/-- A tile reaches its neighbour's landing buffer, once that buffer is empty. -/
def planLanding (s : State) : Plan :=
  match s.delivering with
  | some f =>
    match f.pk with
    | .tile core toLa data side =>
      let c := s.coreAt f.tid.vf core
      when "MMAR_LANDING" (!s.asleep f.tid.vf core && if toLa then c.la.isNone else c.lb.isNone)
        [.drop f.id, .core f.tid.vf core fun c =>
          if toLa then { c with la := some (data, side) } else { c with lb := some (data, side) }]
    | _ => .error (.event "MMAR_LANDING")
  | none => .error (.event "MMAR_LANDING")

def execMmarLanding (s : State) := run (planLanding s) s

/-- The sends of an operation that have not been made. -/
def State.unsent (s : State) (vf off : Nat) (o : MatOp) : List Flight :=
  s.flights.filter fun f => f.tid == ⟨vf, off, o.slot⟩ && f.seq == o.seq &&
    (match f.pk with | .tile .. => true | _ => false)

/-- The exchange has ended: sends made, both buffers full. -/
def State.exchanged (s : State) (vf off : Nat) (o : MatOp) : Bool :=
  let c := s.coreAt vf off
  s.unsent vf off o == [] && c.la.isSome && c.lb.isSome

/-- Tiles taken from the landing buffers that have filled; tags do not travel. -/
def Core.takeLanded (c : Core) (o : MatOp) : Core :=
  let c := match c.la with
    | some (d, sd) =>
      { c with tiles := put c.tiles o.f.sb.toNat ⟨d, sd, (c.tile o.f.sb.toNat).tag⟩, la := none }
    | none => c
  match c.lb with
  | some (d, sd) =>
    { c with tiles := put c.tiles o.f.sc.toNat ⟨d, sd, (c.tile o.f.sc.toNat).tag⟩, lb := none }
  | none => c

def planExchangeTimeout (vf off : Nat) (s : State) : Plan :=
  match (s.coreAt vf off).queue with
  | o :: _ =>
    match o.exchange with
    | some since =>
      when "MMAR_EXCHANGE_TIMEOUT"
        (decide (o.te ≠ 31 ∧ since + 2 ^ o.te ≤ s.cycle) && !s.exchanged vf off o && (s.vdAt vf).isSome &&
          !s.asleep vf off)
        ((s.unsent vf off o).map (fun f => .drop f.id) ++
          [.core vf off fun c =>
            ({ c.takeLanded o with rotto := true } : Core).setHead fun o => { o with exchange := none, done := true }])
    | none => .error (.event "MMAR_EXCHANGE_TIMEOUT")
  | [] => .error (.event "MMAR_EXCHANGE_TIMEOUT")

def execMmarExchangeTimeout (vf core : Nat) (s : State) := run (planExchangeTimeout vf core s) s

/-! ### Completion (R366, R379, R381) -/

/-- The oldest operation has been performed; an MMAR's exchange has ended. -/
def State.canComplete (s : State) (vf off : Nat) (o : MatOp) : Bool :=
  (s.vdAt vf).isSome && !s.asleep vf off && (o.done || (o.exchange.isSome && s.exchanged vf off o))

def planMatComplete (vf off : Nat) (s : State) : Plan :=
  match (s.coreAt vf off).queue with
  | o :: _ =>
    let t : Tid := ⟨vf, off, o.slot⟩
    let es : List Eff :=
      [.core vf off (fun c =>
          let c := if o.exchange.isSome then c.takeLanded o else c
          { c with queue := c.queue.drop 1 }),
       .slot t (fun x => { x with fpflags := x.fpflags ||| o.flags })] ++
      (if o.refused then [] else [.core vf off (·.addSem o.f.gq.toNat o.f.gv.toNat)])
    when "MATRIX_OP_COMPLETE" (s.canComplete vf off o) (es ++ finishHalt (applyAll es s) t)
  | [] => .error (.event "MATRIX_OP_COMPLETE")

def execMatrixOpComplete (vf core : Nat) (s : State) := run (planMatComplete vf core s) s

end Sys2Proof.Machine
end

