-- ==== Sys2Proof/Machine/Engine.lean ====
section
/-! DEFINITION. Copy engines and image decoders (chapter 21): jobs and their acceptance (R382 to R387), what they deliver
(R388 to R400), and job control (R401). -/

namespace Sys2Proof.Machine

/-! ### The copy unit of an isle (R382, R383) -/

/-- A job's name in the copy unit: its id and its virtual function. A restore can bring an id that another virtual device
uses. -/
def Job.key (j : Job) : Nat := j.id + 65536 * j.vf

/-- A job is live until it ends. -/
def Job.live (j : Job) : Bool := match j.state with | .ended _ => false | _ => true

/-- Jobs of one core that ended, beyond the 64 most recent, are forgotten. -/
def Isle.prune (x : Isle) : Isle :=
  let old (j : Job) : Bool :=
    !j.live && decide (64 ≤ ((x.ended.takeWhile (· != j.key)).filter fun i =>
      x.jobs.any fun k => k.key == i && k.vf == j.vf && k.core == j.core).length)
  let keep := x.jobs.filter fun j => !old j
  { x with jobs := keep, ended := x.ended.filter fun i => keep.any (·.key == i) }

/-- A job changed. -/
def Isle.modJob (x : Isle) (id : Nat) (g : Job → Job) : Isle :=
  { x with jobs := x.jobs.map fun j => if j.key = id then g j else j }

/-- A job ends with a status; its engine or decoder is free. -/
def Isle.finish (x : Isle) (id status : Nat) : Isle :=
  let x := x.modJob id fun j =>
    { j with
      state := .ended status, decoder := none, carry := [], cells := [], staged := [], faultPage := none, frame := none
      away := none, cancels := [] }
  ({ x with ended := id :: x.ended } : Isle).prune

def Isle.job? (x : Isle) (id : Nat) : Option Job := x.jobs.find? (·.key == id)

/-- The next id that is not 0 and not in use, looked for from a candidate on. -/
def Isle.idFrom (x : Isle) : Nat → Nat → Nat
  | 0, c => c
  | k + 1, c => if c = 0 ∨ (x.jobs.any (·.id == c)) = true then Isle.idFrom x k ((c + 1) % 65536) else c

def Isle.newId (x : Isle) : Nat := x.idFrom (x.jobs.length + 2) ((x.lastJob + 1) % 65536)

/-- The queue entries of a virtual device's atoll in one isle (R59). -/
def queueSize (node : Nat) : Nat := if 16 ≤ atollSize node then 64 else 4 * atollSize node

/-- The isle of a virtual device's core. -/
def State.isleNo (s : State) (vf off : Nat) : Nat := isleOf (s.coreNo vf off)

/-- The effective priority of a thread's node (R79). -/
def State.prioOf (s : State) (t : Tid) : Nat :=
  match (s.slotOf t).team with
  | some r =>
    match (s.vdAt t.vf).bind (·.nodeAt r.graph r.node) with
    | some n => n.prio + n.aged
    | none => 0
  | none => 0

/-! ### The transfer descriptor (R393, R394) -/

/-- Table 21.4. -/
structure Desc where
  rows : Nat
  cols : Nat
  st : Nat
  dt : Nat
  t : Bool
  sm : Bool
  red : Nat
  sat : Bool
  lform : Bool
  sst : Int
  dst : Int
  ssd : Nat
  dsd : Nat
  sh : Nat
  sw : Nat
  list : Nat
  nl : Nat
  smoff : Nat
  zero : Bool                   -- the reserved bits are zero
deriving DecidableEq, Repr

def descOf (b : BitVec 512) : Desc :=
  let x := b.toNat
  let g (o n : Nat) : Nat := x / 2 ^ (8 * o) % 2 ^ (8 * n)
  let chain := g 6 2
  { rows := g 0 2, cols := g 2 2, st := g 4 1, dt := g 5 1, t := bit chain 0, sm := bit chain 1,
    red := bits chain 3 2, sat := bit chain 4, lform := bit chain 5, sst := toSigned 64 (g 8 8),
    dst := toSigned 64 (g 16 8), ssd := g 24 8, dsd := g 32 8, sh := g 40 4, sw := g 44 4, list := g 48 8,
    nl := g 56 2, smoff := g 58 2 % 8192,
    zero := chain / 64 == 0 && g 58 2 / 8192 == 0 && g 60 4 == 0 }

def loadType (t : Nat) : Bool := t == 6 || t == 7 || t == 9 || t == 10 || isBlock t
def Desc.loadPair (d : Desc) : Bool := loadType d.st && (d.dt == 8 || d.dt == 6 || d.dt == 7) && d.dt != d.st
def Desc.storePair (d : Desc) : Bool := d.st == 8 && loadType d.dt
def Desc.reduces (d : Desc) : Bool := d.red == 1 || d.red == 2

/-- Stages of both half-chains: ILLEGAL. -/
def Desc.illegal (d : Desc) : Bool := (d.t || d.loadPair) && (d.reduces || d.storePair)

/-- The layout conditions of one side of a transfer. -/
def sideBad (t cols base : Nat) (stride : Int) : Bool :=
  if isBlock t then cols % blockSize t != 0 || base % 32 != 0 || stride % 32 != 0
  else if tagWidth t = 4 then cols % 2 != 0
  else base % (tagWidth t / 8) != 0 || stride % (tagWidth t / 8 : Nat) != 0

/-- A field out of range: DENIED. -/
def Desc.denied (d : Desc) (k : JobKind) (dst src : Nat) : Bool :=
  let copy := d.st == d.dt && d.red == 0
  let reduce := d.st == d.dt && (d.st == 8 || d.st == 4) && d.reduces
  let block := if isBlock d.st then blockSize d.st else if isBlock d.dt then blockSize d.dt else 1
  !d.zero || d.rows == 0 || d.cols == 0 || decide (14 < d.st) || decide (14 < d.dt) || d.red == 3 ||
    !(copy || reduce || d.loadPair || d.storePair) || (d.reduces && !reduce) ||
    (d.sm && !(d.loadPair || d.storePair)) ||
    (d.t && (decide (64 < d.rows) || decide (64 < d.cols) || tagWidth d.dt == 4 || isBlock d.dt)) ||
    sideBad d.st d.cols src d.sst || sideBad d.dt d.cols dst d.dst ||
    (match k with
      | .cpy2 => d.sh != 0 || d.sw != 0 || d.list != 0 || d.nl != 0
      | _ => d.nl == 0 || d.list % 4 != 0 || (!d.lform && (d.rows != 1 || decide (d.sw < d.cols))) ||
          (d.lform && d.sw % block != 0))

/-- The decode descriptor (Table 21.7). -/
structure DecDesc where
  slen : Nat
  ptab : Nat
  work : Nat
  kind : Nat
  patch : Nat
  ch : Nat
  maxp : Nat
  g4w : Nat
  g4h : Nat
  pad : List Nat
  mean : List Nat
  istd : List Nat
  bad : Bool                    -- a field out of range
deriving DecidableEq, Repr

def decDescOf (b : BitVec 512) : DecDesc :=
  let x := b.toNat
  let g (o n : Nat) : Nat := x / 2 ^ (8 * o) % 2 ^ (8 * n)
  let kind := g 24 1
  let p := g 25 1
  { slen := g 0 8, ptab := g 8 8, work := g 16 8, kind := kind,
    patch := (match p with | 0 => 14 | 1 => 16 | 2 => 28 | _ => 32), ch := g 26 1, maxp := g 28 4, g4w := g 32 2,
    g4h := g 34 2, pad := [g 36 1, g 37 1, g 38 1], mean := [g 40 2, g 42 2, g 44 2], istd := [g 46 2, g 48 2, g 50 2],
    bad := g 0 8 == 0 || decide (2 ^ 32 ≤ g 0 8) || g 8 8 % 4 != 0 || decide (1 < kind) || decide (3 < p) ||
      !(g 26 1 == 1 || g 26 1 == 3) || g 27 1 != 0 || g 28 4 == 0 || g 39 1 != 0 || g 52 12 != 0 ||
      (if kind = 0 then g 16 8 % 64 != 0 || g 32 2 != 0 || g 34 2 != 0
       else g 16 8 != 0 || g 32 2 == 0 || g 34 2 == 0) }

/-! ### Acceptance (R384 to R386) -/

/-- The result word of Table 21.1. -/
def jobResult (status id : Nat) : Word := BitVec.ofNat 64 (status + id * 2 ^ 16)

/-- The length of a command: its literal, or s[v]. -/
def jobLength (x : Slot) (f : LM) : Nat :=
  match f.lit with
  | some l => l.toNat
  | none => (x.rs (f.v.setWidth 5)).toNat

/-- The bytes of an element of CRED and BXF. -/
def elemBytes (f : LM) : Nat := max 1 (tagWidth f.fmt.toNat / 8)

/-- The first misaligned register address (step 4), the descriptor's among them (step 5). -/
def jobMisaligned (k : JobKind) (x : Slot) (f : LM) : Option Word :=
  let bad (r : SReg) (n : Nat) : Option Word := if (x.rs r).toNat % n ≠ 0 then some (x.rs r) else none
  match k with
  | .cred => (bad f.sa (elemBytes f)).or (bad f.sb (elemBytes f))
  | .bxf => bad f.sa 64
  | .cdec => (bad f.sa 64).or (bad (f.v.setWidth 5) 64)
  | .cpy2 | .cgath | .cscat => bad (f.v.setWidth 5) 64
  | _ => none

/-- A range that lies in one core's scratchpad, reached through the core or self window: its core and offset (R400). -/
def State.scratchRange (s : State) (t : Tid) (va n : Nat) : Option (Nat × Nat) :=
  if va / 2 ^ 48 = 0xF0 ∨ va / 2 ^ 48 = 0xF2 then
    match windowOf va (s.coreNo t.vf t.core) with
    | some (core, off) =>
      match s.offset? t.vf core with
      | some k => if off + n ≤ (s.coreAt t.vf k).spSize then some (k, off) else none
      | none => none
    | none => none
  else none

/-- What step 5 finds of a command without a descriptor: it is denied. -/
def lengthDenied (k : JobKind) (s : State) (t : Tid) (f : LM) (dst len : Nat) : Bool :=
  decide (2 ^ 32 ≤ len) ||
    (match k with
      | .brdx | .brdc => len % 128 != 0
      | .cred => len % elemBytes f != 0
      | .bxf => len % 64 != 0 || (s.scratchRange t dst len).isNone
      | .mig => len != 0
      | _ => false)

/-- The job a command creates. -/
def newJob (k : JobKind) (s : State) (t : Tid) (x : Slot) (f : LM) (desc : BitVec 512) (id : Nat) : Job where
  id := id
  vf := t.vf
  core := t.core
  slot := t.slot
  gen := x.gen.toNat
  seq := x.seq
  kind := k
  f := f
  prio := s.prioOf t
  age := s.cycle
  dst := (x.rs f.sa).toNat
  src := (x.rs f.sb).toNat
  len := jobLength x f
  desc := desc
  rmode := x.rmode.toNat
  priv := x.priv
  pos := 0
  spos := 0
  wpos := 0
  carry := []
  cells := []
  staged := []
  entries := []
  state := .queued
  faultPage := none
  frame := none
  away := none
  saved := false
  decoder := none
  begun := false
  uneven := false
  cancels := []

/-- The command completes with a result word; the amount its wait took is returned unless a job was created (R386). -/
def jobReturn (t : Tid) (x : Slot) (f : LM) (status id : Nat) : List Eff :=
  (match x.took, status == stOK with
    | some (q, n), false => [.core t.vf t.core fun c => c.setSem q (satAdd (c.sem q) n)]
    | _, _ => []) ++
  [.slot t fun y => (y.setS f.sc (jobResult status id)).advance (x.after (LM.words f))]

/-- Step 6: a queue entry, or BUSY. -/
def jobQueue (k : JobKind) (s : State) (t : Tid) (x : Slot) (f : LM) (desc : BitVec 512) : List Eff :=
  let n := s.isleNo t.vf t.core
  let u := s.isleAt n
  let node := match s.vdAt t.vf with | some v => v.node | none => 1
  if queueSize node ≤ (u.jobs.filter fun j => j.live && j.vf == t.vf).length then jobReturn t x f stBUSY 0
  else
    let j := newJob k s t x f desc u.newId
    [.isle n fun u => { u with lastJob := j.id, jobs := u.jobs ++ [j] }] ++ jobReturn t x f stOK j.id

/-- Steps 3 to 6 of R386. -/
def jobIssue (i : Instr) (k : JobKind) (f : LM) (s : State) : Plan :=
  issuing s fun t x =>
    let n := LM.words f
    let dst := (x.rs f.sa).toNat
    if k = .mig ∧ x.priv = false then trap s t cPRIV (wordZero i) n
    else
      match jobMisaligned k x f with
      | some a => trap s t cMISALIGN a n
      | none =>
        match k with
        | .cpy2 | .cgath | .cscat | .cdec =>
          let a := (x.rs (f.v.setWidth 5)).toNat
          -- the descriptor is read at its home, the core's dirty bytes having reached theirs (R172)
          let mine := s.release t 4 none
          let s := applyAll mine s
          mine ++
          match s.readVirt t.vf t.core a 64 x.priv with
          | .error (.addr, va) => trap s t cADDR (BitVec.ofNat 64 va) n
          | .error (w, va) => s.stallOn t w va n .read
          | .ok (b, es) =>
            let s := applyAll es s
            let raw := BitVec.ofNat 512 (leNat b)
            let d := descOf raw
            match k with
            | .cdec => es ++ if (decDescOf raw).bad then jobReturn t x f stDENIED 0 else jobQueue k s t x f raw
            | _ =>
              es ++
                if d.illegal then trap s t cILLEGAL (wordZero i) n
                else if d.denied k dst (x.rs f.sb).toNat then jobReturn t x f stDENIED 0
                else jobQueue k s t x f raw
        | .mig =>
          if lengthDenied k s t f dst (jobLength x f) || inFixedWindow dst || decide (2 ^ 56 ≤ dst) ||
              (s.coreAt t.vf t.core).table == 0 then jobReturn t x f stDENIED 0
          else
            match s.walk t.vf t.core dst with
            | (.frame m, es) => es ++ s.stallOn t (.frame m) dst n .read
            | (.miss, es) => es ++ jobReturn t x f stDENIED 0
            | (.entry p, es) =>
              es ++ if bit p.val 9 then jobQueue k (applyAll es s) t x f (if p.big then 1 else 0)
                else jobReturn t x f stDENIED 0
        | _ =>
          if lengthDenied k s t f dst (jobLength x f) then jobReturn t x f stDENIED 0 else jobQueue k s t x f 0

/-- The descriptor that a command reads at acceptance (step 5), its alignment being right (steps 3 and 4). -/
def descriptorOf (i : Instr) (x : Slot) : Option Nat :=
  let at' (k : JobKind) (f : LM) : Option Nat :=
    if (jobMisaligned k x f).isSome then none else some (x.rs (f.v.setWidth 5)).toNat
  match i with
  | .cpy2 f => at' .cpy2 f
  | .cgath f => at' .cgath f
  | .cscat f => at' .cscat f
  | .cdec f => at' .cdec f
  | _ => none

/-- A command waits at its descriptor, which is the first thing it reads (R172, R386, R404); its read may be held on its way
(R12, R66), as may the walk of a migration's acceptance. -/
def State.descriptorWaits (s : State) (t : Tid) (i : Instr) : Bool :=
  let x := s.slotOf t
  match i, descriptorOf i x with
  | .cpyMig f, _ => s.walkWaits t.vf t.core (x.rs f.sa).toNat false
  | _, some a =>
    s.readsLater t x.seq || s.mayHold &&
      (match (applyAll (s.release t 4 none) s).readVirt t.vf t.core a 64 x.priv with
        | .error (.narrow, _) => true
        | _ => false)
  | _, none => false

def execCpy (f : LM) (s : State) := run (jobIssue (.cpy f) .cpy f s) s
def execCpyBrdx (f : LM) (s : State) := run (jobIssue (.cpyBrdx f) .brdx f s) s
def execCpyBrdc (f : LM) (s : State) := run (jobIssue (.cpyBrdc f) .brdc f s) s
def execCpyMig (f : LM) (s : State) := run (jobIssue (.cpyMig f) .mig f s) s
def execCpy2 (f : LM) (s : State) := run (jobIssue (.cpy2 f) .cpy2 f s) s
def execCgath (f : LM) (s : State) := run (jobIssue (.cgath f) .cgath f s) s
def execCscat (f : LM) (s : State) := run (jobIssue (.cscat f) .cscat f s) s
def execCdec (f : LM) (s : State) := run (jobIssue (.cdec f) .cdec f s) s
def execCfill (f : LM) (s : State) := run (jobIssue (.cfill f) .cfill f s) s
def execCred (f : LM) (s : State) := run (jobIssue (.cred f) .cred f s) s
def execBxf (f : LM) (s : State) := run (jobIssue (.bxf f) .bxf f s) s

/-! ### Writes of a job (R171, R388, R389) -/

def Put.va : Put → Nat
  | .bytes va _ | .combine va _ _ _ | .nibble va _ _ _ | .side va _ => va
  | .skip _ => 0

def Put.size : Put → Nat
  | .bytes _ bs | .side _ bs => bs.length
  | .combine _ w _ _ => w / 8
  | .nibble _ _ _ _ => 1
  | .skip _ => 0

/-- The bytes by which a write brings the write position on. -/
def Put.count : Put → Nat
  | .bytes _ bs => bs.length
  | .combine _ w _ _ => w / 8
  | .nibble _ _ _ n | .skip n => n
  | .side _ _ => 0

def Put.isSide : Put → Bool
  | .side _ _ => true
  | _ => false

/-- The reductions: the codes 0 to 7 of R329, 9 F32 addition, 16 and 17 F32 minimum and maximum (R392, R394). -/
def combineOp (op w old x : Nat) : Nat :=
  match op with
  | 16 => (minMaxF false 8 old x).1
  | 17 => (minMaxF true 8 old x).1
  | _ => atomicOp op w old x 0

/-- The bytes a write leaves, from those it finds. -/
def Put.over (u : Put) (old : List Byte) : List Byte :=
  match u with
  | .bytes _ bs | .side _ bs => bs
  | .combine _ w op x => leBytes (w / 8) (combineOp op w (leNat old) x)
  | .nibble _ hi x _ =>
    let b := (leNat old) % 256
    [BitVec.ofNat 8 (if hi then b % 16 + x % 16 * 16 else b / 16 * 16 + x % 16)]
  | .skip _ => []

/-- Writes made in order, each one step at its place and its words set full, up to the first that fails: what they change,
the bytes that the write position gains, and, after a failure, its reason and the writes left. -/
def State.putAll (s : State) (t : Tid) (priv : Bool) : List Put → List Eff × Nat × Option (Where × List Put)
  | [] => ([], 0, none)
  | u :: rest =>
    if u.size = 0 then
      let (es, n, r) := State.putAll s t priv rest
      (es, u.count + n, r)
    else
      match s.reach t.vf t.core u.va u.size .write priv with
      | (.at p _, es) =>
        let s' := applyAll es s
        let (old, k) := match u with | .bytes _ _ | .side _ _ => ([], 0) | _ => s'.atHome t.vf p u.size
        let new := (u.over old).zipIdx.map fun (b, i) => (i, b)
        let es' := .draw k :: s'.toHome t p new true ++ s'.refresh t p new
        let (es'', n, r) := State.putAll (applyAll es' s') t priv rest
        (es ++ es' ++ es'', u.count + n, r)
      | (w, es) => (es, 0, some (w, u :: rest))

/-! ### Units of a destination (R155, R389)

A unit of 8 bytes, or in a vector register's window the whole register (Table 16.5), is written in one step: what has been
produced of it is staged until no more of it follows. -/

/-- An address in a vector register's window (Table 7.2). -/
def inVregs (va : Nat) : Bool :=
  match windowOf va 0 with
  | some (_, off) => decide (0xA0000 ≤ off ∧ off < 0xB0000)
  | none => false

def unitSize (va : Nat) : Nat := if inVregs va then 256 else 8

/-- The unit in which a write ends, by its first address. -/
def Put.unit (u : Put) : Nat :=
  let a := u.va + u.size - 1
  a - a % unitSize a

/-- A write changes a half byte, by its address × 2. -/
def Put.changes (u : Put) (n : Nat) : Bool :=
  match u with
  | .nibble va hi _ _ => n == 2 * va + hi.toNat
  | u => decide (2 * u.va ≤ n ∧ n < 2 * (u.va + u.size))

/-- Writes of the same kind, data or side bytes, that end in a unit. -/
def putsIn (us : List Put) (side : Bool) (unit : Nat) : List Put :=
  us.filter fun u => u.isSide == side && u.size != 0 && u.unit == unit

/-- The half bytes of a unit that some writes do not change. -/
def gaps (us : List Put) (side : Bool) (unit : Nat) : List Nat :=
  let l := putsIn us side unit
  ((List.range (2 * unitSize unit)).map (2 * unit + ·)).filter fun n => l.all fun u => !u.changes n

/-- No unit is divided between writes before and writes after a place: those before change all of it, or none after does any
of it. -/
def cleanCut (before after : List Put) : Bool :=
  (after.filter fun u => u.size != 0).all fun w =>
    putsIn before w.isSide w.unit == [] || gaps before w.isSide w.unit == []

/-- Bytes of a run as writes: the part of a unit it begins in, its whole units, and the part it ends in. -/
def cutRun (va : Nat) (bs : List Byte) : List Put :=
  let a := va % 2 ^ 64
  let u := unitSize a
  let h := if a % u = 0 then 0 else min bs.length (u - a % u)
  let m := (bs.length - h) / u * u
  ([(a, bs.take h), ((a + h) % 2 ^ 64, (bs.drop h).take m), ((a + h + m) % 2 ^ 64, bs.drop (h + m))].filter fun x =>
    x.2 != []).map fun x => .bytes x.1 x.2

/-- Writes that follow one another joined to runs, and two halves of one byte to a byte. -/
def joinPuts : List Put → List Put
  | .bytes a xs :: rest =>
    (match joinPuts rest with
      | .bytes b ys :: l => if b = a + xs.length then .bytes a (xs ++ ys) :: l else .bytes a xs :: .bytes b ys :: l
      | l => .bytes a xs :: l)
  | .side a xs :: rest =>
    (match joinPuts rest with
      | .side b ys :: l => if b = a + xs.length then .side a (xs ++ ys) :: l else .side a xs :: .side b ys :: l
      | l => .side a xs :: l)
  | u :: rest => u :: joinPuts rest
  | [] => []

/-- A run cut where every decoding is contiguous. -/
def Put.pieces (u : Put) : List Put :=
  match u with
  | .bytes va bs => (layOn (piecesOf va bs.length) bs).map fun x => .bytes x.1 x.2
  | .side va bs => (layOn (piecesOf va bs.length) bs).map fun x => .side x.1 x.2
  | u => [u]

/-- The writes as they are made: side bytes first, so that they stand once the write position passes their elements. -/
def writeOrder (us : List Put) : List Put :=
  (joinPuts (us.filter (·.isSide)) ++ joinPuts (us.filter fun u => !u.isSide)).flatMap Put.pieces

/-! ### BRD streams (R152) -/

/-- The code of a word after `prev`. -/
def brdCode (prev w : Nat) : Nat :=
  if w = 0 then 0
  else if w = prev then 1
  else
    let d := toSigned 64 ((w + (2 ^ 64 - prev)) % 2 ^ 64)
    if -32768 ≤ d ∧ d ≤ 32767 then 2 else 3

/-- Codes and payload of a line's words. -/
def brdWords : Nat → List Nat → List Nat × List Byte
  | _, [] => ([], [])
  | prev, w :: ws =>
    let c := brdCode prev w
    let (cs, p) := brdWords w ws
    (c :: cs, (match c with
      | 2 => leBytes 2 ((w + (2 ^ 64 - prev)) % 2 ^ 64)
      | 3 => leBytes 8 w
      | _ => []) ++ p)

/-- A line of 128 bytes coded: header and payload. -/
def brdEncode (line : List Byte) : List Byte :=
  let (cs, p) := brdWords 0 (unpackElems 64 16 (leNat line))
  leBytes 4 (packElems 2 cs) ++ p

/-- Payload bytes that a header announces. -/
def brdPayload (header : Nat) : Nat :=
  ((unpackElems 2 16 header).map fun c => match c with | 2 => 2 | 3 => 8 | _ => 0).foldl (· + ·) 0

def brdUnpack : Nat → List Nat → List Byte → List Nat
  | _, [], _ => []
  | prev, c :: cs, p =>
    let (w, n) := match c with
      | 0 => (0, 0)
      | 1 => (prev, 0)
      | 2 => (((prev : Int) + toSigned 16 (leNat (p.take 2))) % 2 ^ 64 |>.toNat, 2)
      | _ => (leNat (p.take 8), 8)
    w :: brdUnpack w cs (p.drop n)

/-- A coded line decoded. -/
def brdDecode (stream : List Byte) : List Byte :=
  leBytes 128 (packElems 64 (brdUnpack 0 (unpackElems 2 16 (leNat (stream.take 4))) (stream.drop 4)))

/-! ### The elements of a two-dimensional transfer (R395, R396) -/

/-- Rows and columns of an item as it is delivered. -/
def Desc.height (d : Desc) : Nat := if d.t then d.cols else d.rows
def Desc.width (d : Desc) : Nat := if d.t then d.rows else d.cols

/-- The items: one, or one for each list entry. -/
def Desc.items (d : Desc) (k : JobKind) : Nat := match k with | .cpy2 => 1 | _ => d.nl
def Desc.total (d : Desc) (k : JobKind) : Nat := d.items k * (d.height * d.width)

/-- Signed row and column of a coordinate entry. -/
def coords (e : Nat) : Int × Int := (toSigned 16 (e % 2 ^ 16), toSigned 16 (e / 2 ^ 16))

/-- (row, column) inside the bounds. -/
def Desc.inside (d : Desc) (r c : Int) : Option (Int × Int) :=
  if 0 ≤ r ∧ r < d.sh ∧ 0 ≤ c ∧ c < d.sw then some (r, c) else none

/-- The list entry of an element. -/
def Job.entry (j : Job) (d : Desc) (e : Nat) : Nat := (lookup j.entries (e / (d.height * d.width))).getD 0

/-- Source row and column within the item. -/
def Desc.within (d : Desc) (e : Nat) : Nat × Nat :=
  let i := e % (d.height * d.width) / d.width
  let k := e % d.width
  if d.t then (k, i) else (i, k)

/-- The source element of delivered element e; none is a zero element. -/
def Job.origin (j : Job) (d : Desc) (e : Nat) : Option (Int × Int) :=
  let (a, b) := d.within e
  match j.kind with
  | .cgath =>
    let v := j.entry d e
    if d.lform then d.inside ((coords v).1 + a) ((coords v).2 + b)
    else if v < d.sh then some (v, b) else none
  | .cscat => some ((e / (d.height * d.width) * d.rows + a : Nat), b)
  | _ => some (a, b)

/-- Where a delivered row, counted over all items, begins in the destination: its row and its first column. -/
def Job.corner (j : Job) (d : Desc) (row : Nat) : Int × Int :=
  match j.kind with
  | .cscat =>
    let v := j.entry d (row * d.width)
    let i := row % d.height
    if d.lform then ((coords v).1 + i, (coords v).2) else ((v + i : Nat), 0)
  | _ => (row, 0)

/-- The destination of delivered element e; none is dropped. -/
def Job.target (j : Job) (d : Desc) (e : Nat) : Option (Int × Int) :=
  let (r, c) := j.corner d (e / d.width)
  let c := c + (e % d.width : Nat)
  match j.kind with
  | .cscat => if d.lform then d.inside r c else if r < d.sh then some (r, c) else none
  | _ => some (r, c)

/-- The data offset of element (r, c) in its region, in bytes. -/
def dataOffset (t : Nat) (stride r c : Int) : Int := r * stride + c * (tagWidth t : Nat) / 8

def wrap64 (x : Int) : Nat := (x % 2 ^ 64).toNat

/-- The side byte and the superscale of a data offset (R218). -/
def sideAt (t base : Nat) (o : Int) : Nat :=
  wrap64 (base + if t = 13 then o / 8192 * 260 + 4 + o % 8192 / 32 else o / 32)
def superAt (base : Nat) (o : Int) : Nat := wrap64 (base + o / 8192 * 260)

/-- What delivered element e reads: its data, its scale, its superscale and its smoothing factor. A zero element passes
through the chain as any other, and reads its factor alone (R396). -/
def Job.reads (j : Job) (d : Desc) (e : Nat) : List (Nat × Nat) :=
  match j.target d e with
  | none => []
  | some _ =>
    (match j.origin d e with
      | some (r, c) =>
        let o := dataOffset d.st d.sst r c
        [(wrap64 (j.src + o), max 1 (tagWidth d.st / 8))] ++
          (if isBlock d.st then [(sideAt d.st d.ssd o, 1)] else []) ++
          (if d.st = 13 then [(superAt d.ssd o, 4)] else [])
      | none => []) ++
      if d.sm then [(0x00F2000000000000 + 64 * d.smoff + 2 * (d.within e).2, 2)] else []

/-- A source element: its bits, its scale and its superscale; a zero element is zero. -/
def Job.raw (j : Job) (d : Desc) (num : Nat → Nat → Nat) (e : Nat) : Nat × Nat × Nat :=
  match j.origin d e with
  | none => (0, 0, 0)
  | some (r, c) =>
    let o := dataOffset d.st d.sst r c
    let a := wrap64 (j.src + o)
    let w := tagWidth d.st
    let x := if w = 4 then num a 1 / (if c % 2 = 0 then 1 else 16) % 16 else num a (w / 8)
    (x, if isBlock d.st then num (sideAt d.st d.ssd o) 1 else 0, if d.st = 13 then num (superAt d.ssd o) 4 else 0)

/-- The value of an element after smoothing, for a conversion pair (R394). -/
def Job.value (j : Job) (d : Desc) (num : Nat → Nat → Nat) (e : Nat) : FVal :=
  let (x, q, u) := j.raw d num e
  let v :=
    if !isBlock d.st then unpackF (ffmt d.st) x
    else if d.sm then blockVal d.st x q u else unpackF (ffmt 8) (dequant d.st x q u).1
  if d.sm then
    let f := num (0x00F2000000000000 + 64 * d.smoff + 2 * (d.within e).2) 2
    if d.loadPair then smoothLoad v f else smoothStore v f
  else v

/-- The F32 bits that are quantised. -/
def Job.f32 (j : Job) (d : Desc) (num : Nat → Nat → Nat) (e : Nat) : Nat := rneF32 (j.value d num e)

/-- The group of QN4 that an element's destination lies in. -/
def Job.group (j : Job) (d : Desc) (e : Nat) : Option Int :=
  (j.target d e).map fun (r, c) => dataOffset d.dt d.dst r c / 8192

/-- The superscale of a group: from every block the job writes there (R394). -/
def Job.super (j : Job) (d : Desc) (num : Nat → Nat → Nat) (g : Int) : Nat :=
  superscale (((List.range (d.total j.kind)).filter fun e => j.group d e == some g).map (j.f32 d num))

/-- The codes and the scale of the destination block that begins with element e. -/
def Job.block (j : Job) (d : Desc) (num : Nat → Nat → Nat) (e : Nat) : List Nat × Nat × Option Nat :=
  let es := (List.range (blockSize d.dt)).map (e + ·)
  if d.st = 8 then
    let vs := es.map (j.f32 d num)
    if d.dt = 13 then
      let u := j.super d num ((j.group d e).getD 0)
      ((qnBlock u vs).1, (qnBlock u vs).2, some u)
    else
      let (cs, q, _) := mxQuant d.dt vs
      (cs, q, none)
  else
    let (_, q, u) := j.raw d num e
    (es.map fun e => (j.raw d num e).1, q, if d.dt = 13 ∧ (j.origin d e).isSome = true then some u else none)

/-- The reduction of a job's elements, when it has one. -/
def Desc.reduction (d : Desc) : Option Nat :=
  match d.red with
  | 1 => some (if d.dt = 8 then 9 else 0)
  | 2 => some (if d.dt = 8 then 17 else 5)
  | _ => none

/-- One element's write at its destination. An element of 4 bits brings its byte with the second of its pair (R393). -/
def Job.putElem (j : Job) (d : Desc) (e x : Nat) : Put :=
  let w := tagWidth d.dt
  let n := if w = 4 then e % 2 else w / 8
  match j.target d e with
  | none => .skip n
  | some (r, c) =>
    let a := wrap64 (j.dst + dataOffset d.dt d.dst r c)
    if w = 4 then .nibble a (c % 2 != 0) x n
    else
      match d.reduction with
      | some op => .combine a w op x
      | none => .bytes a (leBytes (w / 8) x)

/-- The writes of blocks, by their first elements: of each its superscale, unless the block before brought the same one to
the group, its scale (R218), and its codes. `last` is one more than the superscale brought before, or 0; the one left is
answered. -/
def Job.putBlocks (j : Job) (d : Desc) (num : Nat → Nat → Nat) : Nat → List Nat → List Put × Nat
  | last, [] => ([], last)
  | last, e :: es =>
    let (cs, q, u) := j.block d num e
    let before := if blockSize d.dt ≤ e ∧ j.group d (e - blockSize d.dt) = j.group d e then last else 0
    let after := match u with | some x => x + 1 | none => before
    let sides : List Put := match j.target d e with
      | none => []
      | some (r, c) =>
        let o := dataOffset d.dt d.dst r c
        (if after = before then [] else [.side (superAt d.dsd o) (leBytes 4 (after - 1))]) ++
          [.side (sideAt d.dt d.dsd o) [BitVec.ofNat 8 q]]
    let (us, last') := j.putBlocks d num after es
    (sides ++ (cs.zipIdx.map fun (x, i) => j.putElem d (e + i) x) ++ us, last')

/-- An element rounded to a destination format that is no block format (R394): to F32 nothing is left to round, a value
of a narrower format stays exact, and every other rounding follows the recorded mode and SAT (Table 11.6). -/
def Job.rounded (j : Job) (d : Desc) (v : FVal) : Nat :=
  if d.dt = 8 then rneF32 v
  else
    let exact := !isBlock d.st && !d.sm && (ffmt d.st).within (ffmt d.dt)
    (roundF (ffmt d.dt) j.rmode (d.sat && !exact) v).1

/-- The writes of elements lo to hi − 1, and the superscale that a following block finds brought. -/
def Job.puts (j : Job) (d : Desc) (num : Nat → Nat → Nat) (lo hi : Nat) : List Put × Nat :=
  let es := (List.range (hi - lo)).map (lo + ·)
  if isBlock d.dt then j.putBlocks d num j.spos (es.filter fun e => e % blockSize d.dt == 0)
  else if d.st = d.dt then (es.map fun e => j.putElem d e (j.raw d num e).1, 0)
  else (es.map fun e => j.putElem d e (j.rounded d (j.value d num e)), 0)

/-! ### The next thing a job does -/

/-- A read, a list entry's read, writes produced, writes made, a migrated line, the switch of a migrated page, a transform
chunk, the end, or DENIED. -/
inductive Next where
  | read (ps : List (Nat × Nat))
  | entry (k va : Nat)
  | stage (us : List Put) (pos spos draws : Nat) (carry : List Byte) (cells : List (Nat × Nat))
  | write (us rest : List Put)
  | migrate (n : Nat)
  | switch
  | chunk
  | done
  | deny
deriving DecidableEq, Repr

/-- Pieces beyond those that some bytes fill. -/
def unread : List (Nat × Nat) → Nat → List (Nat × Nat)
  | [], _ => []
  | (va, n) :: rest, k => if n ≤ k then unread rest (k - n) else (va + k, n - k) :: rest

/-- A production once its pieces have been read. -/
def Job.after (j : Job) (ps : List (Nat × Nat)) (k : List Byte → Next) : Next :=
  match unread ps j.carry.length with
  | [] => k j.carry
  | l => .read l

/-- Bytes from an address, taken on to the end of their last 8-byte unit: each unit of a source is read once (R155). -/
def upToUnit (a n : Nat) : Nat := if n = 0 then 0 else (a + n + 7) / 8 * 8 - a

/-- The code of a reduction by fn6 of CRED (R392). -/
def credOp (f : LM) : Nat :=
  let op := f.fn.toNat / 8
  if f.fmt = 8 then (match op with | 4 => 16 | 5 => 17 | _ => 9) else op

/-- CPY, CFILL and CRED, 64 bytes at a time (R390 to R392). -/
def Job.nextLinear (j : Job) : Next :=
  let n := min 64 (j.len - j.pos)
  let a := (j.src + j.pos) % 2 ^ 64
  let b := j.dst + j.pos
  if j.len ≤ j.pos then .done
  else
    match j.kind with
    | .cfill => .stage (cutRun b ((List.range n).map fun i => byteAt j.src ((b + i) % 8))) (j.pos + n) 0 0 [] []
    | .cred =>
      let w := elemBytes j.f
      j.after (piecesOf a (upToUnit a n)) fun bs =>
        .stage ((List.range (n / w)).map fun i =>
          .combine ((b + i * w) % 2 ^ 64) (8 * w) (credOp j.f) (leNat ((bs.drop (i * w)).take w))) (j.pos + n) 0 0 (bs.drop n) []
    | _ => j.after (piecesOf a (upToUnit a n)) fun bs => .stage (cutRun b (bs.take n)) (j.pos + n) 0 0 (bs.drop n) []

/-- The bytes a job has produced: those written and those staged. -/
def Job.made (j : Job) : Nat := j.wpos + (j.staged.map Put.count).sum

/-- BRD streams, a line at a time (R390). -/
def Job.nextBrd (j : Job) : Next :=
  if j.len ≤ j.pos then .done
  else if j.kind = .brdx then
    let a := (j.src + j.spos) % 2 ^ 64
    j.after (piecesOf a (upToUnit a 4)) fun bs =>
      let n := 4 + brdPayload (leNat (bs.take 4))
      j.after (piecesOf a (upToUnit a n)) fun bs =>
        .stage (cutRun (j.dst + j.made) (brdDecode bs)) (j.pos + 128) (j.spos + n) 0 (bs.drop n) []
  else
    let a := (j.src + j.pos) % 2 ^ 64
    j.after (piecesOf a (upToUnit a 128)) fun bs =>
      .stage (cutRun (j.dst + j.made) (brdEncode (bs.take 128))) (j.pos + 128) 0 0 (bs.drop 128) []

/-- The source units of some elements, by address / 8. What an element reads is at most 8 bytes and spans two units at most: a
superscale at a base that is no multiple of 4 (log entry 113). -/
def Job.unitsRead (j : Job) (d : Desc) (es : List Nat) : List Nat :=
  ((es.flatMap (j.reads d)).flatMap fun (a, n) => [a / 8, (a + n - 1) % 2 ^ 64 / 8]).eraseDups

/-- Bytes of the source cells. -/
def numberIn (cells : List (Nat × Nat)) (a n : Nat) : Nat :=
  leNat ((List.range n).map fun i => byteAt ((lookup cells ((a + i) % 2 ^ 64 / 8)).getD 0) ((a + i) % 8))

/-- Source units read before, with those that have just been. -/
def addCells (cells : List (Nat × Nat)) : List Nat → List Byte → List (Nat × Nat)
  | [], _ => cells
  | u :: us, bs => addCells (put cells u (leNat (bs.take 8))) us (bs.drop 8)

/-- The list entry breaks the block rule of R396. -/
def Job.badEntry (j : Job) (d : Desc) (k : Nat) : Bool :=
  let block := if isBlock d.st then blockSize d.st else if isBlock d.dt then blockSize d.dt else 1
  d.lform && (coords ((lookup j.entries k).getD 0)).2 % (block : Nat) != 0

/-- CPY2, CGATH and CSCAT: 64 bytes at a time within a destination row, each source unit read once (R124, R155). Of a
transposed item the source stays until the item is done. A job that quantises to QN4 reads its whole source first, for its
superscales. -/
def Job.nextRows (j : Job) : Next :=
  let d := descOf j.desc
  let total := d.total j.kind
  let size := d.height * d.width
  if total ≤ j.pos then .done
  else
    let whole := d.dt == 13 && d.st == 8
    let listed := match j.kind with | .cpy2 => false | _ => true
    let ks := if !listed then [] else if whole then List.range d.nl else [j.pos / size]
    match ks.find? fun k => (lookup j.entries k).isNone with
    | some k => .entry k ((d.list + 4 * k) % 2 ^ 64)
    | none =>
      if listed && j.badEntry d (j.pos / size) then .deny
      else
        let hi := min (j.pos + 512 / tagWidth d.dt) ((j.pos / d.width + 1) * d.width)
        let last := match ks.find? (j.badEntry d) with
          | some k => k * size
          | none => total
        let es := if whole then List.range last else (List.range (hi - j.pos)).map (j.pos + ·)
        let new := (j.unitsRead d es).filter fun u => (lookup j.cells u).isNone
        j.after (new.map fun u => (8 * u, 8)) fun bs =>
          let cells := addCells j.cells new bs
          let kept := if whole then cells
            else if d.t then (if hi % size = 0 then [] else cells)
            else cells.filter fun x => (j.unitsRead d [hi - 1]).contains x.1
          let (us, last) := j.puts d (numberIn cells) j.pos hi
          .stage us hi last 0 [] kept

/-- The bytes of the page a migration moves, as its entry stood at acceptance: 64 KiB, or 2 MiB with 1 in place of a
descriptor. -/
def Job.pageSize (j : Job) : Nat := if j.desc = 1 then 2 ^ 21 else 2 ^ 16

/-! ### Image decode (R397 to R399) -/

/-- An image: rows, columns, whether it needs the workspace, and channel h of the pixel at a row and column, as far as the
stream is sound; none for a stream that the decoders refuse. -/
def imageOf (d : DecDesc) (bs : List Byte) : Option (Nat × Nat × Bool × (Nat → Nat → Nat → Option Nat)) :=
  if d.kind = 1 then
    let lines := group4 d.g4w d.g4h bs
    some (d.g4h, d.g4w, false, fun _ y x => (lines[y]?).map fun l => if l.getD x false then 0 else 255)
  else (jpegOf bs).map fun (f, planes) => (f.rows, f.cols, f.progressive, f.pixel planes d.ch)

/-- A value u of channel h as an element of the output. -/
def decodeElem (d : DecDesc) (bf16 : Bool) (h u : Nat) : List Byte :=
  if bf16 then
    let mean := unpackF (ffmt 7) (d.mean.getD h 0)
    let istd := unpackF (ffmt 7) (d.istd.getD h 0)
    let x := mulV (addV 0 (intV u) (mulV (intV 255) mean).negate) istd
    leBytes 2 (roundF (ffmt 7) 0 false (divV 7 x (intV 255)).1).1
  else leBytes 1 u

/-- Patch k of an image of H rows and W columns: its bytes, or none when the stream was not sound that far. -/
def decodePatch (d : DecDesc) (bf16 : Bool) (rows cols k : Nat) (pix : Nat → Nat → Nat → Option Nat) : Option (List Byte) :=
  let p := d.patch
  let pc := (cols + p - 1) / p
  let y0 := k / pc * p
  let x0 := k % pc * p
  ((List.range (p * p)).flatMap fun n => (List.range d.ch).map fun h => (n, h)).foldlM (fun acc (n, h) =>
    let y := y0 + n / p
    let x := x0 + n % p
    if y < rows ∧ x < cols then (pix h y x).map fun u => acc ++ decodeElem d bf16 h u
    else some (acc ++ decodeElem d bf16 h (d.pad.getD h 0))) []

/-- CDEC, a patch at a time: its table entry is written before the write position passes its end (R399). -/
def Job.nextDecode (j : Job) (s : State) : Next :=
  let d := decDescOf j.desc
  let bf16 := j.f.fmt == 7
  j.after (piecesOf j.src d.slen) fun bs =>
    match imageOf d bs with
    | none => .deny
    | some (h, w, progressive, pix) =>
      let p := d.patch
      let pr := (h + p - 1) / p
      let pc := (w + p - 1) / p
      let size := p * p * d.ch * (if bf16 then 2 else 1)
      let work := if progressive = true ∧ d.work ≠ 0 then Config.jpegWork bs else 0
      if 65535 < h ∨ 65535 < w ∨ 786432 < w * p * d.ch ∨ d.maxp < pr * pc then .deny
      else if j.spos = 0 ∧ work ≠ 0 then
        .stage ((cutRun d.work (s.freeBytes work)).map fun u => .side u.va (u.over [])) 0 1 work j.carry []
      else if pr * pc ≤ j.pos then .done
      else
        match decodePatch d bf16 h w j.pos pix with
        | none => .deny
        | some b =>
          .stage (.side ((d.ptab + 4 * j.pos) % 2 ^ 64) (leBytes 4 (j.pos / pc + j.pos % pc * 2 ^ 16)) ::
            cutRun (j.dst + j.pos * size) b) (j.pos + 1) j.spos 0 j.carry []

/-- What a job produces next. -/
def Job.produce (j : Job) (s : State) : Next :=
  match j.kind with
  | .cpy | .cfill | .cred => j.nextLinear
  | .brdx | .brdc => j.nextBrd
  | .cpy2 | .cgath | .cscat => j.nextRows
  | .cdec => j.nextDecode s
  | .bxf => if j.pos < j.len then .chunk else .done
  | .mig =>
    if j.spos = 1 then .done
    else if j.pos < j.pageSize then .migrate 128
    else .switch

/-- A delivered row brings a half byte of the destination, by its address × 2, with an element not produced yet. -/
def Job.rowBrings (j : Job) (d : Desc) (n row : Nat) : Bool :=
  let (r, c) := j.corner d row
  let w : Int := (tagWidth d.dt / 4 : Nat)
  let col : Int := ((n : Int) - 2 * (j.dst + r * d.dst)) % 2 ^ 65 / w
  let e := row * d.width + (col - c).toNat
  decide (c ≤ col ∧ col < c + d.width ∧ j.pos ≤ e) && j.target d e == some (r, col)

/-- The first half byte of the data of the block whose scale a side byte is (R218). -/
def Job.scaleOf (j : Job) (d : Desc) (a : Nat) : Option Nat :=
  let x := toSigned 64 (wrap64 (a - d.dsd))
  if d.dt = 13 then
    if x % 260 < 4 then none else some (2 * wrap64 (j.dst + (x / 260 * 8192 + (x % 260 - 4) * 32)))
  else some (2 * wrap64 (j.dst + x * 32))

/-- What a job produces after what it has produced will change a half byte, by its address × 2: of the items whose list
entries it has read, or, where it delivers its bytes in the order of their addresses, of all that follows. -/
def Job.brings (j : Job) (side : Bool) (n : Nat) : Bool :=
  let after (first len : Nat) : Bool := decide (first ≤ wrap64 (n / 2 - j.dst) ∧ wrap64 (n / 2 - j.dst) < len)
  match j.kind with
  | .cpy2 | .cgath | .cscat =>
    let d := descOf j.desc
    let rows := (List.range (d.items j.kind * d.height - j.pos / d.width)).map (j.pos / d.width + ·)
    let known := rows.filter fun row => j.kind == .cpy2 || (lookup j.entries (row / d.height)).isSome
    (match (if side then j.scaleOf d (n / 2) else some n) with
      | some n => known.any (j.rowBrings d n)
      | none => false)
  | .cdec =>
    let d := decDescOf j.desc
    if side then decide (4 * j.pos ≤ wrap64 (n / 2 - d.ptab) ∧ wrap64 (n / 2 - d.ptab) < 4 * d.maxp)
    else after j.made (2 ^ 63)
  | .brdx | .brdc => !side && decide (j.pos < j.len) && after j.made (2 ^ 63)
  | _ => !side && after j.pos j.len

/-- A staged write ends in a unit that the job will write entirely and has not produced entirely yet, or in a byte of which
its second half follows. -/
def Job.isOpen (j : Job) (u : Put) : Bool :=
  u.size != 0 &&
    (let l := gaps j.staged u.isSide u.unit
     (l != [] && l.all (j.brings u.isSide)) ||
      match u with
      | .nibble va hi _ _ =>
        let n := 2 * va + (if hi then 0 else 1)
        l.contains n && j.brings false n
      | _ => false)

/-- How many of the staged writes can be made: none of them lies in an open unit, and they divide none. -/
def Job.closed (j : Job) : Nat :=
  let open' := ((j.staged.filter fun u => u.size != 0).map fun u => (u.isSide, u.unit)).eraseDups.filter fun x =>
    (putsIn j.staged x.1 x.2).any j.isOpen
  let k := (j.staged.takeWhile fun u => u.size == 0 || !open'.contains (u.isSide, u.unit)).length
  (((List.range (k + 1)).reverse.find? fun k => cleanCut (j.staged.take k) (j.staged.drop k))).getD 0

/-- The staged writes that reach the next 64-byte boundary of the write position: a boundary inside a unit moves on to that
unit's end (Table 6.8, R155, R401; log entry 113). -/
def Job.release (j : Job) : Option (List Put × List Put) :=
  let reaches (k : Nat) : Bool := decide ((j.wpos / 64 + 1) * 64 ≤ j.wpos + ((j.staged.take k).map Put.count).sum)
  if reaches j.staged.length = false then none
  else
    ((List.range (j.closed + 1)).find? fun k => reaches k && cleanCut (j.staged.take k) (j.staged.drop k)).map fun k =>
      (j.staged.take k, j.staged.drop k)

/-- The next thing: writes that reach a boundary, else more production; what is staged is written before the job ends. -/
def Job.next (j : Job) (s : State) : Next :=
  match j.release with
  | some (us, rest) => .write (writeOrder us) rest
  | none =>
    match j.produce s with
    | .done => if j.staged = [] then .done else .write (writeOrder j.staged) []
    | .deny => if j.staged = [] then .deny else .write (writeOrder j.staged) []
    | n => n

/-! ### Running a job (R123, R382, R388) -/

/-- A job changed by the engine that runs it. -/
def jobEff (isle id : Nat) (g : Job → Job) : Eff := .isle isle (·.modJob id g)

/-- A job stopped at an address: parked on a fault or a missing frame, its engine released, or ended FAULTED at once
(R123, R131, R134). Toward a module that no strait reaches it waits at the hub first (R17). -/
def State.parkJob (s : State) (isle : Nat) (j : Job) (w : Where) (va : Nat) (kind : AccKind) : List Eff :=
  let t : Tid := ⟨j.vf, j.core, j.slot⟩
  let post (k : Nat) : List Eff :=
    [jobEff isle j.key fun j => { j with state := .parked, faultPage := some (pageOf va) },
     .send t 0 0 (.fault (pageOf va) va k kind true isle j.key none)]
  match w with
  | .fault k => post k
  | .frame n => jobEff isle j.key (fun j => { j with state := .parked, frame := some (n, va, kind) }) :: s.frameWait j.vf n
  | .away _ =>
    match j.away with
    | some since => if since + hubWait ≤ s.cycle then post cLINK else []
    | none => [jobEff isle j.key fun j => { j with away := some s.cycle }]
  -- it is held at a narrow (R12)
  | .narrow => []
  | _ => [.isle isle (·.finish j.key stFAULTED)]

/-- The name under which a job's own requests travel. -/
def Job.tid (j : Job) : Tid := ⟨j.vf, j.core, 8 + j.id⟩

/-- A migrating page's line as the forwards that its source home sends for a job (R153): its words with their full bits,
each under its offset in the page. -/
def State.forwardLine (s : State) (j : Job) (va pa dev dest : Nat) : List Eff :=
  (List.range 16).map fun i =>
    .send j.tid (j.pos + 8 * i) 0 (.forward (va + 8 * i) (pa + 8 * i) dev (dest + 8 * i) (readBytes s.mem (pa + 8 * i) 8)
      (some (setMem s.full (pa / 8 + i))))

/-- The forwards of a job that have not been performed: their offsets. -/
def State.forwardsOf (s : State) (t : Tid) : List Nat :=
  s.flights.filterMap fun f => match f.pk with | .forward .. => if f.tid = t then some f.seq else none | _ => none

/-- The page-map entry of a migrating page, or why there is none to read. -/
def State.migEntry (s : State) (j : Job) : Stage1 × List Eff := s.walk j.vf j.core j.dst

/-- The destination of a migrating page (R153): device and frame address. The low five bits of MTFN count for a 2 MiB page as well
(DESIGN CHOICE, log entry 131). -/
def Pte.dest (p : Pte) : Nat × Nat := (bits p.val 104 100, bits p.val 99 64 * 2 ^ 16)

/-- Why a line cannot be sent to the destination of a migration: a module that is not joined or has no entry in the route
table, at once; no ready strait; or a frame withdrawn there (R17, R26). -/
def State.destStop (s : State) (v : VD) (dev tpa : Nat) : Option Where :=
  if dev = s.ownDev then none
  else if !(v.joins.any (·.1 == dev)) || s.noRoute dev then some (.fault cLINK)
  else s.onWay v.vf 0 (.remote dev tpa)

/-- A line of a migrating page asked for at its source home: what it does, or what stops it. What the source holds on another
module are free bytes. -/
def State.sendLine (s : State) (j : Job) (p : Pte) : Except Where (List Eff) :=
  match s.vdAt j.vf with
  | none => .error .addr
  | some v =>
    let va := j.dst / j.pageSize * j.pageSize + j.pos
    let (dev, dest) := p.dest
    match s.destStop v dev (dest + j.pos), s.placePte v ⟨p.val ||| 1, p.big⟩ (p.tpa va) va .read true with
    | some w, _ => .error w
    | none, .at (.dram pa _ _ _ _) _ => .ok (s.forwardLine j va pa dev (dest + j.pos))
    | none, .at (.remote from' tpa) _ =>
      (match s.onWay j.vf j.core (.remote from' tpa) with
        | some w => .error w
        | none => .ok (.draw 256 :: (List.range 16).map fun i =>
            .send j.tid (j.pos + 8 * i) 0 (.forward (va + 8 * i) (2 ^ 57 + tpa + 8 * i) dev (dest + j.pos + 8 * i)
              ((List.range 8).map fun k => Config.freeByte (s.free + 8 * i + k))
              (some (Config.freeNat (s.free + 128 + i) % 2 == 1)))))
    | none, w => .error w

/-- The switch of a migrated page (R153): one MSET of its entry, its CMP bit as it stands (log entry 96), and its
invalidations. What maps and windows hold in the page goes with it. A WAYMASK of zero does not stop it (DESIGN CHOICE, log
entry 123). -/
def State.switchPage (s : State) (isle : Nat) (j : Job) (v : VD) (p : Pte) (r : Region) (m : MapDesc) : List Eff :=
  let x := p.val
  let key := if p.big then j.dst / 2 ^ 21 % 2 ^ 35 * 2 + 1 else j.dst / 2 ^ 16 % 2 ^ 40 * 2
  let y := (x - bits x 51 16 * 2 ^ 16 - bits x 60 56 * 2 ^ 56 - (if bit x 9 then 512 else 0)) +
    bits x 99 64 * 2 ^ 16 + bits x 104 100 * 2 ^ 56
  let (base, size) := pageShard r m key
  let far (dev : Nat) : Nat := if dev = s.ownDev then 0 else 2 ^ 57 + dev * 2 ^ 56
  let old := bits x 51 16 * 2 ^ 16 / j.pageSize * j.pageSize + far (bits x 60 56)
  let new := bits x 99 64 * 2 ^ 16 + far (bits x 104 100)
  let o := (s.shardAt v (v.frameBacks base size) size r.kindf m).exec m 2 key y 0
  .vd j.vf (fun v => (v.putShard o.shard).moveBacks old j.pageSize new) :: .draw 3 ::
    v.cores.map (fun c => .send j.tid 0 0 (.inval key p.big c.1 none)) ++ [jobEff isle j.key fun k => { k with spos := 1 }]

/-- A line sent, or the switch made once every line is there, while the entry stands with MIG set; a page whose entry has
gone or lost MIG ends the job DENIED (log entry 42). While a frame of the page map is missing the job parks. -/
def State.migrate (s : State) (isle : Nat) (j : Job) (switch : Bool) : List Eff × Bool :=
  let va := j.dst / j.pageSize * j.pageSize + j.pos
  let denied : List Eff := [.isle isle (·.finish j.key stDENIED)]
  match s.migEntry j with
  | (.frame n, es) => (es ++ s.parkJob isle j (.frame n) va .read, false)
  | (.miss, es) => (es ++ denied, false)
  | (.entry p, es) =>
    if bit p.val 9 = false then (es ++ denied, false)
    else if switch then
      match (applyAll es s).vdAt j.vf, s.lookRegion j.vf j.core 0 with
      | some v, .region r _ =>
        (match pageMap r with
          | some (r, m) => (es ++ (applyAll es s).switchPage isle j v p r m, true)
          | none => (es ++ denied, false))
      | _, _ => (es ++ denied, false)
    else
      match (applyAll es s).sendLine j p with
      | .ok es' => (es ++ es' ++ [jobEff isle j.key fun k => { k with pos := k.pos + 128, away := none }], true)
      | .error w => (es ++ s.parkJob isle j w va .write, false)

/-- A job only waits: at a narrow (R12), or at the hub for a strait (R17). Its engine stays with it, at the delivery boundary
it has reached. -/
def State.jobWaits (s : State) (j : Job) (w : Where) : Bool :=
  match w with
  | .narrow => true
  | .away _ => (match j.away with | some since => decide (s.cycle < since + hubWait) | none => true)
  | _ => false

/-- Writes of a job made, up to a delivery boundary (`whole`) or as far as it has come. It parks where one fails, and what is
not made stays staged (R123, R388); where one has to wait, none is made. -/
def State.writeJob (s : State) (isle : Nat) (j : Job) (us rest : List Put) (whole : Bool) : List Eff × Bool :=
  let (es, n, stop) := s.putAll j.tid j.priv us
  match stop with
  | none =>
    (es ++ [jobEff isle j.key fun k =>
      { k with wpos := k.wpos + n, staged := rest, away := none, uneven := !whole }], true)
  | some (w, left) =>
    let va := (left.head?.map Put.va).getD 0
    if s.jobWaits j w then (s.parkJob isle j w va .write, false)
    else
      let keep := jobEff isle j.key fun k => { k with wpos := k.wpos + n, staged := left ++ rest, uneven := k.uneven || n != 0 }
      let s' := applyAll (es ++ [keep]) s
      (es ++ keep :: s'.parkJob isle (((s'.isleAt isle).job? j.key).getD j) w va .write, false)

/-- A read of a job that stops. Where the job parks, what it has produced and divides no unit is written first (R123). -/
def State.stopJob (s : State) (isle : Nat) (j : Job) (w : Where) (va : Nat) : List Eff × Bool :=
  if s.jobWaits j w || j.closed == 0 then (s.parkJob isle j w va .read, false)
  else s.writeJob isle j (writeOrder (j.staged.take j.closed)) (j.staged.drop j.closed) false

/-- One thing done by a running job, and whether the engine goes on with it. -/
def State.stepJob (s : State) (isle : Nat) (j : Job) : List Eff × Bool :=
  let t : Tid := ⟨j.vf, j.core, j.slot⟩
  match j.next s with
  | .done => ([], false)
  | .deny => ([.isle isle (·.finish j.key stDENIED)], false)
  | .read ps =>
    let (b, es, stop) := s.moveIn j.vf j.core j.priv ps
    let keep := jobEff isle j.key fun k => { k with carry := k.carry ++ b, away := if b = [] then k.away else none }
    (match stop with
      | none => (es ++ [keep], true)
      | some (w, l) =>
        let s' := applyAll (es ++ [keep]) s
        let (es', more) := s'.stopJob isle (((s'.isleAt isle).job? j.key).getD j) w ((l.head?.map (·.1)).getD 0)
        (es ++ keep :: es', more))
  | .entry k va =>
    let (b, es, stop) := s.moveIn j.vf j.core j.priv [(va, 4)]
    (match stop with
      | none => (es ++ [jobEff isle j.key fun q => { q with entries := put q.entries k (leNat b), away := none }], true)
      | some (w, _) =>
        let (es', more) := (applyAll es s).stopJob isle j w va
        (es ++ es', more))
  | .stage us pos spos draws carry cells =>
    ([.draw draws, jobEff isle j.key fun k =>
      { k with staged := k.staged ++ us, pos := pos, spos := spos, carry := carry, cells := cells, away := none }], true)
  | .write us rest => s.writeJob isle j us rest true
  | .chunk =>
    match s.scratchRange t j.dst j.len with
    | some (core, off) =>
      ([.send j.tid 0 0 (.bxf isle j.key core (off + j.pos)), jobEff isle j.key fun k => { k with pos := k.pos + 64 }], true)
    | none => ([.isle isle (·.finish j.key stFAULTED)], false)
  | .migrate _ => s.migrate isle j false
  | .switch => if s.forwardsOf j.tid = [] then s.migrate isle j true else ([], false)

/-- A job's progress, by which an engine's share is counted. -/
def Job.progress (j : Job) : Nat :=
  match j.kind with
  | .bxf | .cdec | .mig => j.pos
  | _ => j.wpos

/-- A job has come as far as it is to: a decoder has written what it can of its patches. -/
def Job.reached (j : Job) (target : Nat) : Bool :=
  decide (target ≤ j.progress) && (j.kind != .cdec || j.release.isNone)

/-- A running job goes on until it reaches a delivery position, stops or ends. -/
def runJob (isle id target : Nat) : Nat → State → List Eff
  | 0, _ => []
  | k + 1, s =>
    match (s.isleAt isle).job? id with
    | some j =>
      match j.state with
      | .running _ =>
        if j.reached target then []
        else
          let (es, more) := s.stepJob isle j
          es ++ if more then runJob isle id target k (applyAll es s) else []
      | _ => []
    | none => []

/-- A job stands at a delivery boundary: nothing that it has sent is to come, and a fault that parked it in between is behind it
(R401, Table 6.8). -/
def State.even (s : State) (j : Job) : Bool :=
  match j.kind with
  | .mig => s.forwardsOf j.tid == []
  | _ => !j.uneven

/-- A CCANCEL waits for the job, and its next delivery boundary has been reached; so a migration sends no further line. -/
def State.ending (s : State) (j : Job) : Bool := j.cancels != [] && (j.kind == .mig || s.even j)

/-- The thread that issued a job. -/
def Job.issuer (j : Job) : Tid := ⟨j.vf, j.core, j.slot⟩

/-- The dirty bytes of its core reach their homes before a job's first read, and its thread's accesses before the command have
been performed (R172, R249): the engine that has taken it waits for them. -/
def State.mayBegin (s : State) (j : Job) : Bool := j.begun || !s.readsLater j.issuer j.seq

/-- An engine or a decoder takes a job. -/
def State.takeJob (isle engine : Nat) (decoder : Option Nat) (j : Job) : List Eff :=
  match j.state with
  | .running _ => []
  | _ => [jobEff isle j.key fun k => { k with state := .running engine, decoder := decoder }]

/-- A job begins. -/
def State.beginJob (s : State) (isle : Nat) (j : Job) : List Eff :=
  if j.begun then [] else s.release j.issuer 4 none ++ [jobEff isle j.key fun k => { k with begun := true }]

/-- What an engine or a decoder does with the job it has, or takes: it runs it until it has come to a goal, once it may
begin. One that is to end at the boundary it has reached goes no further (R401). -/
def State.workOn (s : State) (isle engine : Nat) (decoder : Option Nat) (j : Job) (goal fuel : Nat) : List Eff :=
  let es := State.takeJob isle engine decoder j
  if s.mayBegin j = false || s.ending j then es
  else
    let es := es ++ s.beginJob isle j
    es ++ runJob isle j.key goal fuel (applyAll es s)

/-! ### Taking jobs (R59, R382) -/

/-- An engine of an isle serves a virtual device: its quarter lies in the atoll, when the atoll is smaller than an isle. -/
def VD.servedBy (v : VD) (isle engine : Nat) : Bool :=
  let first := atollFirst v.node
  decide (engine < 4) &&
    (if 16 ≤ atollSize v.node then decide (first / 16 ≤ isle ∧ isle < (first + atollSize v.node) / 16)
     else first / 16 == isle && decide (first % 16 ≤ 4 * engine ∧ 4 * engine < first % 16 + atollSize v.node))

/-- The job of highest priority of some, the oldest among equals. -/
def bestJob : List Job → Option Job
  | [] => none
  | j :: rest =>
    match bestJob rest with
    | some k => if j.prio < k.prio ∨ (j.prio = k.prio ∧ k.age < j.age) then some k else some j
    | none => some j

/-- The job an engine goes on with, or takes. -/
def State.engineJob (s : State) (isle engine : Nat) : Option Job :=
  let js := (s.isleAt isle).jobs.filter fun j => j.kind != .cdec
  match js.find? fun j => j.state == .running engine with
  | some j => some j
  | none =>
    bestJob (js.filter fun j => j.state == .queued &&
      match s.vdAt j.vf with | some v => v.servedBy isle engine | none => false)

/-- An engine takes a job, or goes on with its own, and delivers `units` times 64 bytes of it. -/
def planEngine (isle engine units : Nat) (s : State) : Plan :=
  match s.engineJob isle engine with
  | some j =>
    let es := s.workOn isle engine none j ((j.progress / 64 + units) * 64) (256 * (units + 1))
    when "ENGINE_TAKE_JOB" (!es.isEmpty) es
  | none => .error (.event "ENGINE_TAKE_JOB")

def execEngineTakeJob (isle engine units : Nat) (s : State) := run (planEngine isle engine units s) s

/-- The service class of a virtual device (R67): byte 0x052 of its policy. -/
def VD.cls (v : VD) : Nat := match v.policy with | some b => (b.getD 0x52 0).toNat | none => 3

/-- The CDEC jobs of a die with their isles. -/
def State.decodeJobs (s : State) (die : Nat) : List (Nat × Job) :=
  (List.range 16).flatMap fun i =>
    ((s.isleAt (die * 16 + i)).jobs.filter fun j => j.kind == .cdec && j.live).map fun j => (die * 16 + i, j)

/-- One CDEC job goes before another: by service class, then by age (R59). -/
def State.decodeBefore (s : State) (x y : Nat × Job) : Bool :=
  let cls (j : Job) : Nat := match s.vdAt j.vf with | some v => v.cls | none => 3
  decide (cls x.2 < cls y.2 ∨ (cls x.2 = cls y.2 ∧ x.2.age < y.2.age))

def State.bestDecode (s : State) : List (Nat × Job) → Option (Nat × Job)
  | [] => none
  | x :: rest =>
    match State.bestDecode s rest with
    | some y => if s.decodeBefore y x then some y else some x
    | none => some x

/-- The job a decoder goes on with, or takes; one bound to a parked job waits for it (R123). -/
def State.decoderJob (s : State) (die decoder : Nat) : Option (Nat × Job) :=
  let d := die * 4 + decoder
  let js := s.decodeJobs die
  match js.find? fun x => x.2.decoder == some d with
  | some x => (match x.2.state with | .parked => none | _ => some x)
  | none => s.bestDecode (js.filter fun x => x.2.state == .queued && x.2.decoder.isNone)

def planDecoder (die decoder units : Nat) (s : State) : Plan :=
  if die < 4 ∧ decoder < 4 ∧ s.module.ready.getLsbD (34 + die * 4 + decoder) = true then
    match s.decoderJob die decoder with
    | some (isle, j) =>
      let es := s.workOn isle (4 + die * 4 + decoder) (some (die * 4 + decoder)) j (j.progress + units) (256 * (units + 1))
      when "DECODER_TAKE_JOB" (!es.isEmpty) es
    | none => .error (.event "DECODER_TAKE_JOB")
  else .error (.event "DECODER_TAKE_JOB")

def execDecoderTakeJob (die decoder units : Nat) (s : State) := run (planDecoder die decoder units s) s

/-! ### Bank transforms (R137, R400) -/

/-- One element of a transform. -/
def bxfElem (f : LM) (rmode operand x : Nat) : Nat :=
  let t := f.fmt.toNat
  let m := ffmt t
  let top := 2 ^ (m.ebits + m.fbits)
  match f.fn.toNat / 8 % 4 with
  | 1 => (arithF .mul t rmode x (operand % 2 ^ tagWidth t)).1
  | 2 =>
    let v := unpackF m x
    if v.isNaN then m.defaultNaN else if v.neg then 0 else x
  | 3 =>
    let mag := operand % top
    (minMaxF false t (minMaxF true t x (top + mag)).1 mag).1
  | _ => 0

/-- A chunk of 64 bytes transformed. -/
def bxfChunk (j : Job) (bs : List Byte) : List Byte :=
  if j.f.fn.toNat / 8 % 4 = 0 then zeroBytes 64
  else
    let w := tagWidth j.f.fmt.toNat
    leBytes 64 (packElems w ((unpackElems w (512 / w) (leNat bs)).map (bxfElem j.f j.rmode j.src)))

def planBxfChunk (s : State) : Plan :=
  match s.delivering with
  | some f =>
    match f.pk with
    | .bxf isle id core off =>
      let first := s.flights.all fun g => decide (f.id ≤ g.id) || g.tid.vf != f.tid.vf ||
        (match g.pk with | .bxf _ _ c _ => c != core | _ => true)
      match (s.isleAt isle).job? id, first with
      | some j, true =>
        let bs := readBytes (s.coreAt f.tid.vf core).sram off 64
        .ok [.drop f.id,
          .core f.tid.vf core (fun c => (bxfChunk j bs).zipIdx.foldl (fun c (b, i) => c.engineByte (off + i) b) c),
          jobEff isle id fun k => { k with wpos := k.wpos + 64 }]
      | none, true => .ok [.drop f.id]
      | _, false => .error (.event "BXF_CHUNK_AT_BANK")
    | _ => .error (.event "BXF_CHUNK_AT_BANK")
  | none => .error (.event "BXF_CHUNK_AT_BANK")

def execBxfChunkAtBank (s : State) := run (planBxfChunk s) s

/-! ### The end of a job (R387, R401) -/

/-- The job word (Table 21.8). -/
def jobWord (id : Nat) (j : Option Job) : Word :=
  match j with
  | none => BitVec.ofNat 64 (stSTALE + 4 * 2 ^ 8 + id * 2 ^ 16)
  | some j =>
    let (status, state) := match j.state with
      | .queued => (stBUSY, 0)
      | .running _ => (stBUSY, 1)
      | .parked => (stBUSY, 2)
      | .ended st => (st, 3)
    BitVec.ofNat 64 (status + state * 2 ^ 8 + id * 2 ^ 16 + j.wpos % 2 ^ 32 * 2 ^ 32)

/-- A cancelled job ends ABORTED, and its CCANCELs are answered with its word (R401). -/
def State.endCancelled (s : State) (isle : Nat) (j : Job) : List Eff :=
  let word := jobWord j.id (some { j with state := .ended stABORTED })
  .isle isle (·.finish j.key stABORTED) ::
    (s.flights.filter fun g => g.tid == j.tid && (match g.pk with | .bxf .. => true | _ => false)).map (fun g => .drop g.id) ++
    j.cancels.flatMap fun (slot, gen, seq) =>
      let t : Tid := ⟨j.vf, j.core, slot⟩
      if (s.slotOf t).gen.toNat = gen then s.partDone t seq fun o => o.setS0 word else []

/-- A CCANCEL ends a job now: at its next 64-byte delivery boundary while it runs, at once when it is queued or parked. -/
def State.stopsNow (s : State) (j : Job) : Bool := match j.state with | .running _ => s.even j | _ => true

/-- Every byte of a running job has been performed at its place. -/
def State.jobDone (s : State) (j : Job) : Bool :=
  (match j.state with | .running _ => true | _ => false) &&
    (match j.next s with | .done => true | _ => false) && s.flights.all fun f => f.tid != j.tid

def planJobEnd (isle id : Nat) (s : State) : Plan :=
  match (s.isleAt isle).job? id with
  | some j =>
    if j.cancels = [] then
      when "JOB_END" (s.jobDone j)
        [.isle isle (·.finish id stOK), .core j.vf j.core (·.addSem j.f.gq.toNat j.f.gv.toNat)]
    else when "JOB_END" (j.live && s.stopsNow j) (s.endCancelled isle j)
  | none => .error (.event "JOB_END")

def execJobEnd (isle job : Nat) (s : State) := run (planJobEnd isle job s) s

/-! ### Migration (R153) -/

/-- The write position of a migration: every byte below the first forward still on its way has been written (R174). -/
def State.forwarded (s : State) (t : Tid) (off : Nat) : List Eff :=
  if t.slot < 8 then []
  else
    [.isle (s.isleNo t.vf t.core) fun u => u.modJob (t.slot - 8 + 65536 * t.vf) fun j =>
      if j.kind = .mig ∧ j.live = true then { j with wpos := ((s.forwardsOf t).filter (· != off)).foldl min j.pos } else j]

/-- A forward toward a module that cannot take it fails at its origin (R17, R26): the job that sent it parks, the thread whose
store it carries blocks; one of a job that has ended is dropped. -/
def State.forwardFails (s : State) (f : Flight) (va : Nat) : List Eff :=
  if f.tid.slot < 8 then s.holdFlight f (.fault cLINK) va .write
  else
    let isle := s.isleNo f.tid.vf f.tid.core
    match (s.isleAt isle).job? (f.tid.slot - 8 + 65536 * f.tid.vf) with
    | some j => if j.live then s.parkJob isle j (.fault cLINK) va .write else [.drop f.id]
    | none => [.drop f.id]

/-- A forward waits at the hub no more. -/
def offHub (vf id : Nat) : Eff := .vd vf fun v => { v with hubs := v.hubs.filter (·.1 != id) }

/-- A forward that finds no ready strait waits at the hub for 10 µs from then on, and fails after that; woken, it waits anew
(R17). -/
def State.forwardAway (s : State) (f : Flight) (va : Nat) : Plan :=
  match (s.vdAt f.tid.vf).bind fun v => lookup v.hubs f.id with
  | none => .ok [.vd f.tid.vf fun v => { v with hubs := v.hubs ++ [(f.id, s.cycle)] }]
  | some since =>
    when "MIGRATION_FORWARD" (decide (since + hubWait ≤ s.cycle)) (offHub f.tid.vf f.id :: s.forwardFails f va)

/-- A forward reaches the destination home, in the order sent, once its frame is there. Toward another module it goes with
a ready strait of its route, waits up to 10 µs for one, and fails with cause LINK after that, without an entry in the route
table, or at a frame withdrawn there. -/
def planForward (s : State) : Plan :=
  match s.delivering with
  | some f =>
    match f.pk with
    | .forward va pa dev tpa bytes full =>
      let first := s.flights.all fun g => decide (f.id ≤ g.id) || g.tid.vf != f.tid.vf ||
        (match g.pk with | .forward _ pa' _ _ _ _ => homeOf pa' != homeOf pa | _ => true)
      if first = false then .error (.event "MIGRATION_FORWARD")
      else if dev ≠ s.ownDev then
        match (s.vdAt f.tid.vf).bind fun v => s.destStop v dev tpa with
        | none => .ok (offHub f.tid.vf f.id :: .drop f.id :: s.forwarded f.tid f.seq)
        | some (.away _) => s.forwardAway f va
        | some _ => .ok (offHub f.tid.vf f.id :: s.forwardFails f va)
      else
        match (s.vdAt f.tid.vf).bind (·.stage2 tpa) with
        | some q =>
          .ok (.drop f.id :: memEffs q bytes ++ (match full with | some on => [.full (q / 8) on] | none => []) ++
            s.forwarded f.tid f.seq)
        | none =>
          -- one record tells the Holm of the missing frame (R49)
          let es := s.frameWait f.tid.vf (tpa / 2 ^ 21)
          when "MIGRATION_FORWARD" (!es.isEmpty) es
    | _ => .error (.event "MIGRATION_FORWARD")
  | none => .error (.event "MIGRATION_FORWARD")

def execMigrationForward (s : State) := run (planForward s) s

/-! ### Job control (R401) -/

/-- The job that a word names, of the thread's own core. -/
def State.namedJob (s : State) (t : Tid) (w : Word) : Option Job :=
  (s.isleAt (s.isleNo t.vf t.core)).jobs.find? fun j =>
    j.id == bits w.toNat 31 16 && j.vf == t.vf && j.core == t.core

/-- A job-control instruction whose result is known when it issues. -/
def jobAnswer (s : State) (t : Tid) (x : Slot) (f : LM) (w : Word) : List Eff :=
  [.slot t (fun x => x.start (lmOp s x f [] [(f.sc, w)])), .send t x.seq 12 .vreply]

def planCpoll (f : LM) (s : State) : Plan :=
  issuing s fun t x =>
    jobAnswer s t x f (jobWord (bits (x.rs f.sa).toNat 31 16) (s.namedJob t (x.rs f.sa)))

def execCpoll (f : LM) (s : State) := run (planCpoll f s) s

def planCwpos (f : LM) (s : State) : Plan :=
  issuing s fun t x =>
    jobAnswer s t x f (match s.namedJob t (x.rs f.sa) with | some j => BitVec.ofNat 64 j.wpos | none => 0)

def execCwpos (f : LM) (s : State) := run (planCwpos f s) s

/-- CWAIT waits until the job has ended; WAIT_CONDITION_MET writes its word. -/
def planCwait (f : LM) (s : State) : Plan :=
  issuing s fun t x =>
    let id := bits (x.rs f.sa).toNat 31 16
    match s.namedJob t (x.rs f.sa) with
    | some j =>
      if j.live then
        [.slot t fun x => x.start { lmOp s x f [] [(f.sc, 0)] with
          left := 1, wait := .job id, deadline := deadline s.cycle (f.fn.toNat % 32) }]
      else jobAnswer s t x f (jobWord id (some j))
    | none => jobAnswer s t x f (jobWord id none)

def execCwait (f : LM) (s : State) := run (planCwait f s) s

/-- CCANCEL: a live job ends ABORTED at the next delivery boundary; JOB_END answers one that has to wait for it. The chunks of a
transform that are on their way go no further; lines of a migration that have been sent are awaited. -/
def planCcancel (f : LM) (s : State) : Plan :=
  issuing s fun t x =>
    let id := bits (x.rs f.sa).toNat 31 16
    match s.namedJob t (x.rs f.sa) with
    | some j =>
      if j.live then
        let isle := s.isleNo t.vf t.core
        if s.stopsNow j then
          s.endCancelled isle j ++ jobAnswer s t x f (jobWord id (some { j with state := .ended stABORTED }))
        else
          [.slot t fun x => x.start { lmOp s x f [] [(f.sc, 0)] with left := 1 },
           jobEff isle j.key fun k => { k with cancels := k.cancels ++ [(t.slot, x.gen.toNat, x.seq)] }]
      else jobAnswer s t x f (jobWord id (some j))
    | none => jobAnswer s t x f (jobWord id none)

def execCcancel (f : LM) (s : State) := run (planCcancel f s) s

end Sys2Proof.Machine
end

