-- ==== Sys2Proof/Machine/Fetch.lean ====
section
/-! DEFINITION. Instruction fetch (R251, R262) and what an instruction's fields say to the issue logic (R97 to R99,
R257). -/

namespace Sys2Proof.Machine

/-! ### The fetch buffer (R262) -/

/-- The name of an 8-byte unit in the buffer: its address and the privilege it was fetched at. -/
def fetchKey (va : Nat) (priv : Bool) : Nat := 2 * (va / 8 * 8) + if priv then 1 else 0

/-- A place some bytes lower. -/
def Place.minus (p : Place) (k : Nat) : Place :=
  match p with
  | .window core off => .window core (off - k)
  | .dram pa cls cmp bs mig => .dram (pa - k) cls cmp bs mig
  | .host a => .host (a - k)
  | .remote dev tpa => .remote dev (tpa - k)

/-- Bytes as a fetch of a core reads them: at their home, with the bytes the core has stored and not written back. -/
def State.fetchBytes (s : State) (t : Tid) (p : Place) (n : Nat) : List Byte × Nat :=
  let (b, k) := s.atHome t.vf p n
  match p with
  | .dram pa _ _ _ _ =>
    (match (s.coreAt t.vf t.core).l1.find? (·.line == pa / 128) with
      | some l => (b.zipIdx.map fun (x, i) =>
          if l.dirty.getLsbD (pa % 128 + i) then byteAt l.data.toNat (pa % 128 + i) else x, k)
      | none => (b, k))
  | _ => (b, k)

/-- The 8-byte unit that holds an instruction word: from the buffer, or translated, permission-checked and read. -/
def State.fetchUnit (s : State) (t : Tid) (va : Nat) : Except Where Word × List Eff :=
  let priv := (s.slotOf t).priv
  match lookup (s.coreAt t.vf t.core).fetched (fetchKey va priv) with
  | some w => (.ok w, [])
  | none =>
    match s.resolve t.vf t.core va 4 .fetch priv true with
    | (.at p _, es) =>
      (match s.onWay t.vf t.core p with
        | some w => (.error w, es)
        | none =>
          let (b, k) := s.fetchBytes t (p.minus (va % 8)) 8
          let w := BitVec.ofNat 64 (leNat b)
          (.ok w, es ++ [.draw k, .core t.vf t.core fun c => { c with fetched := put c.fetched (fetchKey va priv) w }]))
    | (w, es) => (.error w, es)

/-- One instruction word. -/
def State.fetchWord (s : State) (t : Tid) (va : Nat) : Except Where (BitVec 32) × List Eff :=
  match s.fetchUnit t va with
  | (.ok w, es) => (.ok ((w >>> (8 * (va % 8))).setWidth 32), es)
  | (.error w, es) => (.error w, es)

/-- What a fetch gives: five words' worth of bits with zeros above the instruction, or where it stopped and how many
words the instruction has, once that is known. -/
inductive Fetched where
  | code (w : Window)
  | stop (w : Where) (va : Nat) (words : Option Nat)
deriving DecidableEq, Repr

/-- Words one after another, each under the rules of its own page. -/
def State.fetchWords (t : Tid) (va words : Nat) : Nat → Nat → State → Fetched × List Eff
  | 0, _, _ => (.code 0, [])
  | n + 1, i, s =>
    let a := (va + 4 * i) % 2 ^ 64
    match s.fetchWord t a with
    | (.ok w, es) =>
      match State.fetchWords t va words n (i + 1) (applyAll es s) with
      | (.code r, es') => (.code (r <<< 32 ||| w.setWidth 160), es ++ es')
      | (r, es') => (r, es ++ es')
    | (.error w, es) => (.stop w a (if i = 0 then none else some words), es)

/-- The instruction at a slot's pc. -/
def State.fetch (s : State) (t : Tid) : Fetched × List Eff :=
  let pc := (s.slotOf t).pc.toNat
  match s.fetchWord t pc with
  | (.error w, es) => (.stop w pc none, es)
  | (.ok w, es) =>
    let n := wordCount w
    let (r, es') := State.fetchWords t pc n n 0 (applyAll es s)
    (r, es ++ es')

/-- The words at a slot's pc, when they can be had. -/
def State.codeAt (s : State) (t : Tid) : Option Window :=
  match (s.fetch t).1 with
  | .code w => some w
  | .stop _ _ _ => none

/-- The instruction at a slot's pc, when its words can be had and decode. -/
def State.instrAt (s : State) (t : Tid) : Option Instr :=
  (s.codeAt t).bind fun w => match decode w with | .ok i => some i | .error _ => none

/-! ### Fields -/

/-- The fields of an LM instruction. -/
def lmOf (i : Instr) : Option LM :=
  match i with
  | .vld f | .vst f | .vlds f | .vsts f | .vgath f | .vscat f | .vldf f | .vstf f | .vamo f => some f
  | .qwait f | .qsig f | .barArriveWait f | .barArrive f | .barWait f | .msend f | .mrecv f => some f
  | .mprobe f | .mins f | .mset f | .mrem f | .mprobev f | .msetv f | .mstat f | .miter f => some f
  | .wfeed f | .wread f | .wlen f | .badd f | .bload f | .bdrain f => some f
  | .tld f | .tst f | .tzero f | .mma f | .mmas f | .mmar f | .adrain f | .ald f | .msync f => some f
  | .cpy f | .cpyBrdx f | .cpyBrdc f | .cpyMig f | .cpy2 f | .cgath f | .cscat f | .cdec f | .cfill f | .bxf f
  | .cred f => some f
  | .cpoll f | .cwait f | .cwpos f | .ccancel f => some f
  | _ => none

/-- The semaphore-field wait of an instruction (R257); QWAIT's fields are its own operands (R340). -/
def semField (i : Instr) : Option (Nat × Nat) :=
  match i with
  | .qwait _ => none
  | _ =>
    match lmOf i with
    | some f => if f.wt = 0 then none else some (f.wq.toNat, f.wt.toNat)
    | none => none

/-- The scalar register that receives an LM instruction's status; CWPOS returns none (R401). -/
def statusReg (i : Instr) : Option SReg :=
  match i with
  | .vldf f | .qsig f | .barArriveWait f | .barArrive f | .barWait f | .msend f | .mrecv f => some f.sc
  | .mprobe f | .mins f | .mset f | .mrem f | .mprobev f | .msetv f | .mstat f | .miter f => some f.sc
  | .wfeed f | .wread f | .wlen f | .badd f | .bload f | .bdrain f => some f.sc
  | .cpy f | .cpyBrdx f | .cpyBrdc f | .cpyMig f | .cpy2 f | .cgath f | .cscat f | .cdec f | .cfill f | .bxf f
  | .cred f => some f.sc
  | .cpoll f | .cwait f | .ccancel f => some f.sc
  | _ => none

/-- The fields of a job-creating command's words that break R385: it waits for its semaphore before ILLEGAL is raised (R386). -/
def brokenCommand (w : Window) : Option LM :=
  let op := (w.extractLsb' 2 8).toNat
  if (0xA0 ≤ op ∧ op ≤ 0xA6 ∨ op = 0xAB) ∧ 2 ≤ (w.extractLsb' 0 2).toNat then
    match decode w with
    | .ok _ => none
    | .error _ => some (lmFields w)
  else none

/-- The semaphore and the amount that the words at a pc wait for (R257, R386). -/
def waitField (w : Window) : Option (Nat × Nat) :=
  match decode w with
  | .ok i => semField i
  | .error _ => (brokenCommand w).bind fun f => if f.wt = 0 then none else some (f.wq.toNat, f.wt.toNat)

/-- The register that takes TIMEOUT when that wait runs out, and the words of the instruction (R257). -/
def lapse (w : Window) : Option SReg × Nat :=
  match decode w with
  | .ok i => (statusReg i, match lmOf i with | some f => LM.words f | none => 1)
  | .error _ => ((brokenCommand w).map (·.sc), wordCount (w.extractLsb' 0 32))

/-- A job-creating command (R382). -/
def createsJob (i : Instr) : Bool :=
  match i with
  | .cpy _ | .cpyBrdx _ | .cpyBrdc _ | .cpyMig _ | .cpy2 _ | .cgath _ | .cscat _ | .cdec _ | .cfill _ | .bxf _
  | .cred _ => true
  | _ => false

/-- A matrix instruction (R362). -/
def matrixInstr (i : Instr) : Bool :=
  match i with
  | .tld _ | .tst _ | .tzero _ | .mma _ | .mmas _ | .mmar _ | .adrain _ | .ald _ | .msync _ => true
  | _ => false

end Sys2Proof.Machine
end

