-- ==== Sys2Proof/Machine/Waiting.lean ====
section
/-! DEFINITION. Waits that are met and waits that expire (R106, R107, R257). -/

namespace Sys2Proof.Machine

/-! ### Who waits on a semaphore, and since when (R107) -/

/-- The semaphore waiters of a core: since, semaphore, amount, and the slot with its instruction's number. -/
def State.semWaiters (s : State) (vf core : Nat) : List (Nat × Nat × Nat × Nat × Nat) :=
  (List.range 4).flatMap fun k =>
    let t : Tid := ⟨vf, core, k⟩
    let x := s.slotOf t
    (x.ops.filterMap fun o => match o.wait with | .sem q n => some (o.issued, q, n, k, o.seq) | _ => none) ++
      if x.lapsed then [] else
      match x.semWait, (s.codeAt t).bind waitField with
      | some since, some (q, n) => [(since, q, n, k, x.seq)]
      | _, _ => []

/-- A semaphore holds an amount, and no waiter that began earlier could take it: of the waits of one slot the earlier
instruction's comes first. -/
def State.semMet (s : State) (vf core q n since slot seq : Nat) : Bool :=
  let have' := (s.coreAt vf core).sem q
  decide (n ≤ have') && (s.semWaiters vf core).all fun (since', q', n', slot', seq') =>
    q' != q || decide (have' < n') ||
      if slot' = slot then decide (seq ≤ seq') else decide (since ≤ since')

/-! ### A waiting instruction examined -/

/-- The word of a barrier object as its waiter sees it. -/
def State.barrierWord (s : State) (t : Tid) (va : Nat) : Option Nat :=
  match (s.resolve t.vf t.core va 8 .atomic (s.slotOf t).priv true).1 with
  | .at q _ => some (leNat (s.atHome t.vf q 8).1)
  | _ => none

/-- The oldest packet of an operation that waits at a full word, none before it (R107, R326). -/
def State.readyWord (s : State) (t : Tid) (seq : Nat) : Option (Flight × Access × Place) :=
  s.flights.findSome? fun f =>
    match f.pk with
    | .wanting a p =>
      if f.tid = t ∧ f.seq = seq ∧ s.allFull t.vf a p = true ∧ s.firstWaiter f a p = true then some (f, a, p) else none
    | _ => none

/-- The oldest inbox entry of a slot (R105). -/
def Core.messageFor (c : Core) (slot : Nat) : Option Message :=
  c.inbox.find? fun m => bits m.header.toNat 29 28 == slot

/-- The result of MRECV from an entry (R344). -/
def Op.received (o : Op) (v : VReg) (m : Message) : Op :=
  { o.setS0 (BitVec.ofNat 64 (stOK + m.header.toNat % 2 ^ 35 * 256)) with
    wait := .none, v := [(v, ⟨BitVec.ofNat 2048 m.payload.toNat, 0, 0⟩)] }

/-- No earlier MRECV of the slot still waits (R107). -/
def Slot.firstReceiver (x : Slot) (o : Op) : Bool :=
  x.ops.all fun p => (match p.wait with | .inbox _ => false | _ => true) || decide (o.seq ≤ p.seq)

/-- What a waiting operation does when its condition holds before its timeout expires; none while it does not. A wait of a
core that has halted is abandoned (R88). -/
def State.meet (s : State) (t : Tid) (o : Op) : Option (List Eff) :=
  let c := s.coreAt t.vf t.core
  let x := c.slotAt t.slot
  let finish (g : Op → Op) : List Eff := s.partDone t o.seq fun o => { g o with wait := .none }
  if c.halted || !s.inTime t o then none else
  match o.wait with
  | .latch => if x.latch then some (.slot t (fun x => { x with latch := false }) :: finish id) else none
  | .claim =>
    if !c.claimed && c.claims.head? == some (t.slot, o.seq) then
      some (.core t.vf t.core (·.grantClaim t.slot) :: finish id)
    else none
  | .full => (s.readyWord t o.seq).map fun (f, a, p) => .drop f.id :: s.perform f a p
  | .sem q n =>
    if s.semMet t.vf t.core q n o.issued t.slot o.seq then
      let left := c.sem q - n
      some (.core t.vf t.core (·.setSem q left) :: finish (·.setS0 (BitVec.ofNat 64 (stOK + left * 2 ^ 16))))
    else none
  | .phase va p _ scope =>
    match (s.barrierWord t va).bind (barWait · p) with
    | some (st, next) =>
      some ((if st = stOK then s.acquire t scope none else emptyFetch t scope) ++ finish (·.setS0 (barResult st next)))
    | none => none
  | .inbox v =>
    if x.firstReceiver o then
      (c.messageFor t.slot).map fun m => .core t.vf t.core (·.takeMessage m) :: finish (·.received v m)
    else none
  | .job id =>
    match (s.isleAt (s.isleNo t.vf t.core)).jobs.find? fun j => j.id == id && j.vf == t.vf && j.core == t.core with
    | some j => if j.live then none else some (finish (·.setS0 (jobWord id (some j))))
    | none => some (finish (·.setS0 (jobWord id none)))
  | .token _ | .none => none

def planMet (vf core slot seq : Nat) (s : State) : Plan :=
  let t : Tid := ⟨vf, core, slot⟩
  match (s.slotOf t).opOf seq with
  | some o =>
    match s.meet t o with
    | some es => .ok es
    | none => .error (.event "WAIT_CONDITION_MET")
  | none => .error (.event "WAIT_CONDITION_MET")

def execWaitConditionMet (vf core slot seq : Nat) (s : State) := run (planMet vf core slot seq s) s

/-! ### Timeouts (R106) -/

/-- The status register of an operation: its last scalar result. -/
def Op.statusOf (o : Op) : List SReg := (o.s.getLast?.map (·.1)).toList

/-- TIMEOUT is all an operation writes. -/
def Op.expire (o : Op) (w : Word) : Op :=
  { o with wait := .none, left := 1, v := [], p := [], flags := 0, gv := 0, s := o.statusOf.map fun r => (r, w) }

/-- A waiter for a token gives up (R164). -/
def VD.dropWaiter (v : VD) (t : Tid) (seq : Nat) : VD :=
  let l := v.waiters.map fun (a, l) => (a, l.filter fun w => !(w.tid == t && w.seq == seq))
  { v with waiters := l.filter fun w => w.2 != [] }

/-- The packets of an operation go. -/
def State.dropAll (s : State) (t : Tid) (seq : Nat) : List Eff :=
  (s.flights.filter fun f => f.tid == t && f.seq == seq).map fun f => .drop f.id

/-- What an expired wait leaves: its result word, and its place among the waiters given up. A request that is still on its
way is not done (log entry 115); an arrival at a barrier never expires there (R109). -/
def State.expired (s : State) (t : Tid) (o : Op) : Word × List Eff :=
  let c := s.coreAt t.vf t.core
  match o.wait with
  | .sem q _ => (BitVec.ofNat 64 (stTIMEOUT + c.sem q * 2 ^ 16), [])
  | .phase _ p counted scope => (barResult stTIMEOUT (if counted then !p else p), emptyFetch t scope)
  | .claim =>
    (BitVec.ofNat 64 stTIMEOUT, [.core t.vf t.core fun c => { c with claims := c.claims.filter (·.1 != t.slot) }])
  | .token r =>
    (syncResult stTIMEOUT 0, .vd t.vf (·.dropWaiter t o.seq) :: emptyFetch t r.scope)
  | .full => (BitVec.ofNat 64 stTIMEOUT, s.dropAll t o.seq)
  | .job id =>
    let j := (s.isleAt (s.isleNo t.vf t.core)).jobs.find? fun j => j.id == id && j.vf == t.vf && j.core == t.core
    ((jobWord id j &&& ~~~0xFF#64) ||| BitVec.ofNat 64 stTIMEOUT, [])
  -- its packet is still on its way: what it asks for is not done
  | .none =>
    match (s.flights.find? fun f => f.tid == t && f.seq == o.seq).map Flight.pk with
    | some (.sync r) => (syncResult stTIMEOUT 0, s.dropAll t o.seq ++ emptyFetch t r.scope)
    | some (.barrier _ _ p scope) => (barResult stTIMEOUT p, s.dropAll t o.seq ++ emptyFetch t scope)
    | _ => (BitVec.ofNat 64 stTIMEOUT, s.dropAll t o.seq)
  | _ => (BitVec.ofNat 64 stTIMEOUT, [])

/-- The timeout of an operation expires before what it waits for is done, on a core that runs (R106); while an access of it
is held for a fault or a frame it is the fault's (log entry 43). -/
def State.runOut (s : State) (t : Tid) (o : Op) : Bool :=
  !s.inTime t o && (o.wait != .none || decide (0 < o.left)) && ((s.slotOf t).held.all fun h => h.seq != o.seq) &&
    s.flights.all fun f => f.tid != t || f.seq != o.seq || !s.unlimited f

/-- The wait of the instruction at pc for its semaphore has run out (R257). -/
def State.fieldOut (s : State) (t : Tid) : Option Window :=
  let x := s.slotOf t
  match x.semWait, s.codeAt t with
  | some since, some w =>
    (waitField w).bind fun (q, n) =>
      if x.live = true ∧ x.lapsed = false ∧ x.waitlim ≠ 31 ∧ since + 2 ^ x.waitlim.toNat ≤ s.cycle ∧
          s.semMet t.vf t.core q n since t.slot x.seq = false then some w
      else none
  | _, _ => none

/-- An instruction whose wait for its semaphore has run out: TIMEOUT is all it writes (R257). -/
def Slot.giveUp (x : Slot) (w : Window) : Slot :=
  (match (lapse w).1 with | some r => x.setS r (BitVec.ofNat 64 stTIMEOUT) | none => x).advance (x.after (lapse w).2)

/-- A wait that has run out: its result is TIMEOUT. A gang's member gives up its wait and issues with the gang (R111). -/
def planExpire (vf core slot seq : Nat) (s : State) : Plan :=
  let t : Tid := ⟨vf, core, slot⟩
  let x := s.slotOf t
  match x.opOf seq with
  | some o =>
    if s.runOut t o then
      let (w, es) := s.expired t o
      .ok (es ++ .slot t (fun x => x.modOp seq (·.expire w)) ::
        (applyAll [.slot t fun x => x.modOp seq (·.expire w)] s).partDone t seq id)
    else .error (.event "WAIT_TIMEOUT")
  | none =>
    if seq = x.seq then
      match s.fieldOut t with
      | some w =>
        .ok [.slot t fun x => if (x.team.map (·.gang)).getD false then { x with lapsed := true } else x.giveUp w]
      | none => .error (.event "WAIT_TIMEOUT")
    else .error (.event "WAIT_TIMEOUT")

def execWaitTimeout (vf core slot seq : Nat) (s : State) := run (planExpire vf core slot seq s) s

end Sys2Proof.Machine
end

