-- ==== Sys2Proof/Machine/Faults.lean ====
section
/-! DEFINITION. Page faults at the fault slice and back (R118 to R124, R130), waits at the hub (R17) and accesses that
find no frame (R49). -/

namespace Sys2Proof.Machine

/-! ### Accesses tried again or dropped (R121, R122) -/

/-- A held access leaves its slot. -/
def Held.gone (h : Held) (t : Tid) : Eff := .slot t fun x => ({ x with held := x.held.erase h } : Slot).count

/-- A held access refused (R122). A refused read of TRAPVEC leaves it 0 (R116). -/
def State.refuseHeld (s : State) (t : Tid) (h : Held) : List Eff :=
  let e := [h.gone t, .slot t fun x => { x.refuse h with bootVec := if h.flight.isNone ∧ h.part.isNone then false else x.bootVec }]
  let s := applyAll e s
  e ++
    match h.flight, h.part with
    | some id, _ => (match s.flightAt id with | some f => s.refusePacket f | none => [])
    | none, some _ => s.dropPart t h.seq
    | none, none => []

/-- A held access leaves its slot and is tried again: a part translates afresh, at the level that the slot has now (DESIGN CHOICE,
log entry 124), a packet is deliverable again, an instruction issues again (R121). -/
def State.retryHeld (s : State) (t : Tid) (h : Held) : List Eff :=
  match h.part with
  | none => [h.gone t]
  | some p => h.gone t :: ((h.gone t).apply s).tryPart t h p none

/-- Accesses one after another. -/
def eachHeld (g : State → Held → List Eff) : List Held → State → List Eff
  | [], _ => []
  | h :: hs, s => g s h ++ eachHeld g hs (applyAll (g s h) s)

/-- Held accesses of a slot tried again. None of them stands as a fault any more, so that one which fails again posts its
fault anew (R121). -/
def State.retryAll (s : State) (t : Tid) (hs : List Held) : List Eff :=
  let e : Eff := .slot t fun x => ({ x with held := x.held.filter fun h => !hs.contains h } : Slot).count
  e :: eachHeld (fun s h => s.retryHeld t h) hs (e.apply s)

/-- Held accesses of a slot woken: tried again, or, in a saved slot, noted for its resume (R130). -/
def State.wakeSlot (s : State) (t : Tid) (sel : Held → Bool) : List Eff :=
  let hs := (s.slotOf t).held.filter fun h => sel h && !h.woken
  if (s.coreAt t.vf t.core).halted then
    [.slot t fun x => ({ x with held := x.held.map fun h => if hs.contains h then { h with woken := true } else h } : Slot).count]
  else
    let es := s.retryAll t hs
    es ++ (applyAll es s).settle t

/-- Held accesses of a slot refused. -/
def State.refuseSlot (s : State) (t : Tid) (sel : Held → Bool) : List Eff :=
  let es := eachHeld (fun s h => s.refuseHeld t h) ((s.slotOf t).held.filter fun h => sel h && !h.woken) s
  es ++ (applyAll es s).settle t

/-! ### A fault message at the slice (R119) -/

/-- The next id from a candidate on that no outstanding fault has. -/
def VD.fidFrom (v : VD) : Nat → Nat → Nat
  | 0, c => c
  | k + 1, c => if v.faults.any (·.fid == c) then VD.fidFrom v k ((c + 1) % 65536) else c

/-- A requester joins a fault. -/
def SliceFault.join (x : SliceFault) (t : Tid) (engine : Bool) (isle job : Nat) (launch : Option (Nat × Nat)) : SliceFault :=
  match launch with
  | some n => { x with launches := x.launches ++ [n] }
  | none =>
    if !engine then { x with threads := x.threads ++ [t] }
    else if job = 0 then { x with matrix := x.matrix ++ [t.core] }
    else { x with jobs := x.jobs ++ [(isle, job)] }

/-- SRC of a fault record: core, slot and GEN of the thread; a launch has GEN zero (R83). A message of an evicted virtual device
waits for its restore, whose cores have numbers again. -/
def State.faultSource (s : State) (t : Tid) (isle job : Nat) (launch : Option (Nat × Nat)) : Nat :=
  let gen := match launch, (s.isleAt isle).job? job with
    | some _, _ => 0
    | none, some j => if job = 0 then (s.slotOf t).gen.toNat else j.gen
    | none, none => (s.slotOf t).gen.toNat
  s.coreNo t.vf t.core % 1024 + t.slot % 4 * 2 ^ 10 + gen % 65536 * 2 ^ 12

def planFaultMessage (s : State) : Plan :=
  match s.delivering with
  | some f =>
    match f.pk with
    | .fault page va cause kind engine isle job launch =>
      match s.vdAt f.tid.vf with
      | some v =>
        if v.faults.any (·.page == page) then
          .ok [.drop f.id, .vd v.vf fun v => { v with faults := v.faults.map fun x =>
            if x.page = page then { x.join f.tid engine isle job launch with merged := min (2 ^ 64 - 1) (x.merged + 1) }
            else x }]
        else
          let new : SliceFault :=
            { fid := v.fidFrom (v.faults.length + 1) (Config.freeNat s.free % 65536), page := page, va := va,
              cause := cause, kind := kind, engine := engine, first := s.faultSource f.tid isle job launch, merged := 1,
              threads := [], jobs := [], launches := [], matrix := [], sent := false }
          when "FAULT_MESSAGE_AT_SLICE" (decide (v.faults.length < 1024 ∧ v.node ≠ 0))
            [.drop f.id, .draw 1, .vd v.vf fun v =>
              { v with faults := v.faults ++ [new.join f.tid engine isle job launch] }]
      | none => .error (.event "FAULT_MESSAGE_AT_SLICE")
    | _ => .error (.event "FAULT_MESSAGE_AT_SLICE")
  | none => .error (.event "FAULT_MESSAGE_AT_SLICE")

def execFaultMessageAtSlice (s : State) := run (planFaultMessage s) s

/-! ### The answer (R120, R121) -/

/-- The wakes of a fault: one to each requester. -/
def SliceFault.wakes (x : SliceFault) (vf : Nat) (refuse : Bool) : List Eff :=
  x.threads.map (fun t => .send t 0 0 (.wake x.page refuse [t] [] [] [])) ++
    x.jobs.map (fun j => .send ⟨vf, 0, 0⟩ 0 0 (.wake x.page refuse [] [j] [] [])) ++
    x.launches.map (fun n => .send ⟨vf, 0, 0⟩ 0 0 (.wake x.page refuse [] [] [n] [])) ++
    x.matrix.map (fun c => .send ⟨vf, c, 0⟩ 0 0 (.wake x.page refuse [] [] [] [c]))

/-- A fault is resolved. -/
def SliceFault.resolve (x : SliceFault) (vf : Nat) (refuse : Bool) : List Eff :=
  .vd vf (fun v => { v with faults := v.faults.filter (·.fid != x.fid) }) :: x.wakes vf refuse

def AccKind.code : AccKind → Nat
  | .read => 0
  | .write => 1
  | .fetch => 2
  | .atomic => 3

/-- The header and the payload of a fault record (Table 6.6). -/
def SliceFault.record (x : SliceFault) : BitVec 64 × BitVec 448 :=
  (BitVec.ofNat 64 (x.first + 3 * 2 ^ 30 + 2 ^ 33 + 2 ^ 34),
   BitVec.ofNat 448 (x.cause + x.kind.code * 2 ^ 4 + (if x.engine then 2 ^ 6 else 0) + x.fid * 2 ^ 32 + 0xFF * 2 ^ 56 +
    x.va % 2 ^ 64 * 2 ^ 64 + x.merged * 2 ^ 128))

/-- The record of a fault is delivered to the pager, waits for room in its inbox, for a narrow on its way from the slice (R12)
or, of an evicted virtual device, for its restore, or refuses the fault (R119, R120, R130). -/
def planRecord (vf fid : Nat) (s : State) : Plan :=
  match (s.vdAt vf).bind fun v => (v.faults.find? fun x => x.fid == fid && !x.sent).map fun x => (v, x) with
  | some (v, x) =>
    let p := v.pager.toNat
    if v.node = 0 then .error (.event "FAULT_RECORD_DELIVERY") else
    match if bit p 28 then v.offset? (bits p 9 0) else none with
    | none => .ok (x.resolve vf true)
    | some core =>
      if s.narrowLost (dieOf (v.coreNo 0)) (dieOf (v.coreNo core)) then .error (.event "FAULT_RECORD_DELIVERY") else
      let (header, payload) := x.record
      let header := header ||| BitVec.ofNat 64 (bits p 11 10 * 2 ^ 28)
      let (st, g) := (v.coreAt core).arrive (bits p 11 10) (BitVec.ofNat 16 (bits p 27 12)) header payload
      if st = stSTALE then .ok (x.resolve vf true)
      else
        when "FAULT_RECORD_DELIVERY" (st == stOK)
          [.core vf core g, .vd vf fun v =>
            { v with faults := v.faults.map fun y => if y.fid = fid then { y with sent := true } else y }]
  | none => .error (.event "FAULT_RECORD_DELIVERY")

def execFaultRecordDelivery (vf fid : Nat) (s : State) := run (planRecord vf fid s) s

/-- FWAKE at the slice: OK for an outstanding fault, STALE for any other id. -/
def planFwakeAtSlice (s : State) : Plan :=
  match s.delivering with
  | some f =>
    match f.pk with
    | .fwake fid refuse =>
      let vf := f.tid.vf
      match (s.vdAt vf).bind fun v => v.faults.find? (·.fid == fid) with
      | some x => .ok (.drop f.id :: x.resolve vf refuse ++ s.partDone f.tid f.seq (·.setS0 (BitVec.ofNat 64 stOK)))
      | none => .ok (.drop f.id :: s.partDone f.tid f.seq (·.setS0 (BitVec.ofNat 64 stSTALE)))
    | _ => .error (.event "FWAKE_AT_SLICE")
  | none => .error (.event "FWAKE_AT_SLICE")

def execFwakeAtSlice (s : State) := run (planFwakeAtSlice s) s

/-! ### A wake arrives (R121 to R124) -/

/-- A job woken: it re-enters its queue, at its resume if it is saved; refused, it ends FAULTED. -/
def wakeJob (page : Nat) (refuse : Bool) (isle key : Nat) : Eff :=
  .isle isle fun u =>
    match u.job? key with
    | some j =>
      if j.faultPage ≠ some page then u
      else if refuse then u.finish key stFAULTED
      else u.modJob key fun j => { j with faultPage := none, away := none, state := if j.saved then j.state else .queued }
    | none => u

/-- A matrix transfer woken (R379). -/
def wakeMatrix (page : Nat) (refuse : Bool) (vf core : Nat) : Eff :=
  .core vf core fun c =>
    match c.queue with
    | o :: _ =>
      if o.fault ≠ some page then c
      else if refuse then
        ({ c.finishLoad o with fault := true } : Core).setHead fun o =>
          { o with fault := none, refused := true, done := true }
      else c.setHead fun o => { o with fault := none, away := none }
    | [] => c

/-- A launch woken (R83): it goes on, or its node completes ABORTED. -/
def Node.wake (page : Nat) (refuse : Bool) (n : Node) : Node :=
  if n.faulted ≠ some page then n
  else if refuse then { n with faulted := none, aborted := true, count := 0, state := .draining true }
  else { n with faulted := none, away := none }

def planWake (s : State) : Plan :=
  match s.delivering with
  | some f =>
    match f.pk with
    | .wake page refuse tids jobs launches matrix =>
      let vf := f.tid.vf
      let sel (h : Held) : Bool := h.cause != 0 && pageOf h.va == page
      let es := .drop f.id :: jobs.map (fun j => wakeJob page refuse j.1 j.2) ++
        matrix.map (wakeMatrix page refuse vf) ++
        launches.map fun n => .vd vf fun v => v.modNode n.1 n.2 (Node.wake page refuse)
      .ok (tids.foldl (fun es t =>
        let s := applyAll es s
        es ++ if refuse then s.refuseSlot t sel else s.wakeSlot t sel) es)
    | _ => .error (.event "WAKE_ARRIVAL")
  | none => .error (.event "WAKE_ARRIVAL")

def execWakeArrival (s : State) := run (planWake s) s

/-! ### Waits that fail (R17, R49) -/

/-- 10 µs and 10 ms in cycles. -/
def frameLimit : Nat := 17000000

/-- An access that has waited 10 µs at the hub for a ready strait fails with cause LINK (R17). -/
def planRouteWait (s : State) : Plan :=
  match s.flightAt s.turn with
  | some f =>
    match f.pk with
    | .route dev p _ =>
      let x := s.slotOf f.tid
      let (pc, words) := x.place f.seq
      let h : Held :=
        { seq := f.seq, va := p.va, cause := cLINK, frame := 0, kind := p.kind, pc := pc, words := words, part := some p,
          flight := none, woken := false }
      let es := .drop f.id :: s.hold f.tid [h] ++ (if s.isPager f.tid then s.dropPart f.tid f.seq else [])
      when "ROUTE_WAIT_EXPIRY" (decide (f.notBefore + hubWait ≤ s.cycle) && !s.routeReady dev)
        (es ++ (applyAll es s).settle f.tid)
    | _ => .error (.event "ROUTE_WAIT_EXPIRY")
  | none => .error (.event "ROUTE_WAIT_EXPIRY")

def execRouteWaitExpiry (s : State) := run (planRouteWait s) s

/-- The slots of a virtual device that hold an access to a missing frame. -/
def VD.framed (v : VD) (n : Nat) : List Tid :=
  v.cores.flatMap fun (off, c) => ((List.range 4).filter fun k =>
    (c.slotAt k).held.any fun h => h.cause == 0 && h.frame == n && !h.woken).map fun k => ⟨v.vf, off, k⟩

/-- A held access fails as a page fault with cause NOFRAME; a pager's own is refused at once (R120). An operation on the page
map does not page-fault (R192): it goes on waiting, under a record of its own (R49). -/
def State.noFrame (s : State) (t : Tid) (h : Held) : List Eff :=
  let onMap : Bool := match h.flight.bind s.flightAt with
    | some f => (match f.pk with | .map r => r.handle == 0 | _ => false)
    | none => false
  if onMap then
    let e : Eff := h.gone t
    e :: (e.apply s).hold t [h]
  else if s.isPager t then s.refuseHeld t h
  else
    let e : Eff := h.gone t
    e :: (e.apply s).hold t [{ h with cause := cNOFRAME }]

/-- The jobs of a virtual device that wait for a frame, each with its isle, address and kind of access. -/
def State.framedJobs (s : State) (vf n : Nat) : List (Nat × Job × Nat × AccKind) :=
  s.isles.flatMap fun (i, u) => u.jobs.filterMap fun j =>
    match j.frame with
    | some (m, va, k) => if j.vf = vf ∧ m = n then some (i, j, va, k) else none
    | none => none

/-- The matrix queues whose oldest operation waits for a frame. -/
def VD.framedMatrix (v : VD) (n : Nat) : List (Nat × MatOp × Nat) :=
  v.cores.filterMap fun (off, c) =>
    match c.queue with
    | o :: _ => (match o.frame with | some (m, va) => if m = n then some (off, o, va) else none | none => none)
    | [] => none

/-- The launches that wait for a frame: graph, node and its place. -/
def VD.framedLaunches (v : VD) (n : Nat) : List (Nat × Nat × Node) :=
  v.graphs.flatMap fun g => (g.nodes.zipIdx.filter fun x => x.1.frame == some n).map fun x => (g.id, x.2, x.1)

/-- The thread named in a launch's fault: rank 0's core and slot (R83). -/
def Node.first (n : Node) (vf : Nat) : Tid :=
  match n.place with
  | (off, k :: _) :: _ => ⟨vf, off, k⟩
  | (off, []) :: _ => ⟨vf, off, 0⟩
  | [] => ⟨vf, 0, 0⟩

/-- The fault of a launch leaves for the slice. -/
def launchFault (vf g i : Nat) (n : Node) (cause : Nat) : List Eff :=
  [.vd vf (fun v => v.modNode g i fun n => { n with faulted := some (pageOf n.args), frame := none, away := none }),
   .send (n.first vf) 0 0 (.fault (pageOf n.args) n.args cause .write true 0 0 (some (g, i)))]

/-- Jobs, matrix transfers and launches that waited for a frame post their faults. -/
def State.stopsFail (s : State) (v : VD) (n : Nat) : List Eff :=
  (s.framedJobs v.vf n).flatMap (fun (i, j, va, k) =>
    [jobEff i j.key fun j => { j with frame := none, faultPage := some (pageOf va) },
     .send ⟨v.vf, j.core, j.slot⟩ 0 0 (.fault (pageOf va) va cNOFRAME k true i j.key none)]) ++
  (v.framedMatrix n).flatMap (fun (off, o, va) =>
    [.core v.vf off (·.setHead fun o => { o with frame := none, fault := some (pageOf va) }),
     .send ⟨v.vf, off, o.slot⟩ o.seq 0
      (.fault (pageOf va) va cNOFRAME (if o.kind = .tst then .write else .read) true 0 0 none)]) ++
  (v.framedLaunches n).flatMap fun (g, i, nd) => launchFault v.vf g i nd cNOFRAME

/-- What waited for a frame goes on. -/
def State.stopsGoOn (s : State) (v : VD) (n : Nat) : List Eff :=
  (s.framedJobs v.vf n).map (fun (i, j, _) =>
    jobEff i j.key fun j => { j with frame := none, state := if j.saved then j.state else .queued }) ++
  (v.framedMatrix n).map (fun (off, _) => .core v.vf off (·.setHead fun o => { o with frame := none })) ++
  (v.framedLaunches n).map fun (g, i, _) => .vd v.vf fun v => v.modNode g i fun n => { n with frame := none }

/-- The record of a frame is resolved, and every slot, job, queue and launch that waited for it retries or fails. -/
def State.frameEnd (s : State) (v : VD) (n : Nat) (fail : Bool) : List Eff :=
  let e : Eff := .vd v.vf fun v =>
    { v with
      frameWaits := v.frameWaits.filter (·.1 != n)
      transfer := v.transfer.map fun t => if t.frame = some n ∧ fail = false then { t with frame := none } else t }
  let es := e :: if fail then s.stopsFail v n else s.stopsGoOn v n
  let sel (h : Held) : Bool := h.cause == 0 && h.frame == n
  (v.framed n).foldl (fun es t =>
    let s := applyAll es s
    es ++ if fail then
        let es := eachHeld (fun s h => s.noFrame t h) ((s.slotOf t).held.filter fun h => sel h && !h.woken) s
        es ++ (applyAll es s).settle t
      else s.wakeSlot t sel) es

end Sys2Proof.Machine
end

