-- ==== Sys2Proof/Machine/Graph.lean ====
section
/-! DEFINITION. Graphs: submission (R71 to R77), the ready pools and placement (R78 to R82), launch (R83, R84) and
completion (R85, R86). -/

namespace Sys2Proof.Machine

/-- Microseconds as cycles (R18). -/
def micro (n : Nat) : Nat := n * 1700

/-! ### Eligibility (R87) -/

/-- A virtual device's live threads, by core and slot. -/
def VD.liveOn (v : VD) (off k : Nat) : Bool := ((v.coreAt off).slotAt k).live

def VD.hasThread (v : VD) : Bool := v.cores.any fun (_, c) => (List.range 4).any fun k => (c.slotAt k).live

/-- A node in a ready pool, or taken from one and not launched. -/
def NodeState.pooled? : NodeState → Bool
  | .pooled _ | .placed _ => true
  | _ => false

def VD.hasPooled (v : VD) : Bool := v.graphs.any fun g => g.nodes.any fun n => n.state.pooled?

def VD.eligible (v : VD) : Bool := v.state == .running && (v.hasThread || v.hasPooled)

/-- The virtual devices of an atoll. -/
def State.onAtoll (s : State) (node : Nat) : List VD := (s.vds.map (·.2)).filter fun v => v.node == node

/-- The smallest of some numbers. -/
def least : List Nat → Option Nat
  | [] => none
  | a :: rest => match least rest with | some b => some (min a b) | none => some a

/-- The virtual time of a virtual device, the turn it has under way included. -/
def State.timeOf (s : State) (v : VD) : Nat :=
  v.vtime + match v.turnStart with | some c => (s.cycle - c) * 256 / max 1 v.weight | none => 0

/-- Effects by which a virtual device may become eligible: it then starts no lower than those that are (R87). -/
def State.entering (s : State) (vf : Nat) (es : List Eff) : List Eff :=
  match s.vdAt vf, (applyAll es s).vdAt vf with
  | some v, some w =>
    if !v.eligible && w.eligible then
      match least (((s.onAtoll w.node).filter fun u => u.eligible && u.vf != vf).map s.timeOf) with
      | some m => es ++ [.vd vf fun v => { v with vtime := v.vtime + (m - s.timeOf v) }]
      | none => es
    else es
  | none, some w =>
    match least (((s.onAtoll w.node).filter (·.eligible)).map s.timeOf) with
    | some m => if w.eligible then es ++ [.vd vf fun v => { v with vtime := v.vtime + (m - s.timeOf v) }] else es
    | none => es
  | _, none => es

/-! ### Affinity (R81) -/

/-- The isles of an atoll. -/
def VD.isles (v : VD) : List Nat :=
  let first := atollFirst v.node
  (List.range ((first + atollSize v.node - 1) / 16 - first / 16 + 1)).map (first / 16 + ·)

/-- The core that holds the write token of an object, as its home says now. -/
def State.tokenHolder (s : State) (v : VD) (tpa : Nat) : Option Nat :=
  (v.stage2 tpa).bind fun pa => (holderOf (s.readNat pa 8)).map (·.1)

/-- The affinity score of an isle. -/
def State.score (s : State) (v : VD) (n : Node) (isle : Nat) : Nat :=
  (n.homes.map fun (die, tpa, token, mode) =>
    (if token = true ∧ 2 ≤ mode ∧ (s.tokenHolder v tpa).map (fun c => isleOf (v.coreNo c)) = some isle then 2 else 0) +
      if die = isle / 16 then 1 else 0).sum

def State.dieScore (s : State) (v : VD) (n : Node) (die : Nat) : Nat :=
  ((v.isles.filter fun i => i / 16 == die).map (s.score v n)).sum

/-- Nodes pooled on a die. -/
def VD.pooledOn (v : VD) (die : Nat) : Nat :=
  (v.graphs.map fun g => (g.nodes.filter fun n => n.state == .pooled die).length).sum

/-- A team of more isles than a die has (R78). -/
def Node.wide (n : Node) : Bool := n.shape == 5 && decide (16 < n.isles)

/-- The die whose pool a node enters (R78). -/
def State.poolDie (s : State) (v : VD) (n : Node) : Nat :=
  let dies := v.dies
  if n.wide then dies.headD 0
  else
    (dies.find? fun d => dies.all fun e =>
      decide (s.dieScore v n e < s.dieScore v n d) ||
        (s.dieScore v n e == s.dieScore v n d && decide (v.pooledOn d < v.pooledOn e ∨ (v.pooledOn d = v.pooledOn e ∧ d ≤ e)))).getD
      (dies.headD 0)

/-- Nodes become ready, one after another. -/
def readyAll (vf g : Nat) : List Nat → State → List Eff
  | [], _ => []
  | i :: rest, s =>
    match s.vdAt vf with
    | some v =>
      match v.nodeAt g i with
      | some n =>
        let die := s.poolDie v n
        let e : Eff := .vd vf fun v => v.modNode g i fun n => { n with state := .pooled die, ready := s.cycle }
        e :: readyAll vf g rest (e.apply s)
      | none => readyAll vf g rest s
    | none => []

/-! ### Submission (R71 to R76) -/

/-- A read of the scheduler: fixed windows and addresses of more than 56 bits are not read. -/
def State.snapRead (s : State) (vf core va n : Nat) : Except (Where × Nat) (List Byte × List Eff) :=
  let ps := piecesOf va n
  let good := ps.takeWhile fun p => decide (p.1 < 2 ^ 56) && !inFixedWindow p.1
  match s.moveIn vf core true good with
  | (b, es, none) =>
    match ps.drop good.length with
    | [] => .ok (b, es)
    | (a, _) :: _ => .error (.addr, a)
  | (_, _, some (w, l)) => .error (w, (l.head?.map (·.1)).getD va)

/-- An event descriptor's bits beyond Table 4.4. -/
def eventBad (e : Nat) : Bool := decide (2 ^ 27 ≤ e)

/-- The header checks (Table 4.6, third row). -/
def headerBad (addr : Nat) (h : List Byte) : Bool :=
  addr % 64 != 0 || fieldLE h 0 4 != 0x4E444752 || fieldLE h 4 2 == 0 || decide (4096 < fieldLE h 4 2) ||
    fieldLE h 6 2 != 0 || fieldLE h 8 8 % 128 != 0 || eventBad (fieldLE h 16 8) || fieldLE h 32 32 != 0

/-- A node of a snapshot: its descriptor and its successors. -/
structure NodeDesc where
  b : List Byte
  succ : List Nat
deriving DecidableEq, Repr

def NodeDesc.ctrl (n : NodeDesc) : Nat := fieldLE n.b 16 8
def NodeDesc.shape (n : NodeDesc) : Nat := bits n.ctrl 2 0
def NodeDesc.isles (n : NodeDesc) : Nat := bits n.ctrl 9 3
def NodeDesc.nops (n : NodeDesc) : Nat := bits n.ctrl 42 40
def NodeDesc.ops (n : NodeDesc) : List Nat := (List.range n.nops).map fun k => fieldLE n.b (48 + 8 * k) 8
def NodeDesc.evt (n : NodeDesc) : Nat := fieldLE n.b 32 8

/-- A node field out of range (fourth row). -/
def NodeDesc.bad (n : NodeDesc) : Bool :=
  let c := n.ctrl
  let succ := fieldLE n.b 24 8
  let gang := bit c 14
  fieldLE n.b 0 8 % 4 != 0 || fieldLE n.b 8 8 % 64 != 0 || succ % 2 != 0 || (bits c 39 28 == 0 && succ != 0) ||
    decide (5 < n.shape) || (if n.shape = 5 then n.isles == 0 || decide (64 < n.isles) else n.isles != 0) ||
    (gang && !(decide (1 ≤ n.shape ∧ n.shape ≤ 4) && bits c 11 10 == 0)) || bit c 15 || bits c 63 43 != 0 ||
    decide (6 < n.nops) || eventBad n.evt || fieldLE n.b 40 8 != 0 || fieldLE n.b 96 32 != 0 ||
    fieldLE n.b (48 + 8 * min 6 n.nops) (48 - 8 * min 6 n.nops) != 0 ||
    n.ops.any fun o => bits o 13 12 == 0 || bits o 15 14 != 0 || bits o 63 48 != 0

/-- Nodes left when those without a predecessor among them are taken away, round after round. -/
def peel (succ : List (List Nat)) : Nat → List Nat → List Nat
  | 0, l => l
  | k + 1, l =>
    let l' := l.filter fun i => l.any fun j => (succ.getD j []).contains i
    if l'.length = l.length then l else peel succ k l'

/-- The successor lists are sound (fifth row). -/
def edgesBad (ns : List NodeDesc) : Bool :=
  let succ := ns.map (·.succ)
  let all := succ.flatten
  all.any (fun i => decide (ns.length ≤ i)) ||
    (ns.zipIdx.any fun (n, i) => bits n.ctrl 27 16 != all.count i) ||
    peel succ ns.length (List.range ns.length) != []

/-- An event outside the atoll. -/
def VD.eventOut (v : VD) (e : Nat) : Bool := bits e 25 18 != 0 && (v.offset? (bits e 9 0)).isNone

/-- A team that the atoll cannot hold (sixth row). -/
def VD.teamOut (v : VD) (n : NodeDesc) : Bool :=
  let size := atollSize v.node
  decide (size < if n.shape = 5 then 16 * n.isles else 2 ^ n.shape) || (decide (4 ≤ n.shape) && decide (size < 16))

/-- An event kept with its core as an offset. -/
def VD.keepEvent (v : VD) (e : Nat) : Nat := e - bits e 9 0 + (v.offset? (bits e 9 0)).getD 0

/-- An operand's object. A HALO operand whose TROW or TCOL lies outside the region's tiles has none, and its graph is not
refused for it (DESIGN CHOICE, log entry 122). -/
def operandObject (o : Nat) (g : Region) : Option Nat :=
  if g.kind = 2 then
    let h := haloOf g.kindf
    if bits o 31 16 < h.gr ∧ bits o 47 32 < h.gc then some (g.sync + 64 * (bits o 31 16 * h.gc + bits o 47 32)) else none
  else some g.sync

/-- What a submission comes to. -/
inductive Submitted where
  | stop (w : Where) (va : Nat)
  | deny (status reason : Nat)
  | accept (g : Graph)
deriving DecidableEq, Repr

/-- The descriptor that an operand names, read at its home (R81): its frame is missing, or a narrow holds the read (R12); no
live region; or the region, none when a field of it is invalid. -/
def State.operandRegion (s : State) (v : VD) (core h : Nat) : Except Where (Option (Option Region)) :=
  let base := tableBase v.rgntab
  if 4096 ≤ h ∨ base = 0 then .ok none
  else
    match v.stage2 (base + 64 * h) with
    | none => .error (.frame ((base + 64 * h) / 2 ^ 21))
    | some pa =>
      if core ≠ holmCore ∧ s.narrowLost (dieOf (v.coreNo core)) (homeOf pa / 32) = true then .error .narrow
      else
        let b := BitVec.ofNat 512 (s.readNat pa 64)
        .ok (if b.getLsbD 192 then some (regionOf b v.dies) else none)

/-- TROW or TCOL of an operand is not zero: its region has to be a HALO region (Table 4.5). -/
def namesTile (o : Nat) : Bool := bits o 47 16 != 0

/-- Such an operand's region is none. -/
def strayOperand (o : Nat) (g : Except Where (Option (Option Region))) : Bool :=
  match g with
  | .ok (some (some g)) => g.kind != 2 && namesTile o
  | _ => false

/-- What keeps the region of an operand from being read. -/
def notRead (g : Except Where (Option (Option Region))) : Option Where :=
  match g with
  | .error w => some w
  | .ok _ => none

/-- Objects translated once, by walks; one that does not translate is left out (R81). -/
def State.homesOf (vf core : Nat) : List (Nat × Option (Option Region)) → State → List (Nat × Nat × Bool × Nat) × List Eff
  | [], _ => ([], [])
  | (o, g) :: rest, s =>
    let (mine, es) : List (Nat × Nat × Bool × Nat) × List Eff :=
      match g.join.bind fun g => (operandObject o g).map fun a => (g, a), s.vdAt vf with
      | some (g, a), some v =>
        (match s.resolve vf core a 8 .read true false with
          | (.at (.dram pa _ _ _ _) _, es) =>
            ((tenantOf v.grants pa).toList.map fun tpa => (homeOf pa / 32, tpa, g.kind == 1 || g.kind == 2, bits o 13 12), es)
          | (_, es) => ([], es))
      | _, _ => ([], [])
    let (more, es') := State.homesOf vf core rest (applyAll es s)
    (mine ++ more, es ++ es')

/-- The node of a descriptor. -/
def NodeDesc.node (v : VD) (n : NodeDesc) (homes : List (Nat × Nat × Bool × Nat)) : Node where
  entry := fieldLE n.b 0 8
  args := fieldLE n.b 8 8
  shape := n.shape
  isles := n.isles
  slots := bits n.ctrl 11 10 + 1
  prio := bits n.ctrl 13 12
  gang := bit n.ctrl 14
  preds := bits n.ctrl 27 16
  succ := n.succ
  evt := v.keepEvent n.evt
  homes := homes
  state := .waiting
  ready := 0
  aged := 0
  place := []
  count := 0
  aborted := false
  faulted := none
  frame := none
  away := none

/-- Nodes with their operands' homes. -/
def State.snapNodes (vf core : Nat) (v : VD) : List (NodeDesc × List (Option (Option Region))) → State → List Node × List Eff
  | [], _ => ([], [])
  | (n, gs) :: rest, s =>
    let (homes, es) := State.homesOf vf core (n.ops.zip gs) s
    let (more, es') := State.snapNodes vf core v rest (applyAll es s)
    (n.node v homes :: more, es ++ es')

/-- The next graph id, skipping 0 and the ids of live graphs (R75). -/
def VD.graphId (v : VD) : Nat → Nat → Nat
  | 0, c => c
  | k + 1, c => if c = 0 ∨ (v.graphs.any (·.id == c)) = true then VD.graphId v k ((c + 1) % 65536) else c

/-- Live nodes (R74). -/
def VD.liveNodes (v : VD) : Nat := (v.graphs.map fun g => (g.nodes.filter fun n => n.state != .done).length).sum

/-- The reads of the second stage: every node, then every successor array. -/
def State.readNodes (s : State) (vf core base count : Nat) : Except (Where × Nat) (List NodeDesc × List Eff) := do
  let (b, es) ← s.snapRead vf core base (128 * count)
  let bs := (List.range count).map fun i => (b.drop (128 * i)).take 128
  let (ns, es) ← bs.foldlM (fun ((ns, es) : List NodeDesc × List Eff) b => do
    let n := bits (fieldLE b 16 8) 39 28
    if n = 0 then return (ns ++ [(⟨b, []⟩ : NodeDesc)], es)
    else
      let (a, es') ← (applyAll es s).snapRead vf core (fieldLE b 24 8) (2 * n)
      return (ns ++ [(⟨b, (List.range n).map fun k => fieldLE a (2 * k) 2⟩ : NodeDesc)], es ++ es')) ([], es)
  return (ns, es)

/-- The rows of Table 4.6 after the third, in order, over the nodes and what their operands name. A region whose frame is missing
is waited for only where a row needs it: the fourth, of an operand whose TROW or TCOL is not zero, once the fifth and sixth give no
outcome, and the eighth, of every operand, once none is known to name no live region. -/
def State.checkNodes (s : State) (v : VD) (core addr : Nat) (h : List Byte) (ns : List NodeDesc) (busy : Nat)
    (gs : List (List (Except Where (Option (Option Region))))) : Option Submitted :=
  -- a wait for a region's frame names the header's address (DESIGN CHOICE, log entry 116)
  let pairs := (ns.zip gs).flatMap fun (n, gs) => n.ops.zip gs
  let stop (w : Where) : Option Submitted := some (.stop w addr)
  let denied (r : Nat) : Option Submitted := some (.deny stDENIED r)
  if ns.any (·.bad) || pairs.any fun (o, g) => strayOperand o g then denied 7
  else if edgesBad ns then denied 7
  else if (ns.any fun n => v.teamOut n || v.eventOut n.evt) || v.eventOut (fieldLE h 16 8) then denied 7
  else
    match pairs.findSome? fun (o, g) => if namesTile o then notRead g else none with
    | some w => stop w
    | none =>
      if ns.any fun n => !(v.entries.any fun (b, l, _) => decide (b ≤ fieldLE n.b 0 8 ∧ fieldLE n.b 0 8 < b + l)) then denied 2
      else
        if pairs.any fun (_, g) => match g with | .ok none => true | _ => false then some (.deny stBADH 7)
        else
          match pairs.findSome? fun (_, g) => notRead g with
          | some w => stop w
          | none =>
          if 64 ≤ v.graphs.length ∨ 16384 < v.liveNodes + ns.length then some (.deny busy 4)
          else if pairs.any fun (o, g) =>
              match g with
              | .ok (some (some g)) => (operandObject o g).any fun a => s.walkWaits v.vf core a false
              | _ => false then stop .narrow
          else none

/-- SubmitGraph (R74, R75), with the effects of its reads and walks. `busy` is the status of the last row. A wait for the frame of
an operand's region names the header's address (DESIGN CHOICE, log entry 116). -/
def State.submit (s : State) (v : VD) (core addr busy : Nat) : Submitted × List Eff :=
  let vf := v.vf
  match s.snapRead vf core addr 64 with
  | .error (w, va) => (.stop w va, [])
  | .ok (h, es0) =>
    if headerBad addr h then (.deny stDENIED 7, es0)
    else
      match (applyAll es0 s).readNodes vf core (fieldLE h 8 8) (fieldLE h 4 2) with
      | .error (w, va) => (.stop w va, es0)
      | .ok (ns, es1) =>
        let es := es0 ++ es1
        let s := applyAll es s
        let gs := ns.map fun n => n.ops.map fun o => s.operandRegion v core (bits o 11 0)
        match s.checkNodes v core addr h ns busy gs with
        | some r => (r, es)
        | none =>
          let (nodes, es2) := State.snapNodes vf core v (ns.zip (gs.map fun l => l.map fun g => g.toOption.join)) s
          (.accept { id := v.graphId 65 ((v.lastGraph + 1) % 65536), evt := v.keepEvent (fieldLE h 16 8),
                     user := fieldLE h 24 8, nodes := nodes, aborted := false }, es ++ es2)

/-- An accepted graph is live, and its nodes without predecessors are ready. -/
def State.acceptGraph (s : State) (vf : Nat) (g : Graph) : List Eff :=
  let e : Eff := .vd vf fun v => { v with graphs := v.graphs ++ [g], lastGraph := g.id }
  let roots := (g.nodes.zipIdx.filter fun x => x.1.preds == 0).map (·.2)
  s.entering vf (e :: readyAll vf g.id roots (e.apply s))

/-- The result word of GSUB (R76). -/
def submitResult (status reason id : Nat) : Word := BitVec.ofNat 64 (status + reason * 2 ^ 8 + id * 2 ^ 16)

/-- GSUB (R76): the thread's earlier accesses have been performed when it issues; its dirty bytes are written back. -/
def planGsub (d a : SReg) (s : State) : Plan :=
  issuing s fun t x =>
    match s.vdAt t.vf with
    | none => []
    | some v =>
      let es0 := s.release t 3 none
      let s := applyAll es0 s
      let done (w : Word) : List Eff := [.slot t fun x => (x.setS d w).advance (x.after 1)]
      match s.submit v t.core (x.rs a).toNat stBUSY with
      | (.stop .addr _, es) => es0 ++ es ++ done (submitResult stDENIED 7 0)
      | (.stop w va, es) => es0 ++ es ++ (applyAll es s).stallOn t w va 1 .read
      | (.deny st r, es) => es0 ++ es ++ done (submitResult st r 0)
      | (.accept g, es) => es0 ++ es ++ (applyAll es s).acceptGraph t.vf g ++ done (submitResult stOK 0 g.id)

def execGsub (d a : SReg) (s : State) := run (planGsub d a s) s

/-! ### Placement (R79 to R81) -/

/-- A slot that a placed team has reserved. -/
def VD.reserved (v : VD) (off k : Nat) : Bool :=
  v.graphs.any fun g => g.nodes.any fun n =>
    (match n.state with | .placed _ => true | _ => false) && n.place.any fun (o, ks) => o == off && ks.contains k

/-- A core that a gang holds exclusively until it completes. -/
def VD.gangHeld (v : VD) (off : Nat) : Bool :=
  v.graphs.any fun g => g.nodes.any fun n =>
    n.gang && (match n.state with | .placed _ | .running | .draining _ => true | _ => false) &&
      n.place.any fun (o, _) => o == off

/-- The free slots of a core, the lowest first. -/
def VD.freeSlots (v : VD) (off : Nat) : List Nat := (List.range 4).filter fun k => !v.liveOn off k && !v.reserved off k

/-- The slots a node would take on a core. -/
def VD.seats (v : VD) (n : Node) (off : Nat) : Option (List Nat) :=
  let free := v.freeSlots off
  if v.gangHeld off ∨ free.length < n.slots ∨ (n.gang = true ∧ free.length < 4) then none else some (free.take n.slots)

/-- A core that holds a thread of the virtual device. -/
def VD.used (v : VD) (off : Nat) : Bool := (v.freeSlots off).length != 4

/-- The seats of a team on several cores. -/
def VD.seatAll (v : VD) (n : Node) (cores : List Nat) : Option (List (Nat × List Nat)) :=
  cores.mapM fun off => (v.seats n off).map fun ks => (off, ks)

/-- A placement, with what the choice goes by. -/
structure Seat where
  score : Nat
  used : Bool
  at' : List (Nat × List Nat)
deriving DecidableEq, Repr

/-- The better of two placements, the first one being lower. -/
def Seat.before (x y : Seat) : Bool := decide (y.score < x.score) || (x.score == y.score && (!x.used || y.used))

/-- Placements in order of preference; those given are in order of core number. -/
def rankSeats : List Seat → List Seat
  | [] => []
  | x :: rest =>
    let rec into (x : Seat) : List Seat → List Seat
      | [] => [x]
      | y :: ys => if x.before y then x :: y :: ys else y :: into x ys
    into x (rankSeats rest)

/-- The placement of a node by the dispatcher of a die (R81). -/
def State.placement (s : State) (v : VD) (n : Node) (die : Nat) : Option (List (Nat × List Nat)) :=
  let first := atollFirst v.node
  let isles := v.isles.filter fun i => n.wide || i / 16 == die
  let seat (i : Nat) (cores : List Nat) : Option Seat :=
    (v.seatAll n cores).map fun p => ⟨s.score v n i, cores.any v.used, p⟩
  if n.shape = 5 then
    let ok := rankSeats (isles.filterMap fun i => seat i ((List.range 16).map fun k => 16 * i + k - first))
    if ok.length < n.isles then none
    else
      let chosen := ok.take n.isles
      -- ranks follow core numbers
      some ((isles.flatMap fun i => (List.range 16).map fun k => 16 * i + k - first).filterMap fun off =>
        (chosen.flatMap (·.at')).find? fun x => x.1 == off)
  else
    let k := 2 ^ n.shape
    let starts := isles.flatMap fun i => ((List.range (16 / k)).map fun j => 16 * i + k * j).filter fun c =>
      decide (first ≤ c ∧ c + k ≤ first + atollSize v.node)
    (rankSeats (starts.filterMap fun c => seat (c / 16) ((List.range k).map fun j => c + j - first))).head?.map (·.at')

/-- The effective priority (R79). -/
def Node.eff (n : Node) : Nat := n.prio + n.aged

/-- A pooled node with its name. -/
structure Pooled where
  graph : Nat
  idx : Nat
  node : Node
deriving DecidableEq, Repr

/-- One pooled node is considered before another. -/
def Pooled.before (x y : Pooled) : Bool :=
  decide (y.node.eff < x.node.eff ∨ (x.node.eff = y.node.eff ∧ x.node.ready ≤ y.node.ready))

/-- The pooled nodes of a die in the order of R79. -/
def VD.pool (v : VD) (die : Nat) : List Pooled :=
  let l := v.graphs.flatMap fun g => (g.nodes.zipIdx.filter fun x => x.1.state == .pooled die).map fun x =>
    (⟨g.id, x.2, x.1⟩ : Pooled)
  let rec into (x : Pooled) : List Pooled → List Pooled
    | [] => [x]
    | y :: ys => if x.before y then x :: y :: ys else y :: into x ys
  l.foldr into []

/-- A hold of the die's dispatcher stops a node (R80). -/
def VD.stopped (v : VD) (die : Nat) (p : Pooled) : Bool :=
  v.holds.any fun (d, g, i) => d == die && !(g == p.graph && i == p.idx) &&
    match v.nodeAt g i with
    | some h => decide (p.node.eff ≤ h.eff)
    | none => false

/-- A virtual device whose dispatcher places: it has its turn. -/
def VD.dispatches (v : VD) : Bool := v.state == .running && v.turnStart.isSome

/-- The first node of a die's pool that has a placement now. -/
def State.placeable (s : State) (v : VD) (die : Nat) : Option (Pooled × List (Nat × List Nat)) :=
  if v.dispatches && v.dies.contains die then
    (v.pool die).findSome? fun p => if v.stopped die p then none else (s.placement v p.node die).map fun q => (p, q)
  else none

/-- A dispatcher of a die places a node; a hold of that node ends. -/
def planPlace (die : Nat) (s : State) : Plan :=
  match s.vds.findSome? fun (_, v) => (s.placeable v die).map fun r => (v, r) with
  | some (v, p, q) =>
    .ok [.vd v.vf fun v =>
      { v.modNode p.graph p.idx (fun n => { n with state := .placed die, place := q, count := (q.map (·.2.length)).sum }) with
        holds := v.holds.filter fun (_, g, i) => !(g == p.graph && i == p.idx) }]
  | none => .error (.event "NODE_PLACE")

def execNodePlace (die : BitVec 2) (s : State) := run (planPlace die.toNat s) s

/-- Another die's dispatcher takes a node that has waited 20 µs; a hold moves with it (R78, R80). -/
def planSteal (die : Nat) (r : NodeRef) (s : State) : Plan :=
  match (s.vdAt r.vf).bind fun v => (v.nodeAt r.graph r.node).map fun n => (v, n) with
  | some (v, n) =>
    match n.state with
    | .pooled d =>
      when "NODE_STEAL"
        (v.dispatches && v.dies.contains die && d != die && !n.wide && decide (n.ready + micro 20 ≤ s.cycle) &&
          !v.stopped die ⟨r.graph, r.node, n⟩ && (s.placement v n die).isSome)
        [.vd v.vf fun v =>
          { v.modNode r.graph r.node (fun n => { n with state := .pooled die }) with
            holds := v.holds.map fun (e, g, i) => if g = r.graph ∧ i = r.node then (die, g, i) else (e, g, i) }]
    | _ => .error (.event "NODE_STEAL")
  | none => .error (.event "NODE_STEAL")

def execNodeSteal (die : BitVec 2) (n : NodeRef) (s : State) := run (planSteal die.toNat n s) s

/-- A step of effective priority for each 100 µs a node has waited, up to priority 3. -/
def planAging (r : NodeRef) (s : State) : Plan :=
  match (s.vdAt r.vf).bind (·.nodeAt r.graph r.node) with
  | some n =>
    when "PRIORITY_AGING"
      ((match n.state with | .pooled _ => true | _ => false) && decide (n.eff < 3) &&
        decide (n.ready + micro 100 * (n.aged + 1) ≤ s.cycle))
      [.vd r.vf fun v => v.modNode r.graph r.node fun n => { n with aged := n.aged + 1 }]
  | none => .error (.event "PRIORITY_AGING")

def execPriorityAging (n : NodeRef) (s : State) := run (planAging n s) s

/-- The node whose hold begins on a die: the first of its pool, without a placement, after 100 µs (R80). -/
def State.holdNow (s : State) (v : VD) (die : Nat) : Option Pooled :=
  match v.pool die with
  | p :: _ =>
    if v.dispatches = true ∧ p.node.ready + micro 100 ≤ s.cycle ∧ s.placement v p.node die = none ∧
        ¬ (die, p.graph, p.idx) ∈ v.holds then some p else none
  | [] => none

def planHold (die : Nat) (s : State) : Plan :=
  match s.vds.findSome? fun (_, v) => (s.holdNow v die).map fun p => (v, p) with
  | some (v, p) =>
    .ok [.vd v.vf fun w =>
      { w with holds := w.holds ++ (if p.node.wide then v.dies else [die]).map fun d => (d, p.graph, p.idx) }]
  | none => .error (.event "HOLD_BEGIN")

def execHoldBegin (die : BitVec 2) (s : State) := run (planHold die.toNat s) s

/-! ### Launch (R83, R84, Table 4.8) -/

/-- The torus distance from a gang's leader, in cycles (R84). -/
def gangDelay (leader core : Nat) : Nat :=
  let dx := if leader % 4 ≤ core % 4 then core % 4 - leader % 4 else leader % 4 - core % 4
  let y (c : Nat) : Nat := c / 4 % 4
  let dy := if y leader ≤ y core then y core - y leader else y leader - y core
  if leader = core then 0 else 2 + (min dx (4 - dx) + min dy (4 - dy))

/-- A thread starts on a slot (Table 4.8). Its number in the stream goes on. -/
def Slot.launch (x : Slot) (entry args rank size core slot : Nat) (team : TeamRef) : Slot :=
  let w (n : Nat) : Word := BitVec.ofNat 64 n
  let y : Slot := { Slot.idle with
    live := true, pc := w entry, gen := x.gen + 1, rank := BitVec.ofNat 12 rank,
    tsize := BitVec.ofNat 13 size, team := some team, seq := x.seq, born := x.seq, traps := x.traps, bootVec := true }
  ((((y.setS 1 (w args)).setS 2 (w rank)).setS 3 (w size)).setS 4 (w core)).setS 5 (w slot)

/-- The launch acquires on the dies of the team (R77) and, on each core, zeroes tiles and accumulators where no other
thread is live; L1 lines, cached descriptors and fetched words leave. -/
def Core.beforeLaunch (c : Core) (table : Word) : Core :=
  let idle := (List.range 4).all fun k => !(c.slotAt k).live
  { c with
    tiles := if idle then [] else c.tiles
    accs := if idle then [] else c.accs
    l1 := []
    regions := []
    fetched := []
    table := table }

/-- Every thread of a team starts. What its cores' L1 lines hold dirty reaches its homes first. -/
def State.startTeam (s : State) (v : VD) (g i : Nat) (n : Node) : List Eff :=
  let dies := (n.place.map fun x => dieOf (v.coreNo x.1)).eraseDups
  let size := n.ranks.length
  let leader := (n.place.head?.map (·.1)).getD 0
  .vd v.vf (fun v => { v with visitors := v.visitors.filter fun x => !dies.contains x.die }) ::
    n.place.flatMap (fun (off, _) =>
      s.cleanL1 v.vf off (fun _ => true) false ++ [.core v.vf off (·.beforeLaunch v.rgntab)]) ++
    (n.ranks.zipIdx.map fun ((off, k), rank) =>
      Eff.slot ⟨v.vf, off, k⟩ fun x => x.launch n.entry n.args rank size (v.coreNo off) k
        ⟨g, i, n.gang, leader, if n.gang then gangDelay (v.coreNo leader) (v.coreNo off) else 0⟩) ++
    [.vd v.vf fun v => v.modNode g i fun n => { n with state := .running, count := size, faulted := none, away := none }]

/-- No thread starts and the node completes ABORTED. -/
def abortLaunch (vf g i : Nat) : List Eff :=
  [.vd vf fun v => v.modNode g i fun n => { n with state := .draining true, aborted := true, count := 0 }]

/-- A launch waits for a narrow (R12) on the way from the dispatcher to a core of the team or to the home of ARGS, or for an
entry of the transit buffer there (R66). -/
def State.launchHeld (s : State) (v : VD) (die : Nat) (n : Node) : Bool :=
  (n.place.any fun x => s.narrowLost die (dieOf (v.coreNo x.1))) || s.walkFrom v.vf holmCore die n.args false ||
    (s.placeOf ⟨v.vf, holmCore, 0⟩ n.args).any fun p =>
      ((s.dieAt v.vf p).any (s.narrowLost die)) || s.transitFull v.vf p

/-- The launch (R83): the team barrier is written at ARGS through the virtual device's translation, then every thread
starts. R83 names only a fixed-window ARGS; one with bits [63:56] not zero completes ABORTED likewise (DESIGN CHOICE, log
entry 102). -/
def planLaunch (r : NodeRef) (s : State) : Plan :=
  match (s.vdAt r.vf).bind fun v => (v.nodeAt r.graph r.node).map fun n => (v, n) with
  | some (v, n) =>
    match n.state with
    | .placed die =>
      if !v.dispatches || n.faulted.isSome || n.frame.isSome || s.launchHeld v die n then .error (.event "NODE_LAUNCH")
      else if 2 ^ 56 ≤ n.args ∨ inFixedWindow n.args = true then .ok (abortLaunch r.vf r.graph r.node)
      else
        match s.writeVirt ⟨r.vf, holmCore, 0⟩ n.args (leBytes 8 n.ranks.length ++ List.replicate 56 0) true false with
        | .ok es => .ok (es ++ (applyAll es s).startTeam v r.graph r.node n)
        | .error (.fault c, _) => .ok (launchFault r.vf r.graph r.node n c)
        | .error (.frame m, _) =>
          .ok (.vd r.vf (fun v => v.modNode r.graph r.node fun n => { n with frame := some m }) :: s.frameWait r.vf m)
        | .error (.away _, _) =>
          match n.away with
          | none => .ok [.vd r.vf fun v => v.modNode r.graph r.node fun n => { n with away := some s.cycle }]
          | some since => when "NODE_LAUNCH" (decide (since + hubWait ≤ s.cycle)) (launchFault r.vf r.graph r.node n cLINK)
        | .error _ => .ok (abortLaunch r.vf r.graph r.node)
    | _ => .error (.event "NODE_LAUNCH")
  | none => .error (.event "NODE_LAUNCH")

def execNodeLaunch (n : NodeRef) (s : State) := run (planLaunch n s) s

/-! ### Completion (R77, R85, R86) -/

/-- Raising an event: its semaphore, then its notice. -/
def raiseEvent (vf e user status graph idx : Nat) : List Eff :=
  (if bits e 25 18 = 0 then [] else [.core vf (bits e 9 0) (·.addSem (bits e 17 10) (bits e 25 18))]) ++
    if bit e 26 then [postNotice vf status (BitVec.ofNat 64 user) (BitVec.ofNat 64 (graph + idx * 2 ^ 16))] else []

/-- The event of a node, or its graph's with the last node, waits for a narrow on its way from the team's first core (R12). -/
def State.eventHeld (s : State) (v : VD) (g i : Nat) (n : Node) : Bool :=
  let last := (v.graphs.find? (·.id == g)).any fun gr => gr.nodes.zipIdx.all fun (m, k) => k == i || m.state == .done
  let goes (e : Nat) : Bool := bits e 25 18 != 0 &&
    n.place.head?.any fun x => s.narrowLost (dieOf (v.coreNo x.1)) (dieOf (v.coreNo (bits e 9 0)))
  goes n.evt || last && (v.graphs.find? (·.id == g)).any fun gr => goes gr.evt

/-- The thread of a slot's instruction has ended. -/
def Core.outlived (c : Core) (k seq : Nat) : Bool := !(c.slotAt k).live || decide (seq < (c.slotAt k).born)

/-- A store of a node's threads, a matrix operation they have queued, a request of theirs for a grant, or a message of its
cores' sums is on its way. -/
def State.onItsWay (s : State) (vf : Nat) (n : Node) : Bool :=
  let old (off k seq : Nat) : Bool := (s.coreAt vf off).outlived k seq
  (n.place.any fun (off, ks) => (s.coreAt vf off).queue.any fun o => ks.contains o.slot && old off o.slot o.seq) ||
    s.flights.any fun f => f.tid.vf == vf && n.place.any fun (off, ks) => off == f.tid.core &&
      (match f.pk with
        | .partialSum .. => true
        | .access .. | .transit .. | .atomic .. | .route .. | .grant .. => ks.contains f.tid.slot && old off f.tid.slot f.seq
        | _ => false)

/-- The end of a turn (R87, R88): every core with a context is asked to halt; a launch that waits goes back to its pool
(R83). -/
def VD.endTurn (v : VD) (cycle : Nat) : VD :=
  match v.turnStart with
  | none => v
  | some since =>
    { v with
      turnStart := none
      vtime := v.vtime + (cycle - since) * 256 / max 1 v.weight
      busy := v.busy + (cycle - since)
      saving := v.cores.map (·.1)
      graphs := v.graphs.map fun g => { g with nodes := g.nodes.map fun n =>
        match n.state with
        | .placed d => { n with state := .pooled d, place := [], count := 0, faulted := none, frame := none, away := none }
        | _ => n } }

/-- A virtual device with no live thread and nothing in its pools, its nodes all complete. -/
def VD.isIdle (v : VD) : Bool :=
  !v.hasThread && !v.hasPooled && v.graphs.all fun g => g.nodes.all fun n =>
    match n.state with | .running | .draining _ => false | _ => true

/-- A node completes: its successors' counts fall, its event is raised, and with the last node its graph's. -/
def State.finishNode (s : State) (vf g i : Nat) (n : Node) : List Eff :=
  let aborted := n.aborted
  let e : Eff := .vd vf fun v =>
    let v := v.modNode g i fun n => { n with state := .done, place := [] }
    let v := n.succ.foldl (fun v k => v.modNode g k fun m => { m with preds := m.preds - 1 }) v
    { v with
      graphs := v.graphs.map (fun x => if x.id = g then { x with aborted := x.aborted || aborted } else x)
      holds := v.holds.filter fun (_, h, k) => !(h == g && k == i) }
  let s1 := e.apply s
  match (s1.vdAt vf).bind fun v => v.graphs.find? (·.id == g) with
  | none => []
  | some gr =>
    let now := (n.succ.eraseDups).filter fun k => match gr.nodes[k]? with | some m => m.preds == 0 && m.state == .waiting | none => false
    let status (b : Bool) : Nat := if b then stABORTED else stOK
    e :: readyAll vf g now s1 ++ raiseEvent vf n.evt gr.user (status aborted) g i ++
      if gr.nodes.all fun m => m.state == .done then
        raiseEvent vf gr.evt gr.user (status gr.aborted) g 0xFFFF ++
          [.vd vf fun v => { v with graphs := v.graphs.filter (·.id != g), graphsDone := v.graphsDone + 1 }]
      else []

/-- The team counter is zero and the node's stores and sums have reached their homes (R77): it completes. A virtual device
left idle ends its turn (R87). -/
def planComplete (r : NodeRef) (s : State) : Plan :=
  match (s.vdAt r.vf).bind (·.nodeAt r.graph r.node) with
  | some n =>
    match n.state with
    | .draining _ =>
      let clean := n.place.flatMap fun (off, _) => s.cleanL1 r.vf off (fun _ => true) true
      let es := s.entering r.vf (clean ++ (applyAll clean s).finishNode r.vf r.graph r.node n)
      when "NODE_COMPLETE"
        (n.count == 0 && !s.onItsWay r.vf n && !((s.vdAt r.vf).any fun v => s.eventHeld v r.graph r.node n))
        (es ++ match (applyAll es s).vdAt r.vf with
          | some v => if v.isIdle then [.vd r.vf (·.endTurn s.cycle)] else []
          | none => [])
    | _ => .error (.event "NODE_COMPLETE")
  | none => .error (.event "NODE_COMPLETE")

def execNodeComplete (n : NodeRef) (s : State) := run (planComplete n s) s

end Sys2Proof.Machine
end

