-- ==== Sys2Proof/Machine/Turns.lean ====
section
/-! DEFINITION. Time slices (R87, R88), pre-emption, save and resume (R125 to R130), and the windows of the ramp limiter
(R89 to R91). -/

namespace Sys2Proof.Machine

/-! ### Slices (R87) -/

/-- The virtual device that has its turn on an atoll. -/
def State.resident (s : State) (node : Nat) : Option VD := (s.onAtoll node).find? (·.turnStart.isSome)

/-- The turn of an atoll ends: its slice is spent and another virtual device is eligible. -/
def planSlice (node : Nat) (s : State) : Plan :=
  match s.resident node with
  | some v =>
    let spent := match v.turnStart with | some c => decide (c + micro v.sliceUs ≤ s.cycle) | none => false
    when "SLICE_EXPIRY" (spent && (s.onAtoll node).any fun u => u.eligible && u.vf != v.vf)
      [.vd v.vf (·.endTurn s.cycle)]
  | none => .error (.event "SLICE_EXPIRY")

def execSliceExpiry (atoll : Nat) (s : State) := run (planSlice atoll s) s

/-! ### The halt of a core (R88, R125) -/

/-- The packets of an LDF, a VLDF or a FECLR that are dropped when it is abandoned, and what each of them asks for. -/
def abandoned (pk : Packet) : Option Part :=
  match pk with
  | .access a _ | .transit (.access a) _ | .wanting a _ =>
    (match a.op with | .loadFull _ | .setEmpty => some (.access a) | _ => none)
  | .route _ (.access a) _ | .walk (.access a) =>
    (match a.op with | .loadFull _ | .setEmpty => some (.access a) | _ => none)
  | _ => none

/-- The part that a packet on its way performs. -/
def partOf (pk : Packet) : Option Part :=
  match pk with
  | .access a _ => some (.access a)
  | .atomic r _ => some (.atomic r)
  | .transit p _ | .route _ p _ | .walk p => some p
  | _ => none

/-- An access shares a unit with one that an instruction asks of full words. -/
def Flight.behind (f g : Flight) : Bool :=
  g.pk.wants && decide (g.seq < f.seq) && g.tid == f.tid &&
    match (match g.pk with | .wanting a p => some (p, a.size) | pk => pk.span), f.pk.span with
    | some (p, n), some (q, m) => sharesUnit p n q m
    | _, _ => false

/-- A part that its instruction asks for again on resume. -/
def Op.askAgain (o : Op) (p : Part) : Held :=
  { seq := o.seq, va := p.va, cause := 0, frame := 0, kind := p.kind, pc := o.pc, words := o.words,
    part := some p, flight := none, woken := true }

/-- An outstanding operation of a slot is abandoned (R88): its place among waiters is given up (R296, R335), and an LDF, a
VLDF or a FECLR that no fault holds will ask for every word again (R326 to R328). So will the thread's accesses to those words
after it, none of whose stores it must read (R166). It keeps its place in the slot's stream, and a counted arrival stays
counted (R109). -/
def State.abandonOp (s : State) (t : Tid) (o : Op) : List Eff :=
  let fs := s.flights.filter fun f => f.tid == t && f.seq == o.seq && (abandoned f.pk).isSome
  let parts := if (s.slotOf t).held.any (·.seq == o.seq) then fs.filterMap fun f => abandoned f.pk else o.again
  -- an access behind several of them is asked for once
  let after := (s.flights.filter fun f => (abandoned f.pk).isNone && fs.any f.behind &&
      s.flights.all fun g => !f.behind g || decide (o.seq ≤ g.seq)).filterMap fun f =>
    (partOf f.pk).map fun p => (f, p)
  (match o.wait with
    | .token _ => [.vd t.vf (·.dropWaiter t o.seq)]
    | .claim => [.core t.vf t.core fun c => { c with claims := c.claims.filter (·.1 != t.slot) }]
    | _ => []) ++
  if fs = [] then []
  else
    fs.map (fun f => .drop f.id) ++ after.map (fun x => .drop x.1.id) ++
      [.slot t fun x =>
        let x := { x with held := x.held ++ parts.map o.askAgain ++ after.map fun (f, p) =>
          let (pc, words) := x.place f.seq
          ({ o with seq := f.seq, pc := pc, words := words } : Op).askAgain p }
        if parts.length = o.again.length then x.modOp o.seq fun o => { o with left := parts.length } else x]

/-- The accesses of a thread that a barrier wait holds which a fault keeps at its home: they are asked again on resume
(R249). -/
def State.abandonHeld (s : State) (t : Tid) : List Eff :=
  let bars := s.flights.filter fun g => g.tid == t && (s.slotOf t).held.any (·.flight == some g.id) &&
    (match g.pk with | .barrier _ form _ _ => form != 1 | _ => false)
  (s.flights.filter fun f => f.tid == t && bars.any fun g => decide (g.seq < f.seq)).flatMap fun f =>
    match partOf f.pk with
    | some p =>
      let (pc, words) := (s.slotOf t).place f.seq
      [.drop f.id, .slot t fun x => { x with held := x.held ++
        [{ seq := f.seq, va := p.va, cause := 0, frame := 0, kind := p.kind, pc := pc, words := words, part := some p,
           flight := none, woken := true }] }]
    | none => []

def State.abandon (s : State) (t : Tid) : List Eff :=
  let es := (s.slotOf t).ops.flatMap (s.abandonOp t)
  es ++ (applyAll es s).abandonHeld t

/-- A waiting operation issues afresh on resume: its timeout starts again, and it queues again (R88, R107). So does the timeout
of one whose request is held for a fault. -/
def State.restart (s : State) (t : Tid) : List Eff :=
  let fresh (o : Op) : Op :=
    if o.wait = .none ∧ o.deadline = none then o
    else
      { o with
        issued := s.cycle
        since := s.cycle
        deadline := o.deadline.map fun d => s.cycle + (d - o.issued)
        wait := match o.wait with | .token _ => .none | w => w }
  .slot t (fun x => { x with ops := x.ops.map fresh }) ::
    (s.slotOf t).ops.flatMap fun o =>
      match o.wait with
      | .token r => [.send t o.seq 0 (.sync r)]
      | .claim => [.core t.vf t.core fun c => { c with claims := c.claims ++ [(t.slot, o.seq)] }]
      | _ => []

/-- A wait for a semaphore field starts again, and an amount it has taken is returned (R386). -/
def State.unwait (s : State) (t : Tid) : List Eff :=
  (match (s.slotOf t).took with
    | some (q, n) => [.core t.vf t.core fun c => c.setSem q (satAdd (c.sem q) n)]
    | none => []) ++
    [.slot t fun x => { x with semWait := none, lapsed := false, hub := none, took := none, yielded := none }]

/-- Every slot of a core stops at its boundary. -/
def State.stopSlots (s : State) (vf off : Nat) : List Eff :=
  (List.range 4).flatMap fun k => s.abandon ⟨vf, off, k⟩ ++ s.unwait ⟨vf, off, k⟩

/-- A pre-emption request reaches a core: its slots stop and its withheld sums leave for their homes; so do the sums of a
BADD whose grant arrives after that (R125, R209). -/
def planPreempt (vf off : Nat) (s : State) : Plan :=
  match s.vdAt vf with
  | some v =>
    let c := v.coreAt off
    when "PREEMPT_REQUEST" (v.saving.contains off && (!c.halted || c.sums != []))
      (s.stopSlots vf off ++ sumDrains (s.drainTid vf off) c.sums true ++
        [.core vf off fun c => { c with halted := true, sums := [] }])
  | none => .error (.event "PREEMPT_REQUEST")

def execPreemptRequest (vf core : Nat) (s : State) := run (planPreempt vf core s) s

/-! ### The save (Table 6.8) -/

/-- The matrix queue has completed, but for an operation parked on a fault or a frame, or an exchange that waits on a
neighbour (R380). -/
def State.queueRests (s : State) (vf off : Nat) : Bool :=
  match (s.coreAt vf off).queue with
  | [] => true
  | o :: _ => o.fault.isSome || o.frame.isSome || (o.exchange.isSome && !s.exchanged vf off o)

/-- Nothing that a core's threads have sent is on its way, but for what a fault holds at its home, itself or an operation
before it there (R192): accesses and sums have been performed and every result has been written (R101, R125, R126). Messages of the fault slice, forwards of a migration
and landing tiles are no result of the core's. -/
def State.coreRests (s : State) (vf off : Nat) : Bool :=
  s.flights.all fun f => f.tid.vf != vf || f.tid.core != off ||
    (s.slotOf f.tid).held.any (·.flight == some f.id) ||
    (s.front f).any (fun g => (s.slotOf g.tid).held.any (·.flight == some g.id)) ||
    -- what a barrier wait that a fault holds keeps back; the wait itself rests, or is still on its way
    s.barHeld f ||
    (match f.pk with
      | .fault .. | .wake .. | .forward .. | .tile .. => true
      | _ => false)

/-- The copy unit can park a core's jobs: each that runs stands at a delivery boundary, a decoder's at the end of a chunk, and no
CCANCEL waits for one (Table 6.8, R401). -/
def State.jobsRest (s : State) (vf off : Nat) : Bool :=
  (s.isleAt (s.isleNo vf off)).jobs.all fun j =>
    j.vf != vf || j.core != off || j.cancels == [] &&
      match j.state with
      | .running _ => !j.uneven && (j.kind != .cdec || j.release.isNone)
      | _ => true

/-- The core's jobs park where they stand, with their write positions; a decoder's state goes into the save area, and the
decoder is free (Table 6.8, Table 6.9). -/
def parkJobs (vf off : Nat) (u : Isle) : Isle :=
  { u with jobs := u.jobs.map fun j =>
    if j.vf = vf ∧ j.core = off ∧ j.live = true then
      { j with state := .parked, saved := true, away := none, decoder := none } else j }

/-- A result that a fault or a missing frame still keeps out at the save holds its slot when it resumes, so that what
consumes it reads the new value (R101). -/
def Core.stall (c : Core) : Core :=
  { c with slots := c.slots.map fun x =>
      { x with ops := x.ops.map fun o => { o with sync := o.sync || o.wait == .none } } }

/-- The save of a core is complete: dirty L1 lines have been written back and L1 is empty; a wait that began in the
meantime is abandoned as well. -/
def planSave (vf off : Nat) (s : State) : Plan :=
  match s.vdAt vf with
  | some v =>
    let es := s.stopSlots vf off
    let s' := applyAll es s
    when "CONTEXT_SAVE_COMPLETE"
      (v.saving.contains off && (v.coreAt off).halted && (v.coreAt off).sums == [] && s.queueRests vf off &&
        s'.coreRests vf off && s'.jobsRest vf off)
      (es ++ s'.cleanL1 vf off (fun _ => true) false ++
        [.core vf off (fun c => { c.stall with tlb := [], regions := [], fetched := [] }),
         .isle (isleOf (v.coreNo off)) (parkJobs vf off),
         .vd vf fun v => { v with saving := v.saving.filter (· != off) }])
  | none => .error (.event "CONTEXT_SAVE_COMPLETE")

def execContextSaveComplete (vf core : Nat) (s : State) := run (planSave vf core s) s

/-! ### The next turn (R87, R128 to R130) -/

/-- Whose turn is next on an atoll: the eligible virtual device of smallest virtual time, the lower function on a tie. -/
def State.nextTurn (s : State) (node : Nat) : Option VD :=
  let l := (s.onAtoll node).filter (·.eligible)
  l.find? fun v => l.all fun u => decide (v.vtime < u.vtime ∨ (v.vtime = u.vtime ∧ v.vf ≤ u.vf))

/-- The atoll is free: no turn runs on it and no core is still to be saved. -/
def State.atollFree (s : State) (node : Nat) : Bool :=
  (s.onAtoll node).all fun v => v.turnStart.isNone && v.saving == []

/-- L1SIZE at a core's first turn, and at every later one (R63). -/
def restoreL1 (v : VD) (c : Core) : Nat :=
  if v.started then limitL1 v c.l1size else max 1 (7 - bits v.vdlim.toNat 38 36)

/-- A core's context is restored: its L1, sum buffer, TLB, region cache and fetch buffer start empty, an exchange's
timeout starts again, and a scratchpad beyond the grant is cut (R63, R128, R129, R380). -/
def Core.restore (c : Core) (v : VD) (cycle : Nat) : Core :=
  let l1 := restoreL1 v c
  let c := { c with
    halted := false, l1size := l1, sums := [], l1 := [], tlb := [], regions := [], fetched := [],
    table := v.rgntab }
  ({ c with
      sram := c.sram.filter fun (o, _) => decide (o < c.spSize)
      sramFull := c.sramFull.filter fun w => decide (8 * w < c.spSize) } : Core).setHead fun o =>
    { o with exchange := o.exchange.map fun _ => cycle }

/-- The cores that a turn restores: those with a context, and those to which it gives another L1 than the default. Those beyond
an atoll smaller than that of the save hold no thread but one that still releases its tokens (R82). -/
def VD.toRestore (v : VD) : List Nat :=
  ((List.range (atollSize v.node)).filter fun off =>
    (lookup v.cores off).isSome || restoreL1 v Core.zero != Core.zero.l1size) ++
    (v.cores.map (·.1)).filter fun off => decide (atollSize v.node ≤ off)

/-- Saved jobs re-enter their queues with their age; one that still waits stays parked (R128). -/
def unparkJobs (vf : Nat) (u : Isle) : Isle :=
  { u with jobs := u.jobs.map fun j =>
    if j.vf = vf ∧ j.saved = true ∧ j.live = true then
      { j with saved := false, state := if j.faultPage.isNone ∧ j.frame.isNone then .queued else .parked }
    else j }

/-- Held accesses in the order of their instructions. -/
def bySeq : List Held → List Held
  | [] => []
  | h :: rest =>
    let rec into (h : Held) : List Held → List Held
      | [] => [h]
      | k :: ks => if h.seq ≤ k.seq then h :: k :: ks else k :: into h ks
    into h (bySeq rest)

/-- Waits begin afresh, held accesses that were woken while saved are tried again, and refusals are taken (R88, R130). MCLAIMs that
one pre-emption abandoned queue again in the order of their slots (R102; DESIGN CHOICE, log entry 130). -/
def resumeSlots : List Tid → State → List Eff
  | [], _ => []
  | t :: rest, s =>
    let es := s.restart t
    let s1 := applyAll es s
    let es := es ++ s1.retryAll t (bySeq ((s1.slotOf t).held.filter (·.woken)))
    let es := es ++ (applyAll es s).settle t
    es ++ resumeSlots rest (applyAll es s)

/-- The effects of a resume. -/
def State.resumeVd (s : State) (v : VD) : List Eff :=
  let cores := v.toRestore
  let es : List Eff :=
    .vd v.vf (fun v => { v with turnStart := some s.cycle, started := true, visitors := [] }) ::
      cores.map (fun off => .core v.vf off (·.restore v s.cycle)) ++
      v.isles.map fun i => .isle i (unparkJobs v.vf)
  es ++ resumeSlots (cores.flatMap fun off => (List.range 4).map fun k => ⟨v.vf, off, k⟩) (applyAll es s)

def planResume (vf : Nat) (s : State) : Plan :=
  match s.vdAt vf with
  | some v =>
    when "RESUME"
      (v.node != 0 && s.atollFree v.node && (s.nextTurn v.node).map (·.vf) == some vf)
      (s.resumeVd v)
  | none => .error (.event "RESUME")

def execResume (vf : Nat) (s : State) := run (planResume vf s) s

/-! ### The ramp limiter's windows (R89 to R91) -/

/-- Dummy operations that bring S(n) up to its lower bound. -/
def Isle.dummies (x : Isle) : Nat := (x.sPrev - 3400 - x.sNow + 7) / 8

/-- Dummies dealt to matrix units that have run so many array cycles of the window, the lowest core first: each takes as
many as fit into the cycles in which it was idle (R90). -/
def deal : Nat → List Nat → List Nat
  | _, [] => []
  | k, p :: ps =>
    let d := min k ((1700 - p) / 8)
    d :: deal (k - d) ps

/-- The virtual device that has its turn on a core, and the core's offset. -/
def State.residentOn (s : State) (core : Nat) : Option (Nat × Nat) :=
  s.vds.findSome? fun (_, v) => if v.turnStart.isSome then (v.offset? core).map fun off => (v.vf, off) else none

/-- A window of an isle ends: dummies fill it up to its lower bound, and the next begins. -/
def planRamp (isle : Nat) (s : State) : Plan :=
  let x := s.isleAt isle
  let ds := deal x.dummies x.per
  when "RAMP_WINDOW" (decide (isle < 64 ∧ x.window < s.cycle / 1700))
    ((ds.zipIdx.filter fun d => d.1 != 0).flatMap (fun (d, j) =>
      match s.residentOn (16 * isle + j) with
      | some (vf, off) => [Eff.core vf off fun c => { c with rampdummy := c.rampdummy + 8 * d }]
      | none => []) ++
    [.isle isle fun x =>
      { x with sPrev := x.sNow + 8 * ds.sum, sNow := 0, per := List.replicate 16 0
               window := if x.sNow = 0 ∧ x.sPrev = 0 then s.cycle / 1700 else x.window + 1 }])

def execRampWindow (isle : Nat) (s : State) := run (planRamp isle s) s

end Sys2Proof.Machine
end

