-- ==== Sys2Proof/Machine/Holm.lean ====
section
/-! DEFINITION. What the Holm's commands share: handles (R43), the policy's fields (R33), frames (R47, R48), records and
rings (R36 to R40), entering RUNNING and being stopped (R26, R35, R50). -/

namespace Sys2Proof.Machine

/-- The Holm runs: its firmware is verified and nothing has halted it (R24, R30). -/
def State.holmUp (s : State) : Bool := s.module.ready.getLsbD 0 && !s.module.halted

/-- The Holm serves its channels: after the record of a MODULE.RESET it writes no other (R53). -/
def State.holmServes (s : State) : Bool := s.holmUp && s.module.resetDue.isNone

/-- One millisecond and one second in cycles (R18). -/
def milli (n : Nat) : Nat := n * 1700000

/-! ### Handles (R43) -/

/-- The virtual device a handle names. -/
def State.vdOf (s : State) (h : Word) : Option VD := (s.vds.map (·.2)).find? fun v => s.handle v.serial == h

/-- The live atoll a handle names. -/
def State.atollOf (s : State) (h : Word) : Option Nat := (s.module.atolls.find? fun a => s.handle a.2 == h).map (·.1)

/-- The grant a handle names. -/
def State.grantOf (s : State) (h : Word) : Option (VD × Grant) :=
  (s.vds.map (·.2)).findSome? fun v => (v.grants.find? fun g => s.handle g.serial == h).map fun g => (v, g)

/-- The dies of an atoll. -/
def atollDies (node : Nat) : List Nat :=
  (List.range 4).filter fun d => decide (atollFirst node < (d + 1) * 256 ∧ d * 256 < atollFirst node + atollSize node)

/-- A die of an atoll is not ready (R25). -/
def State.dieDown (s : State) (node : Nat) : Bool := (atollDies node).any fun d => !s.module.ready.getLsbD (1 + d)

/-! ### Keys (R31, R47) -/

/-- The public half of the identity key, as a policy's DEVICES names a module. -/
def identityKey : BitVec 512 := Config.sm2Public (Config.identityPrivate Config.deviceSecret)

/-- The alias key of the firmware that runs. -/
def State.aliasKey (s : State) : BitVec 256 := Config.aliasPrivate Config.deviceSecret (Config.sm3 s.module.flash)

/-- The alias certificate: the public half of the alias key, signed by the identity key. -/
def State.aliasCertificate (s : State) : List Byte :=
  let pub := leBytes 64 (Config.sm2Public s.aliasKey).toNat
  pub ++ leBytes 64 (Config.sm2Sign (Config.identityPrivate Config.deviceSecret) pub).toNat

/-- The certificates of the module: Yunasan's of the identity key, and the identity key's of the alias key. -/
def State.certificates (s : State) : List (List Byte) := [Config.certificate identityKey, s.aliasCertificate]

/-- A byte string and the alias key's signature over it. -/
def State.attested (s : State) (b : List Byte) : List Byte := b ++ leBytes 64 (Config.sm2Sign s.aliasKey b).toNat

/-- The frame of a device address. -/
def frameOf (pa : Nat) : Nat := pa / 2 ^ 36 * 2 ^ 15 + pa % 2 ^ 36 / 2 ^ 21

/-- The key identifier that a device address carries, and the key in force under it: 0 is the Holm's and the MP's, and n is
that of the virtual device on virtual function n, whose frame it is (R47). -/
def State.keyAt (s : State) (pa : Nat) : Nat × Option Nat :=
  match (s.vds.map (·.2)).find? fun v => v.saveFrames.contains (frameOf pa) || v.grants.any (·.frames.contains (frameOf pa)) with
  | some v => (v.vf, v.memKey)
  | none => (0, some s.module.boots)

/-- What a memory controller stores of the line of an address (R47): nothing in the module but the controllers sees it. -/
def State.storedLine (s : State) (pa : Nat) : Option (List Byte) :=
  let (id, key) := s.keyAt pa
  key.map fun k => Config.sm4Xts id k (pa / 128) (readBytes s.mem (pa / 128 * 128) 128)

/-! ### The policy (Table 2.2) -/

/-- A field of the installed policy; without a policy every field is 0. -/
def VD.pol (v : VD) (off size : Nat) : Nat := match v.policy with | some b => fieldLE b off size | none => 0

def VD.pauseOk (v : VD) : Bool := bit (v.pol 6 2) 0
def VD.evictOk (v : VD) : Bool := bit (v.pol 6 2) 1
def VD.telemetryLevel (v : VD) : Nat := bits (v.pol 6 2) 3 2
def VD.joinOk (v : VD) : Bool := bit (v.pol 6 2) 4

/-- The lists of a policy: digests of programs, keys of devices, host windows as base, size and permissions. -/
def polProgs (b : List Byte) : List (BitVec 256) :=
  (List.range (fieldLE b 0x53 1)).map fun i => BitVec.ofNat 256 (fieldLE b (0x60 + 32 * i) 32)
def polDevices (b : List Byte) : List (BitVec 512) :=
  (List.range (fieldLE b 0x58 2)).map fun i => BitVec.ofNat 512 (fieldLE b (0x60 + 32 * fieldLE b 0x53 1 + 64 * i) 64)
def polWindowsAt (b : List Byte) : Nat := 0x60 + 32 * fieldLE b 0x53 1 + 64 * fieldLE b 0x58 2
def polWindows (b : List Byte) : List (Nat × Nat × Nat) :=
  (List.range (fieldLE b 0x5A 2)).map fun i =>
    let w := fieldLE b (polWindowsAt b + 16 * i + 8) 8
    (fieldLE b (polWindowsAt b + 16 * i) 8, w / 2 ^ 12 * 2 ^ 12, w % 4)

/-- The bytes that SIG signs. -/
def polSigned (b : List Byte) : Nat := polWindowsAt b + 16 * fieldLE b 0x5A 2

/-- A policy is valid (R33). -/
def polValid (b : List Byte) : Bool :=
  let f := fieldLE b 6 2
  decide (0x60 ≤ b.length) && fieldLE b 0 4 == 0x594E5031 && fieldLE b 4 2 == 1 && decide (bits f 3 2 ≤ 2) && f / 32 == 0 &&
    fieldLE b 8 8 != 0 && decide (fieldLE b 0x51 1 ≤ 8 ∧ fieldLE b 0x50 1 ≤ fieldLE b 0x51 1) &&
    decide (1 ≤ fieldLE b 0x52 1 ∧ fieldLE b 0x52 1 ≤ 3) && decide (fieldLE b 0x53 1 ≤ 32) &&
    (if bit f 0 then decide (1 ≤ fieldLE b 0x54 4 ∧ fieldLE b 0x54 4 ≤ 60000) else fieldLE b 0x54 4 == 0) &&
    decide (fieldLE b 0x58 2 ≤ 8) && decide (fieldLE b 0x5A 2 ≤ 16) && fieldLE b 0x5C 4 == 0 &&
    ((List.range (fieldLE b 0x5A 2)).all fun i => bits (fieldLE b (polWindowsAt b + 16 * i + 8) 8) 11 2 == 0) &&
    b.length == polSigned b + 64

/-- A policy's signature verifies under a key (R33). -/
def polVerifies (key b : List Byte) : Bool :=
  Config.sm2Verifies key (Config.sm3 (b.take (polSigned b))) (BitVec.ofNat 512 (fieldLE b (polSigned b) 64))

/-- The level k of an atoll node of size 4 × 2^k. -/
def atollLevel (node : Nat) : Nat := Nat.log2 (atollSize node / 4)

/-- A host range lies wholly in one window of the policy that has permissions (R42). -/
def VD.windowAllows (v : VD) (a n perm : Nat) : Bool :=
  match v.policy with
  | some b => (polWindows b).any fun (w, size, p) => decide (w ≤ a ∧ a + n ≤ w + size) && perm &&& p == perm
  | none => false

/-! ### Frames (R48) -/

/-- Frames in use. -/
def State.usedFrames (s : State) : List Nat := s.vds.flatMap fun (_, v) => v.grants.flatMap (·.frames) ++ v.saveFrames

/-- The free frames of a stack. -/
def State.freeOn (s : State) (stack : Nat) : List Nat :=
  let used := s.usedFrames.filter fun f => f / 2 ^ 15 == stack
  ((List.range (2 ^ 15)).map (stack * 2 ^ 15 + ·)).filter fun f => !used.contains f

/-- n frames of some stacks. Which of the free frames they are is not the manual's: the choice begins at a free place. -/
def State.pickFrames (s : State) (places : List Nat) (n : Nat) : Option (List Nat) :=
  let l := places.flatMap s.freeOn
  let at' := Config.freeNat s.free % max 1 l.length
  if l.length < n then none else some ((l.drop at' ++ l.take at').take n)

/-- Frames zeroed, every full/empty bit set empty. -/
def State.zeroFrames (s : State) (frames : List Nat) : List Eff :=
  (s.mem.filter fun c => frames.contains (frameOf c.1)).map (fun c => .mem c.1 0) ++
    (s.full.filter fun w => frames.contains (frameOf (8 * w))).map fun w => .full w false

/-- The address of a tenant byte on a grant's frames. -/
def onFrames (frames : List Nat) (first tpa : Nat) : Option Nat :=
  (frames[tpa / 2 ^ 21 - first]?).map fun f => f / 2 ^ 15 * 2 ^ 36 + f % 2 ^ 15 * 2 ^ 21 + tpa % 2 ^ 21

/-! ### Channels (R36 to R38) -/

def Channel.sizeOk (c : Channel) : Bool := decide (4 ≤ c.qsize ∧ c.qsize ≤ 12 ∧ 4 ≤ c.csize ∧ c.csize ≤ 12)

/-- The channel runs. -/
def Channel.runs (c : Channel) : Bool := c.enabled && c.sizeOk

/-- Commands still to be read. -/
def Channel.pending (c : Channel) : Nat := (c.qtail + 2 ^ c.qsize - c.qhead) % 2 ^ c.qsize

/-- Free records of the completion ring: of its 2^CSIZE one is always left. -/
def Channel.room (c : Channel) : Nat := (c.chead + 2 ^ c.csize - 1 - c.ci) % 2 ^ c.csize

/-- The completion index after one record; the phase flips with each pass. -/
def Channel.advance (c : Channel) : Channel :=
  { c with ci := (c.ci + 1) % 2 ^ c.csize, phase := if (c.ci + 1) % 2 ^ c.csize = 0 then !c.phase else c.phase }

/-- The entry at QHEAD has been read. -/
def Channel.take (c : Channel) : Channel := { c with qhead := (c.qhead + 1) % 2 ^ c.qsize, idle := false }

/-- Byte i of a record replaced. -/
def setByte (r : List Byte) (i : Nat) (b : Byte) : List Byte := spliceBytes r i [b]

/-- A record of the control channel is written at CI. -/
def State.writeControl (s : State) (r : List Byte) : List Eff :=
  let c := s.module.control
  hostEffs (c.cbase + 32 * c.ci) (setByte r 6 (if c.phase then 1 else 0)) ++
    [.module fun m => { m with control := m.control.advance }]

/-- A function's MSI-X vector 0 (R37). -/
def raiseIrq (fn : Nat) : Eff := .module fun m => { m with irqs := m.irqs ++ [fn] }

/-- A response leaves a responder or the MP. -/
def reply (b : List Byte) : Eff := .module fun m => { m with replies := m.replies ++ [b] }

/-- The MP tells the masters: 1 a function has failed (its READY bit), 2 ownership has been vacated, 3 a narrow has failed
(the pair of its dies). -/
def tell (code arg : Nat) : Eff := .module fun m => { m with events := m.events ++ [(code, arg)] }

/-- The session's key for records (R40); of a virtual device that has had no session, a key made of the number 0 (DESIGN CHOICE,
log entry 126). -/
def VD.recordKey (v : VD) : List Byte := leBytes 8 (v.session.getD 0) ++ [1]

/-- The session's key for entries (R40), with the same choice. -/
def VD.entryKey (v : VD) : List Byte := leBytes 8 (v.session.getD 0) ++ [0]

/-- A list of exactly n bytes. -/
def exactly (n : Nat) (l : List Byte) : List Byte := (l ++ List.replicate n 0).take n

/-- A tenant's 64-byte record: SEQ in clear, the 32-byte record and its tag sealed, the phase bit. -/
def VD.record (v : VD) (seq : Nat) (r : List Byte) : List Byte :=
  leBytes 8 seq ++ exactly 48 (Config.sealText v.recordKey seq r) ++ [if v.channel.phase then 1 else 0] ++ zeroBytes 7

/-- It is written at CI. -/
def VD.recordEffs (v : VD) (seq : Nat) (r : List Byte) : List Eff :=
  hostEffs (v.channel.cbase + 64 * v.channel.ci) (v.record seq (setByte r 6 (if v.channel.phase then 1 else 0)))

def VD.writeRecord (v : VD) (seq : Nat) (r : List Byte) : List Eff :=
  v.recordEffs seq r ++ [.vd v.vf fun v => { v with channel := v.channel.advance }]

/-! ### The states of a virtual device (R35, Table 2.3) -/

def VdState.code : VdState → Nat
  | .created => 0
  | .locked => 1
  | .running => 2
  | .paused => 3
  | .evicted => 4
  | .failed => 5

/-- The TDISP state that goes with each: CONFIG_UNLOCKED 0, CONFIG_LOCKED 1, RUN 2, ERROR 3. -/
def VdState.tdisp : VdState → Nat
  | .created => 0
  | .locked | .evicted => 1
  | .running | .paused => 2
  | .failed => 3

def VD.enter (v : VD) (x : VdState) : VD := { v with state := x, tdisp := x.tdisp }

/-- A virtual device enters RUNNING: the reclaim notices are posted (R48), and it may become eligible. -/
def State.toRunning (s : State) (v : VD) : List Eff :=
  s.entering v.vf (.vd v.vf (fun v => { v.enter .running with paused := none, reclaimed := [] }) ::
    v.reclaimed.map fun (first, n) =>
      postNotice v.vf stOK (BitVec.ofNat 64 first) (BitVec.ofNat 64 (n + 0xFFFD * 2 ^ 16)))

/-- Every live job of a virtual device ends ABORTED, without a signal (R402). -/
def abortJobs (vf : Nat) (u : Isle) : Isle :=
  ((u.jobs.filter fun j => j.vf == vf && j.live).map (·.key)).foldl (fun u k => u.finish k stABORTED) u

/-- Every thread stops without a save, jobs end, graphs are discarded, and nothing of the virtual device stays in flight
(R26, R50). Its contexts are those of a core's first turn (R129). A transfer in progress waits for no frame any more: its next
look at the state ends it (R50). -/
def State.stopVd (s : State) (v : VD) : List Eff :=
  (s.flights.filter fun f => f.tid.vf == v.vf).map (fun f => .drop f.id) ++
    (s.isles.map fun (i, _) => Eff.isle i (abortJobs v.vf)) ++
    [.vd v.vf fun v =>
      { v.endTurn s.cycle with
        saving := [], graphs := [], holds := [], faults := [], frameWaits := [], waiters := [], visitors := [], sums := [],
        cores := [], joins := [], paused := none
        transfer := v.transfer.map fun t => { t with frame := none, away := none } }]

/-- It becomes FAILED: its tenant sees a device reset (R26, R35). -/
def State.failVd (s : State) (v : VD) : List Eff := s.stopVd v ++ [.vd v.vf (·.enter .failed)]

/-- Virtual devices fail one after another. -/
def failAll : List VD → State → List Eff
  | [], _ => []
  | v :: rest, s => s.failVd v ++ failAll rest (applyAll (s.failVd v) s)

/-! ### Records of commands -/

/-- The outcome of a control command: STATUS, REASON, two results and what it does. -/
structure Answer where
  status : Nat
  reason : Nat := 0
  r0 : Word := 0
  r1 : Word := 0
  effs : List Eff := []

def deny (reason : Nat) : Answer := { status := stDENIED, reason := reason }
def badHandle : Answer := { status := stBADH, reason := 7 }
def okWith (es : List Eff) (r0 r1 : Word := 0) : Answer := { status := stOK, r0 := r0, r1 := r1, effs := es }

/-- A control command completes: its record goes to the ring, or back over MCTP (R37, R53). -/
def State.completeControl (s : State) (a : Answer) : List Eff :=
  let r := completion s.cmd.tag.toNat a.status a.reason a.r0 a.r1
  a.effs ++
    (if s.cmd.oob then [reply r]
    else
      (applyAll a.effs s).writeControl r ++ if s.cmd.flags.getLsbD 0 then [raiseIrq 0] else []) ++
    [.module fun m => { m with control := { m.control with idle := true }, serving := 0 }]

/-- A control command that has been read runs when the Holm does and its record has room. -/
def State.controlReady (s : State) : Bool :=
  s.holmServes && s.module.serving != 0 &&
    (s.cmd.oob || (s.module.control.sizeOk && decide (0 < s.module.control.room)))

def controlling (mnemonic : String) (s : State) (f : Cmd → Answer) : Plan :=
  when mnemonic s.controlReady (s.completeControl (f s.cmd))

/-- The issuing master owns management (R52, R53). -/
def State.ownerOk (s : State) : Bool := s.module.holder == if s.cmd.oob then 2 else 1

/-- A tenant command completes. The transfer that an eviction interrupted keeps its place meanwhile (R46, Table 2.10). -/
def VD.completeTenant (v : VD) (c : TCmd) (status reason : Nat) (r0 r1 : Word) : List Eff :=
  v.writeRecord c.seq.toNat (completion c.tag.toNat status reason r0 r1) ++
    (if c.flags.getLsbD 0 then [raiseIrq v.vf] else []) ++
    [.vd v.vf fun v =>
      { v with
        transfer := if v.state = .evicted then v.transfer else none
        channel := { v.channel with idle := true } }]

/-- An accepted tenant command: its channel's record has room, and it is checked against the state first (R40, R50). A
paused virtual device's ring is not read. -/
def tenanting (mnemonic : String) (s : State) (f : VD → TCmd → List Eff) : Plan :=
  match s.vdAt s.tcmd.vf with
  | some v =>
    when mnemonic (s.holmServes && !v.channel.idle && v.state != .paused && v.channel.sizeOk && decide (0 < v.channel.room))
      (if v.state ≠ .running then v.completeTenant s.tcmd stDENIED 1 0 0
      else if s.tcmd.flags.toNat / 2 ≠ 0 then v.completeTenant s.tcmd stDENIED 7 0 0
      else f v s.tcmd)
  | none => .error (.event mnemonic)

end Sys2Proof.Machine
end

