-- ==== Sys2Proof/Machine/Module.lean ====
section
/-! DEFINITION. The module outside its virtual devices: boot and recovery (R28 to R30), readiness (R24 to R26), links
(R12, R13), heat and power (R22, R23), module reset (R53) and the ownership of management (R52). -/

namespace Sys2Proof.Machine

/-! ### Functions that fail (R25, R26) -/

/-- The READY bits that fall with one: a bit's dependents are set only while it is (R25). -/
def fallsWith (b : Nat) : List Nat :=
  if b = 0 then List.range 50
  else if b ≤ 4 then
    b :: (List.range 3).map (fun k => 5 + 3 * (b - 1) + k) ++ (List.range 4).map fun k => 34 + 4 * (b - 1) + k
  else [b]

/-- READY with some bits cleared. -/
def clearBits (r : BitVec 64) (l : List Nat) : BitVec 64 := l.foldl (fun r b => r &&& ~~~(1#64 <<< b)) r

/-- A frame lies on one of some stacks. -/
def onStacks (l : List Nat) (frame : Nat) : Bool := l.contains (frame / 2 ^ 15)

/-- A virtual device stands on a die or a stack that fails. -/
def VD.standsOn (v : VD) (dies sts : List Nat) : Bool :=
  (v.node != 0 && (atollDies v.node).any dies.contains) ||
    (v.grants.flatMap (·.frames) ++ v.saveFrames).any (onStacks sts)

/-- Frames on failed stacks are withdrawn. -/
def VD.withdraw (v : VD) (sts : List Nat) : VD :=
  { v with
    grants := v.grants.map fun g => { g with frames := g.frames.map fun f => if onStacks sts f then frameCount else f }
    saveFrames := v.saveFrames.filter fun f => !onStacks sts f }

/-- Functions fail: their bits and the bits that depend on them fall, the MP raises an event for each, the virtual devices
that stand on them become FAILED, and frames are withdrawn. -/
def State.fall (s : State) (l : List Nat) : List Eff :=
  let down := ((l.flatMap fallsWith).eraseDups).filter s.module.ready.getLsbD
  let dies := (down.filter fun b => decide (1 ≤ b ∧ b ≤ 4)).map (· - 1)
  let sts := (down.filter fun b => decide (5 ≤ b ∧ b ≤ 16)).map (· - 5)
  let hit := (s.vds.map (·.2)).filter fun v => v.state != .failed && v.standsOn dies sts
  [.module fun m => { m with ready := clearBits m.ready down }] ++ down.map (tell 1) ++ failAll hit s ++
    s.vds.map fun (vf, _) => .vd vf (·.withdraw sts)

/-- The Holm halts: HOLM falls, and with it every other bit (R30). -/
def State.haltHolm (s : State) : List Eff := s.fall [0] ++ [.module fun m => { m with halted := true }]

/-! ### Boot (R28, R29) -/

/-- An image's signature verifies and its security version is not below the fused count. -/
def State.bootable (s : State) (image : List Byte) : Bool :=
  Config.sm2Verifies Config.fusedKey (Config.sm3 image) (Config.imageSignature image) &&
    decide (s.fused ≤ Config.imageVersion image)

/-- A verified image starts: fuse bits are blown up to its version, and HOLM is ready. -/
def startImage (image : List Byte) : List Eff :=
  [.fuse (min 64 (Config.imageVersion image)),
   .module fun m =>
    { m with flash := image, image := [], booted := true, recovery := false, ready := m.ready ||| 1, boots := m.boots + 1 }]

/-- The module comes up as at power-on: what flash, the fuses and the world outside hold stays. -/
def Module.powerOn (m : Module) (serial : Nat) : Module :=
  { Module.zero with
    flash := m.flash, boots := m.boots, log := m.log, temp := m.temp, measured := m.measured, replies := m.replies
    events := m.events, irqs := m.irqs, passed := m.passed, atolls := [(1, serial)] }

/-- Every virtual device, job and packet is lost, and the module is as at power-on (R53), its COUNT at 0 (R287). -/
def State.powerCycle (s : State) : List Eff :=
  s.flights.map (fun f => .drop f.id) ++ s.vds.map (fun (vf, _) => .dropVd vf) ++
    s.isles.map (fun (i, _) => Eff.isle i fun _ => Isle.zero) ++
    [.module (·.powerOn s.serials), .serial 1, .clock]

/-- Power-on: after a shutdown or a halt of the Holm it is a new power-on. -/
def planBoot (s : State) : Plan :=
  let es := if s.module.halted then s.powerCycle else []
  let s' := applyAll es s
  when "POWER_ON_BOOT" (!s'.module.booted && !s'.module.recovery)
    (es ++ if s'.bootable s'.module.flash then startImage s'.module.flash
      else [.module fun m => { m with recovery := true }])

def execPowerOnBoot (s : State) := run (planBoot s) s

/-- A master owns management. -/
def State.owns (s : State) (oob : Bool) : Bool := s.module.holder == if oob then 2 else 1

/-- Eight bytes written at an offset of the recovery window; any other write has no effect. -/
def planRecoveryWrite (oob : Bool) (off : BitVec 20) (value : Word) (s : State) : Plan :=
  .ok (if s.module.recovery && s.owns oob then
    [.module fun m =>
      { m with image := (spliceBytes (m.image ++ zeroBytes (off.toNat + 8 - m.image.length)) off.toNat
                  (leBytes 8 value.toNat)).take (2 ^ 20) }]
  else [])

def execRecoveryWindowWrite (oob : Bool) (off : BitVec 20) (value : Word) (s : State) :=
  run (planRecoveryWrite oob off value s) s

/-- R28 applied to the written image: one that passes goes to the flash slot and starts. -/
def planRecoveryCheck (s : State) : Plan :=
  when "RECOVERY_IMAGE_CHECK" s.module.recovery
    (if s.bootable s.module.image then startImage s.module.image else [])

def execRecoveryImageCheck (s : State) := run (planRecoveryCheck s) s

/-! ### Errors of the Holm (R30) -/

/-- The self-check, every 10 ms. -/
def planSelfCheck (passed : Bool) (s : State) : Plan :=
  when "HOLM_SELF_CHECK" (s.holmUp && decide (s.module.checkedAt + milli 10 ≤ s.cycle))
    (.module (fun m => { m with checkedAt := s.cycle }) :: if passed then [] else s.haltHolm)

def execHolmSelfCheck (passed : Bool) (s : State) := run (planSelfCheck passed s) s

def planHolmError (s : State) : Plan := when "HOLM_UNCORRECTABLE_ERROR" s.holmUp s.haltHolm

def execHolmUncorrectableError (s : State) := run (planHolmError s) s

/-- A module reset that was ordered takes effect, within 1 ms (R53). -/
def planModuleReset (s : State) : Plan :=
  when "MODULE_RESET_TAKES_EFFECT" s.module.resetDue.isSome s.powerCycle

def execModuleResetTakesEffect (s : State) := run (planModuleReset s) s

/-! ### Readiness (R24 to R26) -/

/-- The host link has trained in FLIT mode at ×16 or ×8 (R13). -/
def linkWidth (lanes : Nat) (flit : Bool) : Bool := flit && (lanes == 16 || lanes == 8)

/-- What a function's bring-up needs (R25). -/
def State.canReady (s : State) (b : Nat) : Bool :=
  s.holmUp && !s.module.ready.getLsbD b &&
    (if b = 0 ∨ 49 < b then false
    else if b ≤ 4 then true
    else if b ≤ 16 then s.module.ready.getLsbD (1 + (b - 5) / 3)
    else if b = 17 then linkWidth s.module.hostLanes s.module.hostFlit
    else if b ≤ 33 then s.module.dev.isSome && s.module.route != []
    else s.module.ready.getLsbD (1 + (b - 34) / 4))

/-- A function has come up: a stack has been scrubbed, a die's narrows have trained. -/
def State.comesUp (s : State) (b : Nat) : List Eff :=
  (if 5 ≤ b ∧ b ≤ 16 then
    (s.mem.filter fun c => c.1 / 2 ^ 36 == b - 5).map (fun c => .mem c.1 0) ++
      (s.full.filter fun w => 8 * w / 2 ^ 36 == b - 5).map fun w => .full w false
  else []) ++
  [.module fun m =>
    { m with
      ready := m.ready ||| (1#64 <<< b)
      narrows := if 1 ≤ b ∧ b ≤ 4 then
          m.narrows.map fun n => if n.i + 1 = b ∨ n.j + 1 = b then { n with up := true } else n
        else m.narrows }]

def planReady (bit : BitVec 6) (s : State) : Plan := when "FUNCTION_READY" (s.canReady bit.toNat) (s.comesUp bit.toNat)

def execFunctionReady (bit : BitVec 6) (s : State) := run (planReady bit s) s

def planFailure (bit : BitVec 6) (s : State) : Plan :=
  when "FUNCTION_FAILURE" (decide (bit.toNat ≤ 49) && s.module.ready.getLsbD bit.toNat)
    (if bit = 0 then s.haltHolm else s.fall [bit.toNat])

def execFunctionFailure (bit : BitVec 6) (s : State) := run (planFailure bit s) s

/-! ### Narrows and the host link (R12, R13) -/

/-- The narrow that joins two dies. -/
def Narrow.joins (n : Narrow) (i j : BitVec 2) : Bool :=
  (n.i == i.toNat && n.j == j.toNat) || (n.i == j.toNat && n.j == i.toNat)

def State.narrow (s : State) (i j : BitVec 2) : Option Narrow := s.module.narrows.find? (·.joins i j)

def modNarrow (i j : BitVec 2) (g : Narrow → Narrow) : Eff :=
  .module fun m => { m with narrows := m.narrows.map fun n => if n.joins i j then g n else n }

def planNarrowLoss (i j : BitVec 2) (s : State) : Plan :=
  match s.narrow i j with
  | some n => when "NARROW_TRAINING_LOSS" n.up [modNarrow i j fun n => { n with up := false, since := s.cycle }]
  | none => .error (.event "NARROW_TRAINING_LOSS")

def execNarrowTrainingLoss (i j : BitVec 2) (s : State) := run (planNarrowLoss i j s) s

/-- Retraining takes at most 100 µs. -/
def planNarrowBack (i j : BitVec 2) (s : State) : Plan :=
  match s.narrow i j with
  | some n =>
    when "NARROW_RETRAIN_COMPLETE" (!n.up && decide (s.cycle ≤ n.since + micro 100))
      [modNarrow i j fun n => { n with up := true }]
  | none => .error (.event "NARROW_RETRAIN_COMPLETE")

def execNarrowRetrainComplete (i j : BitVec 2) (s : State) := run (planNarrowBack i j s) s

def planNarrowFailure (i j : BitVec 2) (s : State) : Plan :=
  match s.narrow i j with
  | some n =>
    when "NARROW_RETRAIN_FAILURE" (!n.up)
      (s.fall [1 + i.toNat, 1 + j.toNat] ++ [tell 3 (4 * min i.toNat j.toNat + max i.toNat j.toNat)])
  | none => .error (.event "NARROW_RETRAIN_FAILURE")

def execNarrowRetrainFailure (i j : BitVec 2) (s : State) := run (planNarrowFailure i j s) s

def planHostLink (lanes : Nat) (flit : Bool) (s : State) : Plan :=
  when "HOST_LINK_TRAINING" (s.holmUp && linkWidth lanes flit)
    [.module fun m => { m with hostLanes := lanes, hostFlit := flit, ready := m.ready ||| (1#64 <<< 17) }]

def execHostLinkTraining (lanes : Nat) (flit : Bool) (s : State) := run (planHostLink lanes flit s) s

/-! ### Heat and power (R22, R23) -/

/-- A reading of a die's sensors, in tenths of a degree. -/
def planSensor (die : BitVec 2) (tenths : Nat) (s : State) : Plan :=
  .ok [.module fun m =>
    { m with
      temp := m.temp.set die.toNat tenths
      hotSince := match m.hotSince with
        | some c => some c
        | none => if 1150 ≤ tenths then some s.cycle else none }]

def execThermalSensorRead (die : BitVec 2) (tenths : Nat) (s : State) := run (planSensor die tenths s) s

/-- A die's thermal ceiling after one step: lower above 105 °C, higher below 100 °C, otherwise held. -/
def thermalStep (ceiling tenths : Nat) : Nat :=
  if 1050 < tenths then max 1 (ceiling - 1) else if tenths < 1000 then min 8 (ceiling + 1) else ceiling

/-- The thermal step of each 100 µs, which looks at the reading last taken of the ten in it (log entry 97). -/
def planThermal (s : State) : Plan :=
  when "THERMAL_STEP" (decide (s.module.thermalAt + micro 100 ≤ s.cycle))
    [.module fun m =>
      { m with thermalCeil := List.zipWith thermalStep m.thermalCeil m.temp, thermalAt := s.cycle }]

def execThermalStep (s : State) := run (planThermal s) s

/-- A junction at 115 °C or above shuts the module down; the Holm records it. -/
def planShutdown (s : State) : Plan :=
  when "THERMAL_SHUTDOWN" (s.module.hotSince.isSome && !s.module.halted)
    (s.haltHolm ++ [.module fun m => { m with log := m.log ++ [s.cycle], hotSince := none }])

def execThermalShutdown (s : State) := run (planShutdown s) s

/-- The ceiling under a cap after one measurement. -/
def powerStep (cap : Option Nat) (ceiling watts : Nat) : Nat :=
  match cap with
  | some c => if c < watts then max 1 (ceiling - 1) else if watts < c then min 8 (ceiling + 1) else ceiling
  | none => 8

/-- The power measurement of each 100 µs. -/
def planPower (watts : Nat) (s : State) : Plan :=
  when "POWER_MEASUREMENT" (decide (s.module.powerAt + micro 100 ≤ s.cycle))
    [.module fun m =>
      { m with measured := watts, powerCeil := powerStep m.powerCap m.powerCeil watts, powerAt := s.cycle }]

def execPowerMeasurement (watts : Nat) (s : State) := run (planPower watts s) s

/-! ### Ownership (R52). The in-band master is 1, the out-of-band master 2 -/

/-- One second in cycles. -/
def second : Nat := milli 1000

/-- The owner's heartbeat; a gap of more than a second has vacated ownership. -/
def Module.beat (m : Module) (who cycle : Nat) : Module :=
  if m.holder = who ∧ cycle ≤ m.heartbeatAt + second then { m with heartbeatAt := cycle } else m

/-- A claim wins when nobody owns management. -/
def Module.claim (m : Module) (who cycle : Nat) : Module :=
  if m.holder = 0 then { m with holder := who, heartbeatAt := cycle, pending := false } else m

/-- The owner offers ownership to the other master. -/
def Module.offer (m : Module) (who cycle : Nat) : Module :=
  if m.holder = who then { m with pending := true, offered := 3 - who, offerAt := cycle } else m

/-- The other master accepts within a second. -/
def Module.accept (m : Module) (who cycle : Nat) : Module :=
  if m.pending = true ∧ m.offered = who ∧ cycle ≤ m.offerAt + second then
    { m with holder := who, pending := false, heartbeatAt := cycle }
  else m

def execHeartbeat (s : State) := run (.ok [.module (·.beat 1 s.cycle)]) s
def execOwnerClaim (s : State) := run (.ok [.module (·.claim 1 s.cycle)]) s
def execOwnerHandover (s : State) := run (.ok [.module (·.offer 1 s.cycle)]) s
def execOwnerAccept (s : State) := run (.ok [.module (·.accept 1 s.cycle)]) s
def execMctpClaim (s : State) := run (.ok [.module (·.claim 2 s.cycle)]) s
def execMctpHeartbeat (s : State) := run (.ok [.module (·.beat 2 s.cycle)]) s
def execMctpHandover (s : State) := run (.ok [.module (·.offer 2 s.cycle)]) s
def execMctpAccept (s : State) := run (.ok [.module (·.accept 2 s.cycle)]) s

/-- A gap of more than a second vacates ownership, and the MP tells both masters. -/
def planGap (s : State) : Plan :=
  when "HEARTBEAT_GAP_EXPIRY" (s.module.holder != 0 && decide (s.module.heartbeatAt + second < s.cycle))
    [.module fun m => { m with holder := 0, pending := false }, tell 2 1, tell 2 2]

def execHeartbeatGapExpiry (s : State) := run (planGap s) s

/-- An offer that nobody accepts lapses. -/
def planLapse (s : State) : Plan :=
  when "HANDOVER_TIMEOUT" (s.module.pending && decide (s.module.offerAt + second < s.cycle))
    [.module fun m => { m with pending := false }]

def execHandoverTimeout (s : State) := run (planLapse s) s

/-- The commands an MCTP message may carry (R53). -/
def ownerCode (c : Nat) : Bool := c == 0x0E || c == 0x10 || c == 0x11 || c == 0x12

/-- A control entry over MCTP: placed behind the control commands that have arrived, or refused. -/
def planMctp (entry : BitVec 512) (s : State) : Plan :=
  let c := s.module.control
  when "MCTP_COMMAND" s.holmServes
    (if ownerCode (bits entry.toNat 15 0) then
      [.module fun m => { m with oob := m.oob ++ [(if c.runs then c.pending else 0, entry)] }]
    else [reply (completion (bits entry.toNat 63 32) stDENIED 7 0 0)])

def execMctpCommand (entry : BitVec 512) (s : State) := run (planMctp entry s) s

end Sys2Proof.Machine
end

