-- ==== Sys2Proof/Machine/Commands.lean ====
section
/-! DEFINITION. The hypervisor's commands on the control channel (Table 2.7, R41) and the registers of the channels
(R36, R38). Checks run in R41's order: handles, owner, ranges, then the cases of the table. -/

namespace Sys2Proof.Machine

/-! ### Channel registers (R36, R38); function 0 holds the control channel -/

/-- Nothing is left to end ABORTED. -/
def VD.settledAborts (v : VD) : VD := if v.transfer = none ∧ v.aborting = some 0 then { v with aborting := none } else v

/-- The commands a ring holds, while it may be read (R38). -/
def Channel.held (c : Channel) : Nat := if c.runs then c.pending else 0

/-- Of the commands still to end ABORTED those are left that the ring still holds. -/
def VD.capAborts (v : VD) (left : Nat) : VD := { v with aborting := v.aborting.map (min left) }.settledAborts

/-- What is left of the destroyed virtual device of a function; of several, of the one destroyed first. -/
def State.ghostOf (s : State) (fn : Nat) : Option VD := s.module.ghosts.find? (·.vf == fn)

/-- The destroyed virtual devices of a function, each with as many of its commands as the ring still holds behind those of the
one before, and how many are left behind them. One with none is gone. -/
def capGhosts (fn : Nat) : Nat → List VD → List VD × Nat
  | left, [] => ([], left)
  | left, w :: rest =>
    let mine := w.capAborts left
    let (l, k) := capGhosts fn (if w.vf = fn then left - mine.aborting.getD 0 else left) rest
    (if w.vf ≠ fn then w :: l else if mine.aborting = none then l else mine :: l, k)

/-- The first of a function's destroyed virtual devices changed. -/
def modGhost (fn : Nat) (g : VD → VD) : List VD → List VD
  | [] => []
  | w :: rest => if w.vf = fn then g w :: rest else w :: modGhost fn g rest

/-- A channel that a virtual device takes over: its notices and the command it has in progress are its own. -/
def VD.takeChannel (v : VD) (c : Channel) : VD := { v with channel := { c with notices := v.channel.notices, idle := v.channel.idle } }

/-- The destroyed virtual devices of a function after a step, with its channel, which is that of the one destroyed first whose
commands have not all ended. Once none is left, it is that of the virtual device since made on the function (log entry 60). -/
def State.setGhosts (s : State) (fn : Nat) (c : Channel) (ws : List VD) : List Eff :=
  let (l, left) := capGhosts fn c.held ws
  [.module fun m => { m with ghosts := modGhost fn (·.takeChannel c) l }] ++
    if (s.vdAt fn).isSome then
      [.vd fn fun v => (if l.any (·.vf == fn) then v else v.takeChannel c).capAborts left]
    else []

/-- A function's channel changed: while commands of a destroyed virtual device are left in its ring, it is theirs. A function
on which no virtual device is or was has none. -/
def State.onChannel (s : State) (fn : Nat) (g : Channel → Channel) : List Eff :=
  if fn = 0 then [.module fun m => { m with control := g m.control }]
  else
    match s.ghostOf fn with
    | some w => s.setGhosts fn (g w.channel) s.module.ghosts
    | none => [.vd fn fun v => { v with channel := g v.channel }.capAborts (g v.channel).held]

/-- A function's channel. -/
def State.channelOf (s : State) (fn : Nat) : Channel :=
  if fn = 0 then s.module.control
  else
    match s.ghostOf fn, s.vdAt fn with
    | some v, _ => v.channel
    | none, some v => v.channel
    | none, none => Channel.zero

/-- What a read of a channel register gives (Table 2.4). -/
def Channel.readReg (c : Channel) (off : Nat) : Nat :=
  match off with
  | 0x1000 => c.qbase
  | 0x1008 => c.qsize
  | 0x1010 => c.qtail
  | 0x1018 => c.qhead
  | 0x1020 => c.cbase
  | 0x1028 => c.csize
  | 0x1030 => c.chead
  | 0x1038 => (if c.enabled then 1 else 0) + if c.idle then 2 else 0
  | _ => 0

/-- OWNER as it reads (Table 2.9): CLAIM, HANDOVER and ACCEPT are write only and read as zero, as reserved bits do (R6). -/
def Module.owner (m : Module) : Nat := m.holder % 4 + if m.pending then 32 else 0

/-- What the host reads from a register of a function's BAR 0 (R6, R24, R36, R52). HEARTBEAT and the recovery window, whose
access codes the spec does not give, read as 0 (DESIGN CHOICE, log entry 119). -/
def State.hostRead (s : State) (fn off : Nat) : Nat :=
  if fn = 0 ∧ off = 0x40 then s.module.ready.toNat
  else if fn = 0 ∧ off = 0x1040 then s.module.owner
  else (s.channelOf fn).readReg off

def execQtailDoorbell (fn : Nat) (value : Word) (s : State) :=
  run (.ok (s.onChannel fn fun c => { c with qtail := value.toNat % 2 ^ 16 % 2 ^ c.qsize })) s

def execCheadWrite (fn : Nat) (value : Word) (s : State) :=
  run (.ok (s.onChannel fn fun c => { c with chead := value.toNat % 2 ^ 16 % 2 ^ c.csize })) s

def Channel.enable (c : Channel) : Channel :=
  if c.enabled then c
  else { c with enabled := true, qhead := 0, qtail := 0, chead := 0, ci := 0, phase := true }

def execChannelEnable (fn : Nat) (s : State) := run (.ok (s.onChannel fn Channel.enable)) s

def execChannelDisable (fn : Nat) (s : State) := run (.ok (s.onChannel fn fun c => { c with enabled := false })) s

/-- A register without behaviour of its own; ignored while ENABLE is 1. -/
def Channel.writeReg (c : Channel) (off value : Nat) : Channel :=
  if c.enabled then c
  else if off = 0x1000 then { c with qbase := value / 4096 * 4096 }
  else if off = 0x1008 then { c with qsize := value % 16 }
  else if off = 0x1020 then { c with cbase := value / 4096 * 4096 }
  else if off = 0x1028 then { c with csize := value % 16 }
  else c

def execChannelRegisterWrite (fn : Nat) (off : BitVec 16) (value : Word) (s : State) :=
  run (.ok (s.onChannel fn (·.writeReg off.toNat value.toNat))) s

/-! ### Commands in two phases -/

/-- A command that waits for cores: what it does first, when it goes on, and how it ends. -/
def staging (mnemonic : String) (s : State) (start : Except Answer (List Eff)) (ready : State → Bool)
    (finish : State → Answer) : Plan :=
  if s.module.serving = 2 then when mnemonic (s.controlReady && ready s) (s.completeControl (finish s))
  else
    match start with
    | .error a => when mnemonic s.controlReady (s.completeControl a)
    | .ok es =>
      let es := es ++ [.module fun m => { m with serving := 2 }]
      let s' := applyAll es s
      when mnemonic s.controlReady (if ready s' then es ++ s'.completeControl (finish s') else es)

/-- A command that names a virtual device. -/
def State.onVd (s : State) (h : Word) (f : VD → Answer) : Answer :=
  match s.vdOf h with
  | some v => f v
  | none => badHandle

/-! ### Creation and the end (R41, R50, R127) -/

/-- VDLIM after VD.CREATE (Table 3.2). -/
def vdlimReset : Word := 0xFFFF + 16#64 <<< 16 + 16#64 <<< 21 + 16#64 <<< 26 + 16#64 <<< 31 + 6#64 <<< 36

/-- A virtual device just created: its first graph will be 1 (log entry 100). -/
def VD.fresh (vf node serial key : Nat) (save : List Nat) : VD where
  vf := vf
  node := node
  state := .created
  tdisp := 0
  serial := serial
  policy := none
  boundKey := []
  policyCounter := 0
  session := none
  seqNo := 1
  noticeNo := 1
  evictions := 0
  image := none
  memKey := some key
  approval := none
  grants := []
  saveFrames := save
  reclaimed := []
  entries := []
  windows := []
  digests := []
  vdlim := vdlimReset
  remask := none
  sliceUs := 1000
  weight := 16
  vtime := 0
  busy := 0
  turnStart := none
  started := false
  graphsDone := 0
  paused := none
  transfer := none
  aborting := none
  pager := 0
  rgntab := 0
  faults := []
  frameWaits := []
  joins := []
  graphs := []
  lastGraph := 0
  holds := []
  shards := []
  wins := []
  sums := []
  waiters := []
  visitors := []
  arrived := []
  hubs := []
  cores := []
  saving := []
  channel := Channel.zero

/-- Frames of a save area: 1 MiB for each core (R127). -/
def saveCount (node : Nat) : Nat := (atollSize node + 1) / 2

/-- The stacks that are ready. -/
def State.stacksReady (s : State) : List Nat := (List.range 12).filter fun n => s.module.ready.getLsbD (5 + n)

def planCreate (s : State) : Plan :=
  controlling "VD_CREATE" s fun c =>
    match s.atollOf c.p0 with
    | none => badHandle
    | some node =>
      let vf := c.p1.toNat
      if vf = 0 ∨ 256 < vf then deny 7
      else if (s.vdAt vf).isSome then deny 4
      else if 8 ≤ (s.onAtoll node).length then deny 4
      else
        match s.pickFrames s.stacksReady (saveCount node) with
        | none => deny 4
        | some fs =>
          if s.dieDown node then deny 3
          else
            okWith (s.zeroFrames fs ++
                [.newVd (VD.fresh vf node s.serials (s.free + 1) fs), .serial 1, .draw 2])
              (s.handle s.serials)

def execVdCreate (s : State) := run (planCreate s) s

/-- The record of a command that ends ABORTED. -/
def VD.abortedRecord (v : VD) (seq tag : Nat) (irq : Bool) : List Eff :=
  v.recordEffs seq (completion tag stABORTED 0 0 0) ++ if irq then [raiseIrq v.vf] else []

/-- One command ends ABORTED where its record has room: the one in progress, then those of the ring. The TAG of an entry that
does not open is not known. -/
def State.abortStep (s : State) (v : VD) : Option (List Eff × VD) :=
  if v.channel.room = 0 then none
  else
    match v.transfer, v.aborting with
    | some t, _ =>
      some (v.abortedRecord t.cmd.seq.toNat t.cmd.tag.toNat (t.cmd.flags.getLsbD 0),
        { v with transfer := none, channel := { v.channel.advance with idle := true } })
    | none, some (n + 1) =>
      if !v.channel.runs then none else
      let b := readBytes s.host (v.channel.qbase + 128 * v.channel.qhead) 128
      let seq := fieldLE b 0 8
      let (tag, flags) := match Config.openText v.entryKey seq ((b.drop 8).take 80) with
        | some t => (fieldLE t 4 4, fieldLE t 2 2)
        | none => (Config.freeNat s.free % 2 ^ 32, 0)
      some (.draw 1 :: v.abortedRecord seq tag (bit flags 0),
        { v with aborting := some n, channel := { v.channel.take.advance with idle := true } })
    | none, _ => none

/-- As many as there is room for. An entry of the ring is read only while ENABLE is 1 (R38). -/
def State.abortSome (s : State) (v : VD) : Nat → List Eff × VD
  | 0 => ([], v)
  | n + 1 =>
    match s.abortStep v with
    | some (es, w) =>
      let (es', w') := State.abortSome (applyAll es s) w n
      (es ++ es', w')
    | none => ([], v)

/-- The command in progress and the queued ones end ABORTED (R50); those whose records find no room wait for it (R37), and all
of them wait for those of virtual devices destroyed before on the function (log entry 60). -/
def State.abortTenant (s : State) (v : VD) : List Eff × VD :=
  match s.ghostOf v.vf with
  | some w =>
    ([], { v with aborting := some (capGhosts v.vf w.channel.held s.module.ghosts).2 }.settledAborts)
  | none =>
    let n := v.channel.held
    let (es, w) := s.abortSome { v with aborting := some n } (n + 1)
    (es, w.settledAborts)

/-- What is left of a destroyed virtual device: its channel and its session's keys. -/
def VD.ghost (v : VD) : VD := { v with memKey := none, grants := [], saveFrames := [], node := 0 }

/-- A virtual device leaves an isle's copy unit altogether. -/
def Isle.forget (u : Isle) (vf : Nat) : Isle :=
  { u with jobs := u.jobs.filter (·.vf != vf), ended := u.ended.filter fun k => k / 65536 != vf }

def State.forgetJobs (s : State) (vf : Nat) : List Eff := s.isles.map fun (i, _) => .isle i (·.forget vf)

/-- VD.DESTROY: the queued commands end ABORTED, the key is gone, and the frames are free (R48, R50). -/
def State.destroyVd (s : State) (v : VD) : List Eff :=
  let es := s.stopVd v
  let (ab, w) := (applyAll es s).abortTenant v
  es ++ ab ++ s.forgetJobs v.vf ++
    .dropVd v.vf :: if w.aborting = none then [] else [.module fun m => { m with ghosts := m.ghosts ++ [w.ghost] }]

def planDestroy (s : State) : Plan :=
  controlling "VD_DESTROY" s fun c => s.onVd c.p0 fun v => okWith (s.destroyVd v)

def execVdDestroy (s : State) := run (planDestroy s) s

/-- VD.RESET (R41, R50, R129): the sums its cores withhold go home (R209), threads stop, jobs are
cancelled, queued commands end ABORTED, the same frames are zeroed under a new key, entry ranges go, and the virtual device is BOUND. -/
def State.resetVd (s : State) (v : VD) : List Eff :=
  let sums := s.settleSums v
  let es := sums ++ (applyAll sums s).stopVd v
  let (ab, w) := (applyAll es s).abortTenant v
  let es := es ++ ab
  let s' := applyAll es s
  es ++ s'.zeroFrames (v.grants.flatMap (·.frames) ++ v.saveFrames) ++
    [.draw 1, .vd v.vf fun v =>
      { v.enter .locked with
        transfer := w.transfer, aborting := w.aborting, channel := w.channel
        memKey := some s'.free, entries := [], digests := [], shards := [], wins := [], pager := 0, rgntab := 0 }]

/-- When VD.RESET is denied, and why. -/
def State.resetDenied (s : State) (v : VD) : Option Nat :=
  if v.state = .created ∨ v.state = .evicted then some 1 else if s.dieDown v.node then some 3 else none

def planVdReset (s : State) : Plan :=
  controlling "VD_RESET" s fun c => s.onVd c.p0 fun v =>
    match s.resetDenied v with
    | some r => deny r
    | none => okWith (s.resetVd v)

def execVdReset (s : State) := run (planVdReset s) s

/-! ### Pause and resume (R44) -/

/-- Dispatch stops, and every core is asked to halt. -/
def VD.stopTurn (v : VD) (cycle : Nat) : VD := (v.endTurn cycle).enter .paused

/-- The virtual device of the command has no core to save. -/
def savedAll (h : Word) (s : State) : Bool := match s.vdOf h with | some v => v.saving == [] | none => true

/-- VD.PAUSE (R44). Where the virtual device leaves PAUSED before every core is saved (PAUSEMAX, a reset, a failure), it answers
DENIED 1 (DESIGN CHOICE, log entry 68). -/
def planPause (s : State) : Plan :=
  let h := s.cmd.p0
  staging "VD_PAUSE" s
    (match s.vdOf h with
      | none => .error badHandle
      | some v =>
        if v.state ≠ .running then .error (deny 1)
        else if !v.pauseOk then .error (deny 2)
        else .ok [.vd v.vf fun v => { v.stopTurn s.cycle with paused := some s.cycle }])
    (savedAll h)
    fun s => s.onVd h fun v => if v.state = .paused then okWith [] else deny 1

def execVdPause (s : State) := run (planPause s) s

def planVdResume (s : State) : Plan :=
  controlling "VD_RESUME" s fun c => s.onVd c.p0 fun v =>
    if v.state ≠ .paused then deny 1 else okWith (s.toRunning v)

def execVdResume (s : State) := run (planVdResume s) s

/-! ### Eviction (R45) -/

/-- The keys that DEVICES of the policy lists. -/
def VD.devices (v : VD) : List (BitVec 512) := match v.policy with | some b => polDevices b | none => []

/-- The length of an eviction image. -/
def VD.imageLen (v : VD) : Nat :=
  match v.image with
  | some g => g.length
  | none => Config.imageLength (atollSize v.node) (v.grants.map (·.frames.length)).sum v.devices.length

/-- What is sealed: the granted frames by tenant address, the live jobs, and the grants' ranges. -/
def State.sealVd (s : State) (v : VD) : Sealed where
  serial := v.serial
  counter := v.evictions + 1
  length := v.imageLen
  key := s.free
  devices := v.devices
  serials := v.grants.map fun g => (g.serial, g.first, g.frames.length)
  cells := s.mem.filterMap fun c => (tenantOf v.grants c.1).map fun tpa => (tpa, c.2)
  full := s.full.filterMap fun w => (tenantOf v.grants (8 * w)).map (· / 8)
  jobs := s.isles.flatMap fun (_, u) => u.jobs.filter fun j => j.vf == v.vf && j.live

/-- The clear header: serial, counter, length, and the image key wrapped under the Holm's sealing key and for each of the
DEVICES. -/
def Sealed.header (g : Sealed) : List Byte :=
  Config.imageHeader g.serial g.counter g.length
    (Config.wrapSealed g.key :: g.devices.map fun d => Config.sm2Encrypt d g.key)

/-- The bytes of an image: its header, then the ciphertext of its chunks, the header's digest as additional data. -/
def Sealed.bytes (g : Sealed) : List Byte :=
  (g.header ++ (List.range g.length).map fun i => Config.imageByte g.key (Config.sm3 g.header) i).take g.length

/-- No packet of a virtual device is on its way, but messages of its faults, which may wait at the slice (R119), and packets
that a fault holds. -/
def State.vdQuiet (s : State) (vf : Nat) : Bool :=
  s.flights.all fun f => f.tid.vf != vf || (s.slotOf f.tid).held.any (·.flight == some f.id) ||
    (match f.pk with | .fault .. => true | _ => false)

/-- The isles that faults name for jobs, at the slice (R130). -/
def VD.faultIsles (v : VD) (g : Nat → Nat) : List SliceFault :=
  v.faults.map fun x => { x with jobs := x.jobs.map fun (i, k) => (g i, k % 65536 + 65536 * v.vf) }

/-- And in the messages on their way there. -/
def State.messageIsles (s : State) (vf : Nat) (g : Nat → Nat) : List Eff :=
  s.flights.flatMap fun f =>
    match f.pk with
    | .fault page va cause kind true isle job none =>
      if f.tid.vf = vf then [.drop f.id, .send f.tid f.seq 0 (.fault page va cause kind true (g isle) job none)] else []
    | _ => []

/-- The image goes to host memory; the memory key is destroyed, the atoll and the frames are released and joins end (R45,
R48, R54). The channel is free for entries to be denied; an interrupted transfer keeps its place, and faults name isles by
their place in the atoll. -/
def State.evictVd (s : State) (v : VD) (addr : Nat) : List Eff :=
  let g := s.sealVd v
  let first := isleOf (atollFirst v.node)
  hostEffs addr g.bytes ++ s.forgetJobs v.vf ++ s.messageIsles v.vf (· - first) ++
    [.draw 1, .vd v.vf fun v =>
      { v.enter .evicted with
        image := some g, evictions := v.evictions + 1, memKey := none, grants := [], saveFrames := [], node := 0
        visitors := [], joins := [], paused := none, faults := v.faultIsles (· - first)
        transfer := v.transfer.map fun t => { t with frame := none, away := none }
        channel := { v.channel with idle := true } }]

/-- VD.EVICT (R45), with the same answer where the virtual device leaves PAUSED before it is written (DESIGN CHOICE, log
entry 68). -/
def planEvict (s : State) : Plan :=
  let h := s.cmd.p0
  let addr := s.cmd.p1.toNat
  staging "VD_EVICT" s
    (match s.vdOf h with
      | none => .error badHandle
      | some v =>
        if addr % 4096 ≠ 0 then .error (deny 7)
        else if v.state ≠ .running ∧ v.state ≠ .paused then .error (deny 1)
        else if !v.evictOk then .error (deny 2)
        else if s.cmd.p2.toNat < v.imageLen then .error (deny 4)
        else .ok [.vd v.vf fun v => { v.stopTurn s.cycle with paused := none }])
    (fun s => savedAll h s && match s.vdOf h with | some v => v.state != .paused || s.vdQuiet v.vf | none => true)
    fun s => s.onVd h fun v =>
      if v.state = .paused then okWith (s.evictVd v addr) (BitVec.ofNat 64 v.imageLen) else deny 1

def execVdEvict (s : State) := run (planEvict s) s

/-! ### Restore (R46, R82) -/

/-- An image sealed by another module: its header, the keys that its image key is wrapped for, and, where every chunk
authenticates under that key, the virtual device within and what the frames hold. -/
structure Foreign where
  header : List Byte
  devices : List (BitVec 512)
  body : Option (VD × Sealed)
deriving DecidableEq, Repr

/-- What the bytes of an image are to this module, with the threads within named under a virtual function; none where the
header is none (R46: the manual gives no layout; log entry 9). -/
opaque foreignImage : (vf : Nat) → List Byte → Option Foreign

/-- Frames dealt to the ranges of an image's grants. -/
def dealFrames : List (Nat × Nat × Nat) → List Nat → List Grant
  | [], _ => []
  | (serial, first, n) :: rest, fs => ⟨serial, first, fs.take n⟩ :: dealFrames rest (fs.drop n)

/-- A node's team fits the atoll, where its threads stand. -/
def VD.fits (v : VD) (n : Node) : Bool :=
  let size := atollSize v.node
  decide ((if n.shape = 5 then 16 * n.isles else 2 ^ n.shape) ≤ size) && (decide (n.shape < 4) || decide (16 ≤ size)) &&
    n.place.all fun p => decide (p.1 < size)

/-- A thread whose node has no place on the atoll any more ends at once (R82): what its accesses and matrix operations wait for
is given up; only its tokens are still released. -/
def State.quitThread (s : State) (t : Tid) : List Eff :=
  let keeps (h : Held) : Bool :=
    match h.flight.bind s.flightAt with
    | some f => (match f.pk with | .sync r => r.halt | _ => false)
    | none => false
  let es : List Eff :=
    ((s.slotOf t).held.filter fun h => !keeps h).flatMap (fun h => h.flight.toList.map Eff.drop) ++
      [.slot t (fun x => ({ x with held := x.held.filter keeps } : Slot).count),
       .core t.vf t.core fun c => { c with queue := c.queue.filter (·.slot != t.slot) }]
  let x := s.slotOf t
  es ++ if x.halting.isSome && !x.dying then finishHalt (applyAll es s) t else endThread (applyAll es s) t true

/-- The threads of a node end, one after another; a slot may have gone on to another node's. -/
def endTeam (vf g i : Nat) : List (Nat × Nat) → State → List Eff
  | [], _ => []
  | (off, k) :: rest, s =>
    let x := s.slotOf ⟨vf, off, k⟩
    let es := if x.live && x.team.any (fun r => r.graph == g && r.node == i) then s.quitThread ⟨vf, off, k⟩ else []
    es ++ endTeam vf g i rest (applyAll es s)

/-- A live node without a place on the new atoll completes ABORTED (R82). -/
def abortUnfit (vf : Nat) : List (Nat × Nat) → State → List Eff
  | [], _ => []
  | (g, i) :: rest, s =>
    let es : List Eff :=
      match (s.vdAt vf).bind fun v => (v.nodeAt g i).map fun n => (v, n) with
      | some (v, n) =>
        if v.fits n then []
        else
          match n.state with
          | .done => []
          | .running =>
            let e : Eff := .vd vf fun v => v.modNode g i fun n => { n with aborted := true }
            e :: endTeam vf g i n.ranks (e.apply s)
          | .draining _ =>
            .vd vf (fun v => v.modNode g i fun n => { n with state := .draining true, aborted := true }) ::
              n.place.map fun (off, ks) => .core vf off fun c =>
                { c with queue := c.queue.filter fun o => !(ks.contains o.slot && c.outlived o.slot o.seq) }
          | _ => abortLaunch vf g i
      | none => []
    es ++ abortUnfit vf rest (applyAll es s)

/-- The live nodes of a virtual device, by graph and index. -/
def VD.nodeNames (v : VD) : List (Nat × Nat) := v.graphs.flatMap fun g => (List.range g.nodes.length).map fun i => (g.id, i)

/-- A pooled node stays in its die's pool (R78). One whose die the new atoll does not have, and a wide team, which is the
lowest-numbered die's, enter a pool anew, one after another, with their ready time. -/
def repool (vf : Nat) : List (Nat × Nat) → State → List Eff
  | [], _ => []
  | (g, i) :: rest, s =>
    let es : List Eff :=
      match (s.vdAt vf).bind fun v => (v.nodeAt g i).map fun n => (v, n) with
      | some (v, n) =>
        (match n.state with
          | .pooled d =>
            if v.dies.contains d && !n.wide then []
            else [.vd vf fun w => w.modNode g i fun n => { n with state := .pooled (s.poolDie v n) }]
          | _ => [])
      | none => []
    es ++ repool vf rest (applyAll es s)

/-- Contents go back to fresh frames, jobs to their isles' units, holds are void, and the virtual device is RUNNING. -/
def State.restoreOn (s : State) (v : VD) (g : Sealed) (frames : List Nat) : List Eff :=
  let first := isleOf (atollFirst v.node)
  let es := s.zeroFrames frames ++ s.messageIsles v.vf (· + first) ++
    [.newVd { v with
        holds := [], faults := v.faultIsles (· + first), channel := { v.channel with idle := v.transfer.isNone } }] ++
    (g.cells.filterMap fun c => (v.stage2 c.1).map fun pa => Eff.mem pa c.2) ++
    (g.full.filterMap fun w => (v.stage2 (8 * w)).map fun pa => Eff.full (pa / 8) true) ++
    (g.jobs.filter fun j => decide (j.core < atollSize v.node)).map fun j =>
      Eff.isle (isleOf (v.coreNo j.core)) fun u => { u with jobs := u.jobs ++ [{ j with vf := v.vf }] }
  let s1 := applyAll es s
  let es2 := repool v.vf v.nodeNames s1
  let s2 := applyAll es2 s1
  let es3 := s2.toRunning v
  es ++ es2 ++ es3 ++ abortUnfit v.vf v.nodeNames (applyAll es3 s2)

/-- The image that authenticates for a virtual device, with the contexts and the policy it holds, or the reason against it
(R46). Of an image from elsewhere the channel, its session, telemetry and what this module's hypervisor has set stay those of
the virtual device it is restored to. -/
def State.opened (s : State) (v : VD) (bytes : List Byte) : Except Nat (VD × Sealed) :=
  if v.state = .evicted then
    match v.image with
    | some g => if bytes.take g.length = g.bytes ∧ g.counter = v.evictions then .ok (v, g) else .error 5
    | none => .error 5
  else
    match foreignImage v.vf bytes with
    | none => .error 5
    | some f =>
      if !f.devices.contains identityKey then .error 2
      else
        match f.body, v.approval with
        | some (w, held), some (digest, sig) =>
          if digest = Config.sm3 f.header ∧ Config.sm2Verifies w.boundKey digest sig = true then
            .ok ({ w with
              vf := v.vf, serial := v.serial, session := v.session, seqNo := v.seqNo, noticeNo := v.noticeNo
              evictions := v.evictions, busy := v.busy, graphsDone := v.graphsDone, channel := v.channel
              vdlim := v.vdlim, sliceUs := v.sliceUs, weight := v.weight, vtime := v.vtime
              transfer := w.transfer.map fun t => { t with cmd := { t.cmd with vf := v.vf }, frame := none, away := none }
              turnStart := none, saving := [], joins := [], visitors := [], aborting := none },
              { held with serials := held.serials.zipIdx.map fun ((_, first, n), i) => (s.serials + i, first, n) })
          else .error 5
        | _, _ => .error 5

def planRestore (s : State) : Plan :=
  controlling "VD_RESTORE" s fun c =>
    match s.vdOf c.p0, s.atollOf c.p1 with
    | some v, some node =>
      if v.state ≠ .evicted ∧ v.state ≠ .created then deny 1
      else
        match s.opened v (readBytes s.host c.p2.toNat c.p3.toNat) with
        | .error r => deny r
        | .ok (w, g) =>
          if atollLevel node < w.pol 0x50 1 ∨ w.pol 0x51 1 < atollLevel node then deny 2
          else
            -- frames and a seat that a CREATED virtual device holds are given back first
            let e : Eff := .vd v.vf fun v => { v with grants := [], saveFrames := [], node := 0 }
            let s' := e.apply s
            let save := saveCount node
            if 8 ≤ (s'.onAtoll node).length ∨ s.dieDown node = true then deny 4
            else
              match s'.pickFrames s.stacksReady (save + (g.serials.map (·.2.2)).sum) with
              | none => deny 4
              | some fs =>
                let w := { w with
                  node := node, grants := dealFrames g.serials (fs.drop save), saveFrames := fs.take save
                  evictions := v.evictions + 1, image := none, approval := none, memKey := some (s.free + 1) }
                okWith (e :: .draw 2 :: .serial g.serials.length :: s'.restoreOn w g fs)
    | _, _ => badHandle

def execVdRestore (s : State) := run (planRestore s) s

/-! ### Frames (R48) -/

/-- Waits for granted frames end, one after another (R49). -/
def frameEnds (vf : Nat) : List Nat → State → List Eff
  | [], _ => []
  | n :: rest, s =>
    match s.vdAt vf with
    | some v => let es := s.frameEnd v n false; es ++ frameEnds vf rest (applyAll es s)
    | none => []

def planFrameGrant (s : State) : Plan :=
  controlling "FRAME_GRANT" s fun c => s.onVd c.p0 fun v =>
    let first := c.p1.toNat
    let n := c.p2.toNat
    let mask := c.p3.toNat
    let places := (List.range 12).filter (bit mask)
    if n = 0 ∨ 4096 < n ∨ 4096 ≤ mask then deny 7
    else if v.state = .evicted ∨ v.state = .failed then deny 1
    else if places.any fun k => !s.stacksReady.contains k then deny 3
    else
      match s.pickFrames places n with
      | none => deny 4
      | some fs =>
        if v.grants.any fun g => decide (first < g.first + g.frames.length ∧ g.first < first + n) then deny 7
        else
          let es := s.zeroFrames fs ++
            [.vd v.vf (fun v => { v.zeroed (first * 2 ^ 21) (n * 2 ^ 21) with
                grants := v.grants ++ [(⟨s.serials, first, fs⟩ : Grant)] }), .serial 1, .draw 1]
          let waits := (v.frameWaits.map (·.1)).filter fun k => decide (first ≤ k ∧ k < first + n)
          okWith (es ++ frameEnds v.vf waits (applyAll es s)) (s.handle s.serials)

def execFrameGrant (s : State) := run (planFrameGrant s) s

/-- A grant's frames leave: no translation and no cached line of them stays. -/
def VD.reclaim (v : VD) (g : Grant) : VD :=
  { v with
    grants := v.grants.filter (·.serial != g.serial)
    visitors := v.visitors.filter fun x => !g.frames.contains (frameOf (128 * x.line))
    reclaimed := v.reclaimed ++ [(g.first, g.frames.length)] }

def planReclaim (s : State) : Plan :=
  controlling "FRAME_RECLAIM" s fun c =>
    match s.grantOf c.p0 with
    | none => badHandle
    | some (v, g) => if v.state = .running then deny 1 else okWith [.vd v.vf (·.reclaim g)]

def execFrameReclaim (s : State) := run (planReclaim s) s

/-! ### Slices, atolls and ways (R57, R58, R60, R61, R65, R87) -/

/-- SLICE.SET (R58, R87). It takes effect at once: the whole of a turn that runs is measured against the new slice and counted with
the new weight (DESIGN CHOICE, log entry 127). -/
def planSliceSet (s : State) : Plan :=
  controlling "SLICE_SET" s fun c => s.onVd c.p0 fun v =>
    let slice := c.p1.toNat
    let weight := c.p2.toNat
    if slice < 50 ∨ 10000 < slice ∨ weight < 1 ∨ 255 < weight then deny 7
    else if v.state = .evicted then deny 1
    else okWith [.vd v.vf fun v => { v with sliceUs := slice, weight := weight }]

def execSliceSet (s : State) := run (planSliceSet s) s

def planSplit (s : State) : Plan :=
  controlling "ATOLL_SPLIT" s fun c =>
    match s.atollOf c.p0 with
    | none => badHandle
    | some n =>
      if 256 ≤ n then deny 7
      else if s.onAtoll n ≠ [] then deny 1
      else if s.dieDown n then deny 3
      else
        okWith [.module (fun m =>
            { m with atolls := put (put (erase m.atolls n) (2 * n) s.serials) (2 * n + 1) (s.serials + 1) }), .serial 2]
          (s.handle s.serials) (s.handle (s.serials + 1))

def execAtollSplit (s : State) := run (planSplit s) s

def planMerge (s : State) : Plan :=
  controlling "ATOLL_MERGE" s fun c =>
    match s.atollOf c.p0, s.atollOf c.p1 with
    | some a, some b =>
      if a / 2 ≠ b / 2 ∨ a = b ∨ a = 1 then deny 7
      else if s.onAtoll a ≠ [] ∨ s.onAtoll b ≠ [] then deny 1
      else
        okWith [.module (fun m => { m with atolls := put (erase (erase m.atolls a) b) (a / 2) s.serials }), .serial 1]
          (s.handle s.serials)
    | _, _ => badHandle

def execAtollMerge (s : State) := run (planMerge s) s

/-- The value WAYS.SET stores, from P1 and P2 (R60). -/
def vdlimOf (p1 p2 : Word) : Nat := p1.toNat + p2.toNat * 2 ^ 16

/-- R61. -/
def vdlimBad (p1 p2 : Word) : Bool :=
  let x := vdlimOf p1 p2
  let pop := popNat 16 (bits x 15 0)
  decide (2 ^ 16 ≤ p1.toNat) || decide (2 ^ 39 ≤ x) || decide (pop < bits x 20 16) || decide (pop < bits x 25 21) ||
    decide (pop < bits x 30 26) || decide (pop < bits x 35 31) || decide (bits x 38 36 < 4) || decide (7 < bits x 38 36)

/-- The new VDLIM takes effect at once, or, when ways leave a RUNNING or PAUSED virtual device, once every slice has
remasked: until then its map, window and bounded-sum operations are held (R65). -/
def planWays (s : State) : Plan :=
  let h := s.cmd.p0
  let x := vdlimOf s.cmd.p1 s.cmd.p2
  let set (v : VD) : List Eff := [.vd v.vf fun v => { v with vdlim := BitVec.ofNat 64 x, remask := none }]
  if s.module.serving = 2 then .error (.event "WAYS_SET")
  else
    match s.vdOf h with
    | none => controlling "WAYS_SET" s fun _ => badHandle
    | some v =>
      if vdlimBad s.cmd.p1 s.cmd.p2 then controlling "WAYS_SET" s fun _ => deny 7
      else if (v.state = .running ∨ v.state = .paused) ∧ bits v.vdlim.toNat 15 0 &&& (65535 - bits x 15 0) ≠ 0 then
        when "WAYS_SET" s.controlReady
          [.vd v.vf (fun v => { v with remask := some (BitVec.ofNat 64 x) }), .module fun m => { m with serving := 2 }]
      else controlling "WAYS_SET" s fun _ => okWith (set v)

def execWaysSet (s : State) := run (planWays s) s

/-- Every slice has flushed the removed ways and remasked: what the virtual device held there, its visitor lines among it, is
gone (R65). -/
def planWaysDone (vf : Nat) (s : State) : Plan :=
  match s.vdAt vf with
  | some v =>
    match v.remask with
    | some x =>
      when "WAYS_SET_COMPLETE" (s.controlReady && s.module.serving == 2)
        (s.completeControl (okWith [.vd vf fun v =>
          { v with vdlim := x, remask := none, visitors := v.visitors.filter fun l => bit x.toNat l.way }]))
    | none => .error (.event "WAYS_SET_COMPLETE")
  | none => .error (.event "WAYS_SET_COMPLETE")

def execWaysSetComplete (vf : Nat) (s : State) := run (planWaysDone vf s) s

/-! ### The module's commands (R23, R53) -/

def owning (s : State) (f : Cmd → Answer) (c : Cmd) : Answer := if s.ownerOk then f c else deny 8

def planPowerCap (s : State) : Plan :=
  controlling "POWER_CAP" s (owning s fun c =>
    let w := c.p0.toNat
    if w < 800 ∨ 2000 < w then deny 7 else okWith [.module fun m => { m with powerCap := some w }])

def execPowerCap (s : State) := run (planPowerCap s) s

def planDomain (s : State) : Plan :=
  controlling "DOMAIN_SET" s (owning s fun c =>
    if 31 < c.p0.toNat then deny 7
    else if bits s.module.ready.toNat 33 18 ≠ 0 then deny 1
    else okWith [.module fun m => { m with dev := some c.p0.toNat }])

def execDomainSet (s : State) := run (planDomain s) s

/-- A byte of a route table names a strait or none. -/
def straitByte (b : Nat) : Bool := decide (b < 16) || b == 255

/-- The table at a host address: 32 entries of two bytes; none when an entry is out of range or it holds a loop. -/
def State.routeTable (s : State) (addr : Nat) : Option (List (Nat × Nat)) :=
  let l := (List.range 32).map fun n => (n, leNat (readBytes s.host (addr + 2 * n) 2))
  if (l.all fun (n, w) => straitByte (w % 256) && straitByte (w / 256) && (s.module.dev != some n || w == 65535)) then some l
  else none

def planRouteSet (s : State) : Plan :=
  controlling "ROUTE_SET" s (owning s fun c =>
    if c.p0.toNat % 64 ≠ 0 then deny 7
    else
      match s.routeTable c.p0.toNat with
      | some l => okWith [.module fun m => { m with route := l }]
      | none => deny 7)

def execRouteSet (s : State) := run (planRouteSet s) s

def planReset (s : State) : Plan :=
  controlling "MODULE_RESET" s (owning s fun _ => okWith [.module fun m => { m with resetDue := some (s.cycle + milli 1) }])

def execModuleReset (s : State) := run (planReset s) s

/-! ### QUERY (R41) -/

/-- Telemetry within the policy's level: busy time in µs, and at level 2 the graphs whose event has been raised. -/
def State.telemetry (s : State) (v : VD) : Nat :=
  let busy := v.busy + match v.turnStart with | some c => s.cycle - c | none => 0
  let us := min (2 ^ 48 - 1) (busy / 1700)
  if v.telemetryLevel = 1 then us
  else if v.telemetryLevel = 2 then us + min 65535 v.graphsDone * 2 ^ 48
  else 0

def planQuery (s : State) : Plan :=
  controlling "QUERY" s fun c =>
    let item := c.p0.toNat
    if item = 0 then okWith [] s.module.ready
    else if item = 1 then
      okWith [] (match lookup s.module.atolls 1 with | some serial => s.handle serial | none => 0)
    else if item = 2 then
      if 12 ≤ c.p1.toNat then deny 7 else okWith [] (BitVec.ofNat 64 (s.freeOn c.p1.toNat).length)
    else if item = 3 then
      s.onVd c.p1 fun v => okWith [] (BitVec.ofNat 64 v.state.code) (BitVec.ofNat 64 (s.telemetry v))
    else if item = 4 then s.onVd c.p1 fun v => okWith [] (BitVec.ofNat 64 v.imageLen)
    else deny 7

def execQuery (s : State) := run (planQuery s) s

/-! ### Joins (R54) -/

/-- A join ends: translations of the other module's frames leave. -/
def VD.unjoin (v : VD) (dev : Nat) : VD :=
  { v with
    joins := v.joins.filter (·.1 != dev)
    cores := v.cores.map fun (off, c) =>
      (off, { c with tlb := c.tlb.filter fun e => bits e.value.toNat 60 56 != dev }) }

/-- The module that a translated access goes to. -/
def Packet.toward : Packet → Option Nat
  | .route dev _ _ | .access _ (.remote dev _) | .wanting _ (.remote dev _) | .transit _ (.remote dev _)
  | .atomic _ (.remote dev _) => some dev
  | _ => none

/-- An access translated under a join has not been performed yet: the invalidation that ends the join waits for it (R149). -/
def State.usesJoin (s : State) (vf dev : Nat) : Bool := s.flights.any fun f => f.tid.vf == vf && f.pk.toward == some dev

/-- A state in which a virtual device joins. -/
def VdState.joinable (x : VdState) : Bool := x == .locked || x == .running || x == .paused

/-- What VD.JOIN does first: the checks, with their draw; the end of the join that it ends or replaces. Where several conditions
fail, the order is: this side's state 1 and JOIN_OK 2, the way 3, the remote identity 5, the remote state 1, and the policies of
both sides 2 (DESIGN CHOICE, log entry 120). -/
def State.joinStart (s : State) (v : VD) (dev w : Nat) : Except Answer (List Eff) :=
  let n := s.free
  let answer := (Config.peerAnswer n).toNat
  let off : List Eff := [.vd v.vf (·.unjoin dev)]
  -- what the other module answers is drawn with the session
  let r (a : Answer) : Except Answer (List Eff) := .error { a with effs := .draw 1 :: a.effs }
  if 31 < dev ∨ 256 < w then .error (deny 7)
  else if w = 0 then .ok off
  else if !v.state.joinable then .error (deny 1)
  else if !v.joinOk then .error (deny 2)
  else if !s.routeReady dev then .error (deny 3)
  else if !bit answer 0 then r (deny 5)
  else if !bit answer 1 then r (deny 1)
  else if !bit answer 2 || Config.peerTenantKey n != BitVec.ofNat 512 (leNat v.boundKey) ||
      !(match v.policy with | some b => (polDevices b).contains (Config.peerIdentity n) | none => false) then r (deny 2)
  else .ok (.draw 1 :: off)

/-- VD.JOIN: its record is written once every access translated under the join that ends has been performed (R149). -/
def planJoin (s : State) : Plan :=
  let dev := s.cmd.p1.toNat
  let w := s.cmd.p2.toNat
  staging "VD_JOIN" s
    (match s.vdOf s.cmd.p0 with
      | none => .error badHandle
      | some v => s.joinStart v dev w)
    (fun s => match s.vdOf s.cmd.p0 with | some v => !s.usesJoin v.vf dev | none => true)
    fun s => s.onVd s.cmd.p0 fun v =>
      if w ≠ 0 ∧ v.state.joinable = false then deny 1
      else okWith (if w = 0 then [] else [.vd v.vf fun v => { v with joins := v.joins.filter (·.1 != dev) ++ [(dev, w)] }])

def execVdJoin (s : State) := run (planJoin s) s

/-- An unknown CMD, or a FLAGS bit other than bit 0 (R39). -/
def planControlRefused (s : State) : Plan := controlling "CONTROL_ENTRY_REFUSED" s fun _ => deny 7

def execControlEntryRefused (s : State) := run (planControlRefused s) s

end Sys2Proof.Machine
end

