-- ==== Sys2Proof/Machine/Ready.lean ====
section
/-! DEFINITION. Readiness (R93 to R99, R111, R116, R251, R257, R262): the holds of an instruction, which slot of a core is
ready and what its next step is; and YIELD, which looks at the ready slots (R293). -/

namespace Sys2Proof.Machine

/-! ### The registers an instruction reads or writes (R95) -/

/-- The fields of an LV instruction. -/
def lvOf (i : Instr) : Option LV :=
  match i with
  | .vadd f | .vsub f | .vmul f | .vfma f | .vfms f | .vmin f | .vmax f | .vabs f | .vneg f => some f
  | .vand f | .vor f | .vxor f | .vandn f | .vshl f | .vshr f | .vsra f | .vmulh f => some f
  | .vdiv f | .vsqrt f | .vrcp f | .vrsq f | .vexp2 f | .vlog2 f | .vsint f | .vcost f | .vtanh f => some f
  | .vcmp f | .vsel f | .vmov f | .vbcast f | .vextr f | .vins f | .vcvt f | .vqnt f | .vdq f | .vretag f => some f
  | .vperm f | .vrotl f | .vzip f | .vunzip f | .vredadd f | .vredmax f | .vredmin f | .vscan f | .vnzs f => some f
  | .vdot4 f | .vclz f | .vpopc f | .vidx f => some f
  | _ => none

/-- A vector field that names a scalar register. -/
def asS (r : BitVec 6) : SReg := r.setWidth 5

/-- The scalar registers of an LV instruction. -/
def lvScalars (i : Instr) : List SReg :=
  match i with
  | .vbcast f => [asS f.a]
  | .vextr f => [asS f.d, asS f.b]
  | .vins f => [asS f.a, asS f.b]
  | .vrotl f => [asS f.b]
  | .vnzs f => [asS f.b, asS f.c]
  | .vidx f => [asS f.a, asS f.b]
  | _ => []

/-- The predicate registers of an LV instruction. -/
def lvPreds (i : Instr) (f : LV) : List PReg :=
  match i with
  | .vcmp _ => [f.d.setWidth 3, f.pa, f.pb]
  | _ => [f.pa, f.pb]

/-- The scalar registers of an LM instruction: tile and accumulator numbers, vector indices and scopes are none. -/
def lmScalars (i : Instr) (f : LM) : List SReg :=
  match i with
  | .tzero _ | .mma _ | .mmas _ | .mmar _ | .msync _ => []
  | .vgath _ | .vscat _ | .vamo _ => [f.sa, f.sb]
  | .mprobe _ | .mins _ | .mset _ | .mrem _ | .miter _ => [f.sa, f.sb, f.sc] ++ if f.fn.getLsbD 0 then [f.sb + 1] else []
  | .cpy _ | .cpy2 _ | .cgath _ | .cscat _ | .cdec _ | .cfill _ | .bxf _ | .cred _ | .cpyBrdx _ | .cpyBrdc _ | .cpyMig _ =>
    [f.sa, f.sb, f.sc, asS f.v]
  | _ => [f.sa, f.sb, f.sc]

/-- The scalar registers of an instruction. -/
def scalarsOf (i : Instr) : List SReg :=
  match i with
  | .add d a b | .sub d a b | .mul d a b | .mulh d a b | .mulhu d a b | .div d a b | .divu d a b | .rem d a b
  | .remu d a b | .and d a b | .or d a b | .xor d a b | .shl d a b | .shr d a b | .sra d a b | .min d a b | .max d a b
  | .minu d a b | .maxu d a b | .cmp d a b _ | .waddr d a b _ | .fwake d a b | .ldf d a b _ _ | .amo d a b _ _
  | .cas d a b _ => [d, a, b]
  | .sel d a b c => [d, a, b, c]
  | .clz d a | .ctz d a | .popc d a | .bfx d a _ _ | .bfi d a _ _ | .addi d a _ | .andi d a _ | .ori d a _ | .xori d a _
  | .shli d a _ | .shri d a _ | .srai d a _ | .mtcsr d a _ | .callr d a | .gsub d a | .evsig d a _ | .ldb d a _
  | .ldbu d a _ | .ldh d a _ | .ldhu d a _ | .ldw d a _ | .ldwu d a _ | .ldd d a _ | .stb d a _ | .sth d a _ | .stw d a _
  | .std d a _ | .stf d a _ | .acqRead d a _ | .acqWrite d a _ _ | .rel d a _ | .relYield d a _ | .feclr d a
  | .flush d a | .inval d a => [d, a]
  | .ldi d _ | .ldl d _ | .pcnt d _ _ | .pany d _ | .pfirst d _ _ | .mfcsr d _ | .sleep d _ | .mclaim d _ => [d]
  | .plen _ a _ | .jr a | .pref _ a _ => [a]
  | .br a cc _ => if cc.toNat < 6 then [a] else []
  | .call _ => [31]
  | _ =>
    match lmOf i with
    | some f => lmScalars i f
    | none => lvScalars i

/-- The predicate registers of an instruction. -/
def predsOf (i : Instr) : List PReg :=
  match i with
  | .pand d a b | .por d a b | .pxor d a b | .pandn d a b => [predReg d, predReg a, predReg b]
  | .plen d _ _ => [predReg d]
  | .pcnt _ a _ | .pany _ a | .pfirst _ a _ => [predReg a]
  | .br a cc _ => if cc.toNat < 6 then [] else [predReg a]
  | _ =>
    match lmOf i, lvOf i with
    | some f, _ => [f.pg]
    | none, some f => lvPreds i f
    | none, none => []

/-- pd, ta and tc of a long instruction. -/
def schedOf (i : Instr) : Nat × Nat × Nat :=
  match lmOf i, lvOf i with
  | some f, _ => (f.pd.toNat, f.ta.toNat, f.tc.toNat)
  | none, some f => (f.pd.toNat, f.ta.toNat, f.tc.toNat)
  | none, none => (0, 0, 0)

/-! ### Holds (R93) -/

/-- A write to a scalar or a predicate register is outstanding (R95). -/
def Slot.busyS (x : Slot) (r : SReg) : Bool :=
  r != 0 && (x.pend.any (fun q => q.s.any (·.1 == r)) || x.ops.any fun o => o.s.any (·.1 == r))
def Slot.busyP (x : Slot) (r : PReg) : Bool :=
  r != 0 && (x.pend.any (fun q => q.p.any (·.1 == r)) || x.ops.any fun o => o.p.any (·.1 == r))

/-- The scalar result of the slot's last instruction is still on its way (R95). -/
def Slot.lateS (x : Slot) (cycle : Nat) (r : SReg) : Bool :=
  r != 0 && x.late.any fun l => l.1 == r && decide (cycle < l.2)

/-- The results of the instruction n positions earlier are not visible yet (R97). -/
def Slot.behind (x : Slot) (n : Nat) : Bool :=
  n != 0 && (x.pend.any (fun q => q.seq + n == x.seq) ||
    x.ops.any fun o => o.seq + n == x.seq && !o.scalar && !(o.v.isEmpty && o.s.isEmpty && o.p.isEmpty))

/-- An operation of the slot has a result to come, or is synchronous. -/
def Op.returns (o : Op) : Bool := o.sync || !(o.v.isEmpty && o.s.isEmpty && o.p.isEmpty)

/-- Accesses of a thread that have not been performed (R162, R172, R177). -/
def State.unperformed (s : State) (t : Tid) : Bool := s.unperformedBefore t ((s.slotOf t).seq + 1)

/-- An access to a core's scratchpad is on its way (R63). An LDF that has arrived and waits at a word that is not full is none
(DESIGN CHOICE, log entry 121). -/
def State.sramBusy (s : State) (vf core : Nat) : Bool :=
  s.flights.any fun f => f.tid.vf == vf &&
    (match f.pk with
      | .access _ (.window k off) | .atomic _ (.window k off) => k == core && decide (off < 0x80000)
      | .halo k _ _ | .bxf _ _ k _ => k == core
      | _ => false)

/-- The instruction issues only once the thread's earlier accesses have been performed. -/
def ordersAccesses (i : Instr) : Bool :=
  match i with
  | .rel .. | .relYield .. | .fence .. | .barArriveWait .. | .barArrive .. | .qsig .. | .evsig .. | .gsub .. | .flush ..
  | .inval .. => true
  | _ => false

/-- The operations whose results an acquire waits for (R163). -/
def awaitsResults (i : Instr) : Bool :=
  match i with
  | .acqRead .. | .acqWrite .. | .fence .. => true
  | _ => false

/-- A CSR's own holds (R63, R286). -/
def State.csrHeld (s : State) (t : Tid) (i : Instr) : Bool :=
  let x := s.slotOf t
  match i with
  | .mfcsr _ n | .mtcsr _ _ n =>
    if n.toNat = 0x010 then x.pend != [] || x.ops.any (!·.scalar)
    else if n.toNat = 0x030 then (match i with | .mtcsr .. => s.sramBusy t.vf t.core | _ => false)
    else false
  | _ => false

/-- What an instruction reads before it issues is held on its way (R12, R66): its descriptor, or the graph of a GSUB. -/
def State.readHeld (s : State) (t : Tid) (i : Instr) : Bool :=
  let x := s.slotOf t
  match i with
  | .badd f | .bload f => s.lookHeld t.vf t.core (x.rs f.sa).toNat
  | .bdrain f => f.fn.toNat % 2 == 0 && s.lookHeld t.vf t.core (x.rs f.sa).toNat
  | .gsub _ a =>
    s.mayHold &&
      (match s.vdAt t.vf with
        | some v =>
          (match (applyAll (s.release t 3 none) s).submit v t.core (x.rs a).toNat stBUSY with
            | (.stop .narrow _, _) => true
            | _ => false)
        | none => false)
  | _ => false

/-- An instruction has a hold of R93 that is not met, the wait for its semaphore apart. -/
def State.holds (s : State) (t : Tid) (i : Instr) : Bool :=
  let x := s.slotOf t
  let (pd, ta, tc) := schedOf i
  (scalarsOf i).any (fun r => x.busyS r || x.lateS s.cycle r) || (predsOf i).any x.busyP || x.behind pd || (ta != 0 && x.tags.getLsbD ta) ||
    x.tags.toNat / 2 &&& tc != 0 || (matrixInstr i && decide (4 ≤ (s.coreAt t.vf t.core).queue.length)) ||
    (ordersAccesses i && s.unperformed t) || (awaitsResults i && x.ops.any (·.returns)) || s.csrHeld t i ||
    (i == .halt && x.tags != 0) || s.readHeld t i

/-! ### A slot that may issue at all -/

/-- The core runs: its virtual device has its turn, or its request to halt has not arrived yet (R88, R125). -/
def State.coreRuns (s : State) (vf core : Nat) : Bool :=
  match s.vdAt vf with
  | some v => (v.turnStart.isSome || v.saving.contains core) && !(v.coreAt core).halted
  | none => false

/-- After YIELD: every other slot that was ready has issued, or 4 cycles have passed (R293). -/
def Slot.rested (x : Slot) (cycle : Nat) : Bool :=
  match x.yielded with
  | some (since, others) => others == [] || decide (since + 4 ≤ cycle)
  | none => true

/-- The slot holds a thread that nothing stalls. Results due by now are visible first (R96). -/
def State.unstalled (s : State) (t : Tid) : Bool :=
  let x := s.slotOf t
  x.live && x.halting.isNone && s.coreRuns t.vf t.core && x.mailbox == 0 && x.refusal.isNone &&
    x.held.all (fun h => h.part.isSome || h.flight.isSome) && x.ops.all (!·.sync) &&
    x.pend.all (fun q => decide (s.cycle < q.due)) && x.rested s.cycle

/-- Nothing stalls the slot's thread, and its core has not issued in this cycle. -/
def State.awake (s : State) (t : Tid) : Bool :=
  s.unstalled t && (s.coreAt t.vf t.core).lastCycle != some s.cycle

/-! ### The next step of a slot -/

/-- What a slot does next: nothing yet, the beginning of a wait for a semaphore (R257), an instruction, with what its fetch
changes, or another step of its own. -/
inductive Offer where
  | blocked
  | startWait (ts : List Tid)
  | go (i : Instr) (es : List Eff)
  | other (es : List Eff)

/-- The entry range that holds an address: its base (R42, R116). -/
def VD.entryAt (v : VD) (pc : Nat) : Option Nat :=
  (v.entries.find? fun e => decide (e.1 ≤ pc ∧ pc < e.1 + e.2.1)).map (·.1)

/-- A fetch that does not give its words: a trap, a held fault, or a wait at the hub of at most 10 µs (R17, R118). -/
def State.fetchStops (s : State) (t : Tid) (w : Where) (va : Nat) (words : Option Nat) : Offer :=
  let n := words.getD ([1, 3, 5].getD (Config.freeNat s.free % 3) 1)
  match w with
  | .away _ =>
    match (s.slotOf t).away with
    | none => .other [.slot t fun x => { x with away := some s.cycle }]
    | some since =>
      if since + hubWait ≤ s.cycle then
        .other (.slot t (fun x => { x with away := none }) :: .draw 1 :: s.stallOn t (.fault cLINK) va n .fetch)
      else .blocked
  | .narrow => .blocked
  | .addr => .other (.draw 1 :: trap s t cADDR (BitVec.ofNat 64 va) n)
  | w => .other (.slot t (fun x => { x with away := none }) :: .draw 1 :: s.stallOn t w va n .fetch)

/-- The first access of a thread: TRAPVEC is the first 8 bytes of its entry range (R116). -/
def State.boot (s : State) (t : Tid) : Offer :=
  let x := s.slotOf t
  match (s.vdAt t.vf).bind (·.entryAt x.pc.toNat) with
  | none => .other [.slot t fun x => { x with bootVec := false }]
  | some base =>
    match s.resolve t.vf t.core base 8 .fetch x.priv true with
    | (.at p _, es) =>
      (match s.onWay t.vf t.core p with
        | some w => s.fetchStops t w base (some 1)
        | none =>
          let (b, k) := s.fetchBytes t p 8
          .other (es ++ [.draw k, .slot t fun x =>
            { x with bootVec := false, away := none, trapvec := BitVec.ofNat 64 (leNat b) &&& 0x00FFFFFFFFFFFFFC#64 }]))
    | (w, _) => s.fetchStops t w base (some 1)

/-- Every member's wait for its semaphore: met, taken already or run out; not begun; or under way (R257). -/
def State.semaphores (s : State) (ts : List Tid) (field : Option (Nat × Nat)) : Option (List Tid) :=
  match field with
  | none => some []
  | some (q, n) =>
    let unmet := ts.filter fun t =>
      let x := s.slotOf t
      x.took.isNone && !x.lapsed && !s.semMet t.vf t.core q n (x.semWait.getD s.cycle) t.slot x.seq
    if unmet = [] then some []
    else if unmet.all fun t => (s.slotOf t).semWait.isSome then none
    else some (unmet.filter fun t => (s.slotOf t).semWait.isNone)

/-- The words at pc, read as an instruction. -/
def instrOf (w : Window) : Instr :=
  match decode w with
  | .ok i => i
  | .error _ => .nonInstruction (w.extractLsb' 0 32)

/-- The amount of a semaphore field subtracted, once (R257). -/
def State.takeField (s : State) (t : Tid) (i : Instr) : List Eff :=
  match semField i, (s.slotOf t).took with
  | some (q, n), none =>
    [.core t.vf t.core (fun c => c.setSem q (c.sem q - n)), .slot t fun x => { x with took := some (q, n) }]
  | _, _ => []

/-- A command whose descriptor read has to wait holds its slot; its wait for its semaphore has been met (R386). -/
def State.atDescriptor (s : State) (ts : List Tid) (i : Instr) : Offer :=
  match ts.flatMap fun t => if (s.slotOf t).lapsed then [] else s.takeField t i with
  | [] => .blocked
  | es => .other es

/-- The instruction at a gang leader's pc, once every member may issue it. -/
def State.nextInstr (s : State) (t : Tid) (ts : List Tid) : Offer :=
  match s.fetch t with
  | (.stop w va words, es) =>
    match (applyAll es s).fetchStops t w va words with
    | .other es' => .other (es ++ es')
    | r => r
  | (.code w, es) =>
    let i := instrOf w
    if ts.any (s.holds · i) then .blocked
    else
      match s.semaphores ts (waitField w) with
      | none => .blocked
      | some [] => if ts.any (s.descriptorWaits · i) then s.atDescriptor ts i else .go i es
      | some l => .startWait l

/-- The end of a thread that a double trap has stopped, once it waits for nothing (R116, R292). -/
def State.lastAct (s : State) (t : Tid) : Offer :=
  let x := s.slotOf t
  if x.live && s.coreRuns t.vf t.core && x.mailbox == 0 && x.settled then .other (endThread s t true) else .blocked

/-- What a slot does next. A gang's instructions issue from its leader, once none of its members has a hold. -/
def State.offer (s : State) (t : Tid) : Offer :=
  if (s.slotOf t).dying then s.lastAct t
  else if !s.awake t then .blocked
  else if (s.slotOf t).bootVec then s.boot t
  else
    let ts := s.members t
    if ts.head? != some t || ts.any (fun u => !s.awake u || (s.slotOf u).bootVec) then .blocked
    else s.nextInstr t ts

/-- The slot is ready (R93): in a cycle in which its core has not issued, an instruction of it could issue. -/
def State.ready (s : State) (t : Tid) : Bool :=
  match ((Eff.core t.vf t.core fun c => { c with lastCycle := none }).apply s).offer t with
  | .go .. => true
  | _ => false

/-- YIELD: the slot is not ready again until each other ready slot of the core has issued once, or 4 cycles have passed
(R293). -/
def execYield (s : State) :=
  run (issuing s fun t x =>
    let others := (List.range 4).filter fun k => k != t.slot && s.ready ⟨t.vf, t.core, k⟩
    [.slot t fun y => { y.advance (x.after 1) with yielded := some (s.cycle, others) }]) s

end Sys2Proof.Machine
end

