-- ==== Sys2Proof/Machine/Scalar.lean ====
section
/-! DEFINITION. Scalar arithmetic, predicates, branches and calls, traps and the simple thread controls (chapter 15). -/

namespace Sys2Proof.Machine

/-- A short instruction of one word that writes s[d] and moves on (R274). -/
def scalarD (s : State) (d : SReg) (val : Slot → Word) (words : Nat) : Plan :=
  issuing s fun t x => [.slot t fun y => (y.setS d (val x)).advance (x.after words)]

/-- s[d] := f(s[a], s[b]) (R275). -/
def scalarDAB (s : State) (d a b : SReg) (f : Word → Word → Word) : Plan :=
  scalarD s d (fun x => f (x.rs a) (x.rs b)) 1

/-- s[d] := f(s[a]). -/
def scalarDA (s : State) (d a : SReg) (f : Word → Word) : Plan := scalarD s d (fun x => f (x.rs a)) 1

/-! ### Register-register operations (Table 15.2) -/

def execAdd (d a b : SReg) (s : State) := run (scalarDAB s d a b (· + ·)) s
def execSub (d a b : SReg) (s : State) := run (scalarDAB s d a b (· - ·)) s
def execMul (d a b : SReg) (s : State) := run (scalarDAB s d a b (· * ·)) s
def execMulh (d a b : SReg) (s : State) :=
  run (scalarDAB s d a b fun x y => BitVec.ofInt 64 (x.toInt * y.toInt / 2 ^ 64)) s
def execMulhu (d a b : SReg) (s : State) :=
  run (scalarDAB s d a b fun x y => BitVec.ofNat 64 (x.toNat * y.toNat / 2 ^ 64)) s
def execDiv (d a b : SReg) (s : State) := run (scalarDAB s d a b divSigned) s
def execDivu (d a b : SReg) (s : State) := run (scalarDAB s d a b divUnsigned) s
def execRem (d a b : SReg) (s : State) := run (scalarDAB s d a b remSigned) s
def execRemu (d a b : SReg) (s : State) := run (scalarDAB s d a b remUnsigned) s
def execAnd (d a b : SReg) (s : State) := run (scalarDAB s d a b (· &&& ·)) s
def execOr (d a b : SReg) (s : State) := run (scalarDAB s d a b (· ||| ·)) s
def execXor (d a b : SReg) (s : State) := run (scalarDAB s d a b (· ^^^ ·)) s
def execShl (d a b : SReg) (s : State) := run (scalarDAB s d a b fun x y => x <<< shiftAmount y) s
def execShr (d a b : SReg) (s : State) := run (scalarDAB s d a b fun x y => x >>> shiftAmount y) s
def execSra (d a b : SReg) (s : State) := run (scalarDAB s d a b fun x y => x.sshiftRight (shiftAmount y)) s
def execMin (d a b : SReg) (s : State) := run (scalarDAB s d a b fun x y => if x.toInt ≤ y.toInt then x else y) s
def execMax (d a b : SReg) (s : State) := run (scalarDAB s d a b fun x y => if x.toInt ≤ y.toInt then y else x) s
def execMinu (d a b : SReg) (s : State) := run (scalarDAB s d a b fun x y => if x.toNat ≤ y.toNat then x else y) s
def execMaxu (d a b : SReg) (s : State) := run (scalarDAB s d a b fun x y => if x.toNat ≤ y.toNat then y else x) s
def execCmp (d a b : SReg) (cond : BitVec 7) (s : State) :=
  run (scalarDAB s d a b fun x y => if cmpHolds cond.toNat x y then 1 else 0) s
def execSel (d a b c : SReg) (s : State) :=
  run (scalarD s d (fun x => if x.rs c ≠ 0 then x.rs a else x.rs b) 1) s
def execClz (d a : SReg) (s : State) := run (scalarDA s d a fun x => BitVec.ofNat 64 (clzNat 64 x.toNat)) s
def execCtz (d a : SReg) (s : State) := run (scalarDA s d a fun x => BitVec.ofNat 64 (ctzNat 64 x.toNat)) s
def execPopc (d a : SReg) (s : State) := run (scalarDA s d a fun x => BitVec.ofNat 64 (popNat 64 x.toNat)) s

/-! ### Bit fields, window addresses and immediates (R279 to R281) -/

def execBfx (d a : SReg) (pos len1 : BitVec 6) (s : State) := run (scalarDA s d a fun x => extractField x pos len1) s
def execBfi (d a : SReg) (pos len1 : BitVec 6) (s : State) :=
  run (scalarD s d (fun x => insertField (x.rs d) (x.rs a) pos len1) 1) s
def execWaddr (d a b : SReg) (mode : BitVec 7) (s : State) := run (scalarDAB s d a b (windowAddress mode.toNat)) s
def execAddi (d a : SReg) (imm : BitVec 12) (s : State) := run (scalarDA s d a (· + immS imm)) s
def execAndi (d a : SReg) (imm : BitVec 12) (s : State) := run (scalarDA s d a (· &&& immS imm)) s
def execOri (d a : SReg) (imm : BitVec 12) (s : State) := run (scalarDA s d a (· ||| immS imm)) s
def execXori (d a : SReg) (imm : BitVec 12) (s : State) := run (scalarDA s d a (· ^^^ immS imm)) s
def execShli (d a : SReg) (imm : BitVec 12) (s : State) := run (scalarDA s d a (· <<< (imm.toNat % 64))) s
def execShri (d a : SReg) (imm : BitVec 12) (s : State) := run (scalarDA s d a (· >>> (imm.toNat % 64))) s
def execSrai (d a : SReg) (imm : BitVec 12) (s : State) := run (scalarDA s d a fun x => x.sshiftRight (imm.toNat % 64)) s
def execLdi (d : SReg) (imm : BitVec 17) (s : State) := run (scalarD s d (fun _ => immS imm) 1) s
def execLdl (d : SReg) (lit : Word) (s : State) := run (scalarD s d (fun _ => lit) 3) s

/-! ### Predicates (R282 to R284) -/

/-- p[d] := f(p[a], p[b]). -/
def predDAB (s : State) (d a b : SReg) (f : Mask → Mask → Mask) : Plan :=
  issuing s fun t x =>
    [.slot t fun y => (y.setP (predReg d) (f (x.rp (predReg a)) (x.rp (predReg b)))).advance (x.after 1)]

def execPand (d a b : SReg) (s : State) := run (predDAB s d a b (· &&& ·)) s
def execPor (d a b : SReg) (s : State) := run (predDAB s d a b (· ||| ·)) s
def execPxor (d a b : SReg) (s : State) := run (predDAB s d a b (· ^^^ ·)) s
def execPandn (d a b : SReg) (s : State) := run (predDAB s d a b fun x y => x &&& ~~~y) s
def execPlen (d a : SReg) (width : BitVec 12) (s : State) :=
  run (issuing s fun t x =>
    [.slot t fun y => (y.setP (predReg d) (plenMask width.toNat (x.rs a))).advance (x.after 1)]) s
def execPcnt (d a : SReg) (width : BitVec 7) (s : State) :=
  run (scalarD s d (fun x => BitVec.ofNat 64 (activeElems (x.rp (predReg a)) (widthCode width.toNat)).length) 1) s
def execPany (d a : SReg) (s : State) := run (scalarD s d (fun x => if x.rp (predReg a) ≠ 0 then 1 else 0) 1) s
def execPfirst (d a : SReg) (width : BitVec 7) (s : State) :=
  run (scalarD s d (fun x =>
    let w := widthCode width.toNat
    BitVec.ofNat 64 ((activeElems (x.rp (predReg a)) w).headD (2048 / w))) 1) s

/-! ### Branches and calls (R288, R289) -/

def execBr (a : SReg) (cc : BitVec 3) (off : BitVec 14) (s : State) :=
  run (issuing s fun t x =>
    [.slot t (·.advance (if brTaken x a cc then target x.pc off else x.after 1))]) s
def execJmp (off : BitVec 22) (s : State) := run (issuing s fun t x => [.slot t (·.advance (target x.pc off))]) s
def execCall (off : BitVec 22) (s : State) :=
  run (issuing s fun t x => [.slot t fun y => (y.setS 31 (x.after 1)).advance (target x.pc off)]) s

/-- JR and CALLR: the target is read before s[d] is written, and is checked for alignment and range (R289). -/
def jumpReg (s : State) (link : Option SReg) (a : SReg) : Plan :=
  issuing s fun t x =>
    let dest := x.rs a
    if dest.toNat % 4 ≠ 0 then trap s t cMISALIGN dest 1
    else if 2 ^ 56 ≤ dest.toNat then trap s t cADDR dest 1
    else [.slot t fun y => ((match link with | some d => y.setS d (x.after 1) | none => y).advance dest)]

def execJr (a : SReg) (s : State) := run (jumpReg s none a) s
def execCallr (d a : SReg) (s : State) := run (jumpReg s (some d) a) s

/-! ### Traps and return (R290, R291) -/

def execTrap (code : BitVec 12) (s : State) := run (issuing s fun t _ => trap s t cSYSCALL (code.setWidth 64) 1) s
def execBrk (code : BitVec 12) (s : State) := run (issuing s fun t _ => trap s t cBREAK (code.setWidth 64) 1) s
def execEret (s : State) :=
  run (issuing s fun t x =>
    if x.priv then [.slot t Slot.leaveTrap] else trap s t cPRIV (wordZero .eret) 1) s

/-- A word pattern that is no instruction: ILLEGAL, with word 0 in TRAPVAL (R261). -/
def execNonInstruction (word0 : BitVec 32) (s : State) :=
  run (issuing s fun t _ => trap s t cILLEGAL (word0.setWidth 64) (wordCount word0)) s

/-! ### The end of a thread (R292) and NOP (R293) -/

def execHalt (s : State) := run (issuing s fun t _ => endThread s t false) s
def execNop (s : State) := run (issuing s fun t x => [.slot t (·.advance (x.after 1))]) s

end Sys2Proof.Machine
end

