-- ==== Sys2Proof/Machine/Tenant.lean ====
section
/-! DEFINITION. The tenant's side of the Holm: the commands of a command channel (Table 2.8, R40, R42), long transfers
(R37, R44), notices (R40), waits that expire (R44, R49), SPDM and TDISP (R32 to R35, R46), and other modules (R53, R54). -/

namespace Sys2Proof.Machine

/-! ### Entries that are not executed (R40) -/

/-- What an entry says of itself. -/
def entrySeq (b : List Byte) : Nat := fieldLE b 0 8
def VD.opened (v : VD) (b : List Byte) : Option (List Byte) :=
  Config.openText v.entryKey (entrySeq b) ((b.drop 8).take 80)

/-- The command of an opened entry. -/
def tenantCmd (vf seq : Nat) (t : List Byte) : TCmd where
  vf := vf
  seq := BitVec.ofNat 64 seq
  code := BitVec.ofNat 16 (fieldLE t 0 2)
  flags := BitVec.ofNat 16 (fieldLE t 2 2)
  tag := BitVec.ofNat 32 (fieldLE t 4 4)
  p0 := BitVec.ofNat 64 (fieldLE t 8 8)
  p1 := BitVec.ofNat 64 (fieldLE t 16 8)
  p2 := BitVec.ofNat 64 (fieldLE t 24 8)
  p3 := BitVec.ofNat 64 (fieldLE t 32 8)
  p4 := BitVec.ofNat 64 (fieldLE t 40 8)
  p5 := BitVec.ofNat 64 (fieldLE t 48 8)
  p6 := BitVec.ofNat 64 (fieldLE t 56 8)

/-- The reserved bytes of an entry are zero. -/
def entryClean (b : List Byte) : Bool := (b.drop 88).all (· == 0)

/-- A refused entry: its tag fails (5; its TAG cannot be known), its SEQ is wrong (6), or it is accepted and names no
command (7). The expected SEQ advances in the last case only. -/
def planTenantRefused (vf : Nat) (entry : BitVec 1024) (s : State) : Plan :=
  let b := leBytes 128 entry.toNat
  match s.vdAt vf with
  | some v =>
    when "TENANT_ENTRY_REFUSED"
      (s.holmServes && !v.channel.idle && v.state != .paused && v.channel.sizeOk && decide (0 < v.channel.room))
      (match v.opened b with
        | none =>
          .draw 1 :: v.completeTenant
            { tenantCmd vf (entrySeq b) [] with tag := BitVec.ofNat 32 (Config.freeNat s.free) } stDENIED 5 0 0
        | some t =>
          let c := tenantCmd vf (entrySeq b) t
          if entrySeq b ≠ v.seqNo then v.completeTenant c stDENIED 6 0 0
          else
            .vd vf (fun v => { v with seqNo := v.seqNo + 1 }) ::
              v.completeTenant c stDENIED (if v.state = .running then 7 else 1) 0 0)
  | none => .error (.event "TENANT_ENTRY_REFUSED")

def execTenantEntryRefused (vf : Nat) (entry : BitVec 1024) (s : State) := run (planTenantRefused vf entry s) s

/-! ### Long transfers (R37, R42, R44) -/

/-- The transfer of a command begins; its pieces follow. -/
def startPieces (v : VD) (c : TCmd) : List Eff :=
  [.vd v.vf fun v => { v with transfer := some { cmd := c, pos := 0, frame := none, away := none, failed := false, data := [] } }]

/-- PROG.LOAD. -/
def planProgLoad (s : State) : Plan :=
  tenanting "PROG_LOAD" s fun v c =>
    let a := c.p0.toNat
    let n := c.p2.toNat
    if a % 65536 ≠ 0 ∨ n = 0 ∨ 2 ^ 26 < n ∨ inFixedWindow a = true ∨ inFixedWindow (a + n - 1) = true then
      v.completeTenant c stDENIED 7 0 0
    else if !v.windowAllows c.p1.toNat n 1 then v.completeTenant c stDENIED 2 0 0
    else startPieces v c

def execProgLoad (s : State) := run (planProgLoad s) s

/-- MEM.WRITE reads host memory, MEM.READ writes it. -/
def planMem (mnemonic : String) (perm : Nat) (s : State) : Plan :=
  tenanting mnemonic s fun v c =>
    let n := c.p2.toNat
    if n % 64 ≠ 0 ∨ 2 ^ 30 < n then v.completeTenant c stDENIED 7 0 0
    else if !v.windowAllows c.p1.toNat n perm then v.completeTenant c stDENIED 2 0 0
    else startPieces v c

def execMemWrite (s : State) := run (planMem "MEM_WRITE" 1 s) s
def execMemRead (s : State) := run (planMem "MEM_READ" 2 s) s

/-- A command that meets memory it cannot reach: it blocks on a missing frame (R49), waits for a strait (R17), or
completes FAULTED. -/
def State.transferStops (s : State) (v : VD) (t : Transfer) (w : Where) : List Eff :=
  match w with
  | .frame n =>
    .vd v.vf (fun v => { v with transfer := some { t with frame := some n, away := none } }) :: s.frameWait v.vf n
  | .away _ =>
    (match t.away with
      | none => [.vd v.vf fun v => { v with transfer := some { t with away := some s.cycle } }]
      | some since => if since + hubWait ≤ s.cycle then v.completeTenant t.cmd stFAULTED 7 0 0 else [])
  | _ => v.completeTenant t.cmd stFAULTED 7 0 0

/-- A range zeroed page by page. A page that the range no longer reaches is passed over: a frame that has left comes back
zeroed (R48; log entry 109). -/
def State.zeroRange (s : State) (t : Tid) (a n : Nat) : List Eff :=
  (List.range ((n + 65535) / 65536)).foldl (fun es i =>
    es ++
      match (applyAll es s).writeVirt t (a + 65536 * i) (zeroBytes (min 65536 (n - 65536 * i))) true true with
      | .ok e => e
      | .error _ => []) []

/-- The end of PROG.LOAD: a digest in PROGS makes an entry range; otherwise the range is zeroed. -/
def State.endLoad (s : State) (v : VD) (t : Transfer) : List Eff :=
  let a := t.cmd.p0.toNat
  let d := Config.sm3 t.data
  match (match v.policy with | some b => (polProgs b).findIdx? (· == d) | none => none) with
  | some i =>
    .vd v.vf (fun v => { v with
        entries := v.entries ++ [(a, t.data.length, i)], digests := v.digests ++ [d] }) ::
      v.completeTenant t.cmd stOK 0 (BitVec.ofNat 64 i) 0
  | none => s.zeroRange ⟨v.vf, holmCore, 0⟩ a t.data.length ++ v.completeTenant t.cmd stDENIED 2 0 0

/-- The transfer after a piece of n bytes; with its last piece the command ends. -/
def State.endPiece (s : State) (v : VD) (t : Transfer) (n : Nat) (data : List Byte) : List Eff :=
  let t := { t with pos := t.pos + n, away := none, data := data }
  if t.cmd.p2.toNat ≤ t.pos then
    if t.cmd.code = 0x40 then s.endLoad v t else v.completeTenant t.cmd stOK 0 0 0
  else [.vd v.vf fun v => { v with transfer := some t }]

/-- One piece of 64 KiB, after the state and the policy have been looked at again (R50). -/
def State.piece (s : State) (v : VD) (t : Transfer) : List Eff :=
  let c := t.cmd
  let n := min 65536 (c.p2.toNat - t.pos)
  let dev := c.p0.toNat + t.pos
  let host := c.p1.toNat + t.pos
  let read := c.code = 0x42
  if t.failed then v.completeTenant c stFAULTED 7 0 0
  else if v.state ≠ .running then v.completeTenant c stDENIED 1 0 0
  else if !v.windowAllows c.p1.toNat c.p2.toNat (if read then 2 else 1) then v.completeTenant c stDENIED 2 0 0
  else if n = 0 then s.endPiece v t 0 t.data
  else if read then
    match s.readVirt v.vf holmCore dev n true with
    | .ok (b, es) => es ++ hostEffs host b ++ s.endPiece v t n []
    | .error (w, _) => s.transferStops v t w
  else
    let b := readBytes s.host host n
    match s.writeVirt ⟨v.vf, holmCore, 0⟩ dev b true true with
    | .ok es => es ++ (applyAll es s).endPiece v t n (if c.code = 0x40 then t.data ++ b else [])
    | .error (w, _) => s.transferStops v t w

/-- A transfer that pause or eviction has stopped waits; so does one that blocks on a frame, or, brought by a restore to a
channel that has none, on a free record (R38). -/
def planPiece (vf : Nat) (s : State) : Plan :=
  match s.vdAt vf with
  | some v =>
    match v.transfer with
    | some t =>
      when "HOST_TRANSFER_PIECE"
        (s.holmServes && t.cmd.code != 0x43 && t.frame.isNone && v.state != .paused && v.state != .evicted &&
          decide (0 < v.channel.room)) (s.piece v t)
    | none => .error (.event "HOST_TRANSFER_PIECE")
  | none => .error (.event "HOST_TRANSFER_PIECE")

def execHostTransferPiece (vf : Nat) (s : State) := run (planPiece vf s) s

/-! ### Graphs, windows, reports (R42, R74) -/

/-- GRAPH.SUBMIT. While it blocks on a frame or waits for a strait it stays in progress, and is tried again. -/
def planSubmit (s : State) : Plan :=
  tenanting "GRAPH_SUBMIT" s fun v c =>
    let t : Transfer := v.transfer.getD { cmd := c, pos := 0, frame := none, away := none, failed := false, data := [] }
    if t.failed then v.completeTenant c stFAULTED 7 0 0 else
    match s.submit v holmCore c.p0.toNat stDENIED with
    | (.stop w _, es) => es ++ (applyAll es s).transferStops v t w
    | (.deny st r, es) => es ++ v.completeTenant c st r 0 0
    | (.accept g, es) =>
      es ++ (applyAll es s).acceptGraph v.vf g ++ v.completeTenant c stOK 0 (BitVec.ofNat 64 g.id) 0

def execGraphSubmit (s : State) :=
  run (if ((s.vdAt s.tcmd.vf).bind (·.transfer)).any (·.frame.isSome) then .error (.event "GRAPH_SUBMIT")
    else planSubmit s) s

/-- HOST.WINDOW: a slot opened, or closed by a size of 0. P4 may lie anywhere (log entry 101). Reason 7, an overlap among its
cases, goes before reason 2 (DESIGN CHOICE, log entry 120). -/
def planHostWindow (s : State) : Plan :=
  tenanting "HOST_WINDOW" s fun v c =>
    let slot := c.p0.toNat
    let host := c.p1.toNat
    let size := c.p2.toNat
    let perm := c.p3.toNat
    let va := c.p4.toNat
    let others := v.windows.filter (·.slot != slot)
    if 16 ≤ slot ∨ 4 ≤ perm ∨ (perm = 0 ∧ size ≠ 0) ∨ host % 65536 ≠ 0 ∨ size % 65536 ≠ 0 ∨ va % 65536 ≠ 0 then
      v.completeTenant c stDENIED 7 0 0
    else if size = 0 then
      .vd v.vf (fun v => { v with windows := v.windows.filter (·.slot != slot) }) :: v.completeTenant c stOK 0 0 0
    else if others.any fun w => decide (va < w.va + w.size ∧ w.va < va + size) then v.completeTenant c stDENIED 7 0 0
    else if !v.windowAllows host size perm then v.completeTenant c stDENIED 2 0 0
    else
      .vd v.vf (fun v => { v with
          windows := v.windows.filter (·.slot != slot) ++ [(⟨slot, va, host, size, perm⟩ : HostWin)] }) ::
        v.completeTenant c stOK 0 0 0

def execHostWindow (s : State) := run (planHostWindow s) s

/-- Blocks 5 and 6, of a virtual function (Table 2.1): of its policy and of the programs it has loaded (log entry 98). -/
def tenantBlocks (policy : List Byte) (digests : List (BitVec 256)) : List (BitVec 256) :=
  [Config.sm3 policy, Config.sm3 (digests.flatMap fun d => leBytes 32 d.toNat)]

/-- The measurement blocks of a function: of function 0 the first four. What block 3 digests is the security version and then
the fused count, of eight bytes each (log entry 98). -/
def State.blocks (s : State) (v : Option VD) : List (BitVec 256) :=
  [Config.romDigest, Config.sm3 s.module.flash,
   Config.sm3 (leBytes 8 (Config.imageVersion s.module.flash) ++ leBytes 8 s.fused), Config.fuseDigest] ++
    match v with
    | some v => tenantBlocks (v.policy.getD []) v.digests
    | none => []

/-- ATTEST: a report of the blocks and the nonce, signed by the alias key. -/
def planAttest (s : State) : Plan :=
  tenanting "ATTEST" s fun v c =>
    let nonce := leBytes 8 c.p0.toNat ++ leBytes 8 c.p1.toNat ++ leBytes 8 c.p2.toNat ++ leBytes 8 c.p3.toNat
    hostEffs c.p4.toNat (s.attested (Config.attestReport (s.blocks (some v)) nonce)) ++ v.completeTenant c stOK 0 0 0

def execAttest (s : State) := run (planAttest s) s

/-! ### Notices (R37, R40) -/

/-- A notice is written once the ring has room beyond that of a command in progress. Function 0 is the control channel. -/
def planNotice (vf : Nat) (s : State) : Plan :=
  if vf = 0 then
    let c := s.module.control
    match c.notices with
    | r :: rest =>
      when "NOTICE_POST" (s.holmServes && c.runs && decide ((if c.idle then 0 else 1) < c.room))
        (s.writeControl r ++ [.module fun m => { m with control := { m.control with notices := rest } }])
    | [] => .error (.event "NOTICE_POST")
  else
    match s.vdAt vf with
    | some v =>
      let c := v.channel
      match c.notices with
      | r :: rest =>
        when "NOTICE_POST"
          (s.holmServes && (s.ghostOf vf).isNone && c.runs && decide ((if c.idle then 0 else 1) < c.room))
          (v.writeRecord (2 ^ 63 + v.noticeNo) (spliceBytes r 0 (leBytes 4 v.noticeNo)) ++
            [.vd vf fun v => { v with noticeNo := v.noticeNo + 1, channel := { v.channel with notices := rest } }])
      | [] => .error (.event "NOTICE_POST")
    | none => .error (.event "NOTICE_POST")

def execNoticePost (vf : Nat) (s : State) := run (planNotice vf s) s

/-! ### Waits of the Holm that expire (R44, R49) -/

/-- A pause that has lasted PAUSEMAX. -/
def planPauseEnd (vf : Nat) (s : State) : Plan :=
  match s.vdAt vf with
  | some v =>
    when "PAUSE_LIMIT_EXPIRY"
      (s.holmUp && v.state == .paused && match v.paused with
        | some since => decide (since + milli (v.pol 0x54 4) ≤ s.cycle)
        | none => false)
      (s.toRunning v ++ [postControl (completion 0 stOK 0 (s.handle v.serial) 0)])
  | none => .error (.event "PAUSE_LIMIT_EXPIRY")

def execPauseLimitExpiry (vf : Nat) (s : State) := run (planPauseEnd vf s) s

/-- Ten milliseconds after its record a missing frame has not come: what waits for it fails, a tenant command in its
channel's turn. -/
def planFrameEnd (vf frame : Nat) (s : State) : Plan :=
  match s.vdAt vf with
  | some v =>
    let es := s.frameEnd v frame true
    when "FRAME_WAIT_EXPIRY" (v.frameWaits.any fun w => w.1 == frame && decide (w.2 + frameLimit ≤ s.cycle))
      (es ++ [.vd vf fun v => { v with
        transfer := v.transfer.map fun t => if t.frame = some frame then { t with frame := none, failed := true } else t }])
  | none => .error (.event "FRAME_WAIT_EXPIRY")

def execFrameWaitExpiry (vf frame : Nat) (s : State) := run (planFrameEnd vf frame s) s

/-! ### SPDM and policies (R14, R32 to R34, R46) -/

/-- A response of a function's responder: the function, and 0 for success or 1 for an error. -/
def respond (fn : Nat) (ok : Bool) : Eff := reply (leBytes 2 fn ++ [if ok then 0 else 1])

/-- A session opens with the one algorithm set the device offers; SEQ and the notice counter start at 1. Where a virtual
function has no virtual device the responder answers with an error (log entry 99). -/
def planSession (fn : Nat) (compatible : Bool) (s : State) : Plan :=
  let opens := compatible && (fn == 0 || (s.vdAt fn).isSome)
  when "SPDM_SESSION_OPEN" (s.holmUp && decide (fn ≤ 256))
    (respond fn opens :: if opens && fn != 0 then
      [.draw 1, .vd fn fun v => { v with session := some s.free, seqNo := 1, noticeNo := 1 }]
    else [])

def execSpdmSessionOpen (fn : Nat) (compatible : Bool) (s : State) := run (planSession fn compatible s) s

/-- The measurement blocks and the alias key's signature over them. A virtual function without a virtual device has an empty
policy and has loaded no program (log entry 99). -/
def planMeasure (fn : Nat) (s : State) : Plan :=
  let l := if fn ≠ 0 ∧ (s.vdAt fn).isNone = true then s.blocks none ++ tenantBlocks [] [] else s.blocks (s.vdAt fn)
  when "SPDM_GET_MEASUREMENTS" (s.holmUp && decide (fn ≤ 256))
    [reply (s.attested (l.flatMap fun d => leBytes 32 d.toNat))]

def execSpdmGetMeasurements (fn : Nat) (s : State) := run (planMeasure fn s) s

/-- When the Holm installs a policy (R34): an EVICTED virtual device has no atoll that could fit it (log entry 99). -/
def VD.installs (v : VD) (b : List Byte) : Bool :=
  polValid b && polVerifies (if v.boundKey = [] then (b.drop 0x10).take 64 else v.boundKey) b &&
    decide (v.policyCounter < fieldLE b 8 8) && v.node != 0 &&
    decide (fieldLE b 0x50 1 ≤ atollLevel v.node ∧ atollLevel v.node ≤ fieldLE b 0x51 1)

/-- A policy installed: its key is bound, host windows it does not cover are closed, and a CREATED device is BOUND. -/
def VD.install (v : VD) (b : List Byte) : VD :=
  let w := { v with policy := some b, boundKey := (b.drop 0x10).take 64, policyCounter := fieldLE b 8 8 }
  let w := { w with windows := w.windows.filter fun x => w.windowAllows x.host x.size x.perm }
  if w.state = .created then w.enter .locked else w

/-- SET_POLICY, inside a session; it takes effect between two tenant commands. -/
def planPolicy (vf : Nat) (bytes : List Byte) (s : State) : Plan :=
  match s.vdAt vf with
  | some v =>
    when "SET_POLICY" (s.holmUp && v.session.isSome && v.channel.idle)
      (if v.installs bytes then [.vd vf (·.install bytes), respond vf true] else [respond vf false])
  | none => .error (.event "SET_POLICY")

def execSetPolicy (vf : Nat) (bytes : List Byte) (s : State) := run (planPolicy vf bytes s) s

/-- APPROVE_IMAGE, inside a session: the approval waits for its first use. -/
def planApprove (vf : Nat) (digest : BitVec 256) (sig : BitVec 512) (s : State) : Plan :=
  match s.vdAt vf with
  | some v =>
    when "APPROVE_IMAGE" (s.holmUp && v.session.isSome)
      [.vd vf (fun v => { v with approval := some (digest, sig) }), respond vf true]
  | none => .error (.event "APPROVE_IMAGE")

def execApproveImage (vf : Nat) (digest : BitVec 256) (sig : BitVec 512) (s : State) :=
  run (planApprove vf digest sig s) s

/-! ### TDISP and resets (R35) -/

def planStart (vf : Nat) (s : State) : Plan :=
  match s.vdAt vf with
  | some v =>
    when "START_INTERFACE_REQUEST" s.holmUp
      (if v.state = .locked then s.toRunning v ++ [respond vf true] else [respond vf false])
  | none => .error (.event "START_INTERFACE_REQUEST")

def execStartInterfaceRequest (vf : Nat) (s : State) := run (planStart vf s) s

/-- STOP_INTERFACE_REQUEST acts as VD.RESET; where that is denied, nothing changes and the response is an error. -/
def planStop (vf : Nat) (s : State) : Plan :=
  match s.vdAt vf with
  | some v =>
    when "STOP_INTERFACE_REQUEST" s.holmUp
      (if (s.resetDenied v).isNone then s.resetVd v ++ [respond vf true] else [respond vf false])
  | none => .error (.event "STOP_INTERFACE_REQUEST")

def execStopInterfaceRequest (vf : Nat) (s : State) := run (planStop vf s) s

/-- A function-level reset acts as VD.RESET where that is allowed. -/
def planFlr (vf : Nat) (s : State) : Plan :=
  match s.vdAt vf with
  | some v => when "FUNCTION_LEVEL_RESET" s.holmUp (if (s.resetDenied v).isNone then s.resetVd v else [])
  | none => .error (.event "FUNCTION_LEVEL_RESET")

def execFunctionLevelReset (vf : Nat) (s : State) := run (planFlr vf s) s

def planVdError (vf : Nat) (s : State) : Plan :=
  match s.vdAt vf with
  | some v => when "VD_UNCORRECTABLE_ERROR" s.holmUp (s.failVd v)
  | none => .error (.event "VD_UNCORRECTABLE_ERROR")

def execVdUncorrectableError (vf : Nat) (s : State) := run (planVdError vf s) s

/-! ### Other modules (R16, R53, R54) -/

/-- The Holm of another module asks to join its virtual device to W = vf: W joins in a state and under a policy that allow
it, with the same tenant key, when its DEVICES names that module and the other side agrees. It answers once no access translated
under a join that this one replaces is left (R149). -/
def planPeerJoin (vf dev peerVf : Nat) (identity tenantKey : BitVec 512) (peerOk : Bool) (s : State) : Plan :=
  when "PEER_JOIN_REQUEST"
    (s.holmUp && decide (dev < 32) && s.module.dev.isSome && s.module.dev != some dev && !s.usesJoin vf dev)
    (match s.vdAt vf with
      | some v =>
        if v.state.joinable && v.joinOk && peerOk && tenantKey == BitVec.ofNat 512 (leNat v.boundKey) &&
            (match v.policy with | some b => (polDevices b).contains identity | none => false) then
          [.vd vf (fun v => { v.unjoin dev with joins := (v.unjoin dev).joins ++ [(dev, peerVf)] }), respond vf true]
        else [respond vf false]
      | none => [respond vf false])

def execPeerJoinRequest (vf dev peerVf : Nat) (identity tenantKey : BitVec 512) (peerOk : Bool) (s : State) :=
  run (planPeerJoin vf dev peerVf identity tenantKey peerOk s) s

/-- The other side has ended the join: accesses that this side has translated before still go, later ones fail (R54, R149). -/
def planPeerEnd (vf dev : Nat) (s : State) : Plan :=
  match s.vdAt vf with
  | some v => when "PEER_JOIN_END" (s.holmUp && v.joins.any (·.1 == dev)) [.vd vf (·.unjoin dev)]
  | none => .error (.event "PEER_JOIN_END")

def execPeerJoinEnd (vf dev : Nat) (s : State) := run (planPeerEnd vf dev s) s

/-- A request of another module for a third: it goes on over a ready strait of its route, and is dropped where it would
take a fourth hop or has no route. -/
def planHop (dest : BitVec 5) (hops : Nat) (s : State) : Plan :=
  let gone := decide (3 ≤ hops) || s.noRoute dest.toNat
  when "STRAIT_HOP_FORWARD" (s.module.dev.isSome && s.module.dev != some dest.toNat && (gone || s.routeReady dest.toNat))
    [.module fun m => { m with passed := m.passed ++ [(dest.toNat, !gone)] }]

def execStraitHopForward (dest : BitVec 5) (hops : Nat) (s : State) := run (planHop dest hops s) s

end Sys2Proof.Machine
end

