-- ==== Sys2Proof/Machine/Dispatch.lean ====
section
/-! DEFINITION. The dispatch: one arm for each step of the table, each a direct call of its meaning. -/

namespace Sys2Proof.Machine

def exec (i : Instr) (s : State) : Host.Outcome State Fault Refusal :=
  match i with
  | .recoveryWindowWrite oob off value => Sys2Proof.Machine.execRecoveryWindowWrite oob off value s
  | .holmSelfCheck passed => Sys2Proof.Machine.execHolmSelfCheck passed s
  | .functionReady bit => Sys2Proof.Machine.execFunctionReady bit s
  | .functionFailure bit => Sys2Proof.Machine.execFunctionFailure bit s
  | .narrowTrainingLoss di dj => Sys2Proof.Machine.execNarrowTrainingLoss di dj s
  | .narrowRetrainComplete di dj => Sys2Proof.Machine.execNarrowRetrainComplete di dj s
  | .narrowRetrainFailure di dj => Sys2Proof.Machine.execNarrowRetrainFailure di dj s
  | .hostLinkTraining lanes flit => Sys2Proof.Machine.execHostLinkTraining lanes flit s
  | .thermalSensorRead die tenths => Sys2Proof.Machine.execThermalSensorRead die tenths s
  | .powerMeasurement watts => Sys2Proof.Machine.execPowerMeasurement watts s
  | .mctpCommand entry => Sys2Proof.Machine.execMctpCommand entry s
  | .qtailDoorbell fn value => Sys2Proof.Machine.execQtailDoorbell fn value s
  | .cheadWrite fn value => Sys2Proof.Machine.execCheadWrite fn value s
  | .channelEnable fn => Sys2Proof.Machine.execChannelEnable fn s
  | .channelDisable fn => Sys2Proof.Machine.execChannelDisable fn s
  | .channelRegisterWrite fn off value => Sys2Proof.Machine.execChannelRegisterWrite fn off value s
  | .waysSetComplete vf => Sys2Proof.Machine.execWaysSetComplete vf s
  | .tenantEntryRefused vf entry => Sys2Proof.Machine.execTenantEntryRefused vf entry s
  | .hostTransferPiece vf => Sys2Proof.Machine.execHostTransferPiece vf s
  | .noticePost vf => Sys2Proof.Machine.execNoticePost vf s
  | .pauseLimitExpiry vf => Sys2Proof.Machine.execPauseLimitExpiry vf s
  | .frameWaitExpiry vf frame => Sys2Proof.Machine.execFrameWaitExpiry vf frame s
  | .spdmSessionOpen fn compatible => Sys2Proof.Machine.execSpdmSessionOpen fn compatible s
  | .spdmGetMeasurements fn => Sys2Proof.Machine.execSpdmGetMeasurements fn s
  | .setPolicy vf bytes => Sys2Proof.Machine.execSetPolicy vf bytes s
  | .approveImage vf digest sig => Sys2Proof.Machine.execApproveImage vf digest sig s
  | .startInterfaceRequest vf => Sys2Proof.Machine.execStartInterfaceRequest vf s
  | .stopInterfaceRequest vf => Sys2Proof.Machine.execStopInterfaceRequest vf s
  | .functionLevelReset vf => Sys2Proof.Machine.execFunctionLevelReset vf s
  | .nodePlace die => Sys2Proof.Machine.execNodePlace die s
  | .nodeLaunch n => Sys2Proof.Machine.execNodeLaunch n s
  | .nodeSteal die n => Sys2Proof.Machine.execNodeSteal die n s
  | .priorityAging n => Sys2Proof.Machine.execPriorityAging n s
  | .holdBegin die => Sys2Proof.Machine.execHoldBegin die s
  | .nodeComplete n => Sys2Proof.Machine.execNodeComplete n s
  | .sliceExpiry atoll => Sys2Proof.Machine.execSliceExpiry atoll s
  | .preemptRequest vf core => Sys2Proof.Machine.execPreemptRequest vf core s
  | .contextSaveComplete vf core => Sys2Proof.Machine.execContextSaveComplete vf core s
  | .resume vf => Sys2Proof.Machine.execResume vf s
  | .rampWindow isle => Sys2Proof.Machine.execRampWindow isle s
  | .classFResultVisible vf core slot => Sys2Proof.Machine.execClassFResultVisible vf core slot s
  | .waitConditionMet vf core slot seq => Sys2Proof.Machine.execWaitConditionMet vf core slot seq s
  | .waitTimeout vf core slot seq => Sys2Proof.Machine.execWaitTimeout vf core slot seq s
  | .nonInstruction word0 => Sys2Proof.Machine.execNonInstruction word0 s
  | .faultRecordDelivery vf fid => Sys2Proof.Machine.execFaultRecordDelivery vf fid s
  | .transitEntryFree slice id => Sys2Proof.Machine.execTransitEntryFree slice id s
  | .matrixOpStart vf core => Sys2Proof.Machine.execMatrixOpStart vf core s
  | .matrixOpComplete vf core => Sys2Proof.Machine.execMatrixOpComplete vf core s
  | .mmarExchangeTimeout vf core => Sys2Proof.Machine.execMmarExchangeTimeout vf core s
  | .engineTakeJob isle engine units => Sys2Proof.Machine.execEngineTakeJob isle engine units s
  | .decoderTakeJob die decoder units => Sys2Proof.Machine.execDecoderTakeJob die decoder units s
  | .jobEnd isle job => Sys2Proof.Machine.execJobEnd isle job s
  | .add d a b => Sys2Proof.Machine.execAdd d a b s
  | .sub d a b => Sys2Proof.Machine.execSub d a b s
  | .mul d a b => Sys2Proof.Machine.execMul d a b s
  | .mulh d a b => Sys2Proof.Machine.execMulh d a b s
  | .mulhu d a b => Sys2Proof.Machine.execMulhu d a b s
  | .div d a b => Sys2Proof.Machine.execDiv d a b s
  | .divu d a b => Sys2Proof.Machine.execDivu d a b s
  | .rem d a b => Sys2Proof.Machine.execRem d a b s
  | .remu d a b => Sys2Proof.Machine.execRemu d a b s
  | .and d a b => Sys2Proof.Machine.execAnd d a b s
  | .or d a b => Sys2Proof.Machine.execOr d a b s
  | .xor d a b => Sys2Proof.Machine.execXor d a b s
  | .shl d a b => Sys2Proof.Machine.execShl d a b s
  | .shr d a b => Sys2Proof.Machine.execShr d a b s
  | .sra d a b => Sys2Proof.Machine.execSra d a b s
  | .min d a b => Sys2Proof.Machine.execMin d a b s
  | .max d a b => Sys2Proof.Machine.execMax d a b s
  | .minu d a b => Sys2Proof.Machine.execMinu d a b s
  | .maxu d a b => Sys2Proof.Machine.execMaxu d a b s
  | .cmp d a b cond => Sys2Proof.Machine.execCmp d a b cond s
  | .sel d a b c => Sys2Proof.Machine.execSel d a b c s
  | .clz d a => Sys2Proof.Machine.execClz d a s
  | .ctz d a => Sys2Proof.Machine.execCtz d a s
  | .popc d a => Sys2Proof.Machine.execPopc d a s
  | .bfx d a pos len1 => Sys2Proof.Machine.execBfx d a pos len1 s
  | .bfi d a pos len1 => Sys2Proof.Machine.execBfi d a pos len1 s
  | .waddr d a b mode => Sys2Proof.Machine.execWaddr d a b mode s
  | .addi d a imm => Sys2Proof.Machine.execAddi d a imm s
  | .andi d a imm => Sys2Proof.Machine.execAndi d a imm s
  | .ori d a imm => Sys2Proof.Machine.execOri d a imm s
  | .xori d a imm => Sys2Proof.Machine.execXori d a imm s
  | .shli d a imm => Sys2Proof.Machine.execShli d a imm s
  | .shri d a imm => Sys2Proof.Machine.execShri d a imm s
  | .srai d a imm => Sys2Proof.Machine.execSrai d a imm s
  | .ldi d imm => Sys2Proof.Machine.execLdi d imm s
  | .ldl d lit => Sys2Proof.Machine.execLdl d lit s
  | .pand d a b => Sys2Proof.Machine.execPand d a b s
  | .por d a b => Sys2Proof.Machine.execPor d a b s
  | .pxor d a b => Sys2Proof.Machine.execPxor d a b s
  | .pandn d a b => Sys2Proof.Machine.execPandn d a b s
  | .plen d a width => Sys2Proof.Machine.execPlen d a width s
  | .pcnt d a width => Sys2Proof.Machine.execPcnt d a width s
  | .pany d a => Sys2Proof.Machine.execPany d a s
  | .pfirst d a width => Sys2Proof.Machine.execPfirst d a width s
  | .mfcsr d csr => Sys2Proof.Machine.execMfcsr d csr s
  | .mtcsr d a csr => Sys2Proof.Machine.execMtcsr d a csr s
  | .br a cc off => Sys2Proof.Machine.execBr a cc off s
  | .jmp off => Sys2Proof.Machine.execJmp off s
  | .call off => Sys2Proof.Machine.execCall off s
  | .jr a => Sys2Proof.Machine.execJr a s
  | .callr d a => Sys2Proof.Machine.execCallr d a s
  | .trap code => Sys2Proof.Machine.execTrap code s
  | .sleep d te => Sys2Proof.Machine.execSleep d te s
  | .brk code => Sys2Proof.Machine.execBrk code s
  | .mclaim d te => Sys2Proof.Machine.execMclaim d te s
  | .gsub d a => Sys2Proof.Machine.execGsub d a s
  | .evsig d a code => Sys2Proof.Machine.execEvsig d a code s
  | .fwake d a b => Sys2Proof.Machine.execFwake d a b s
  | .ldb d a imm => Sys2Proof.Machine.execLdb d a imm s
  | .ldbu d a imm => Sys2Proof.Machine.execLdbu d a imm s
  | .ldh d a imm => Sys2Proof.Machine.execLdh d a imm s
  | .ldhu d a imm => Sys2Proof.Machine.execLdhu d a imm s
  | .ldw d a imm => Sys2Proof.Machine.execLdw d a imm s
  | .ldwu d a imm => Sys2Proof.Machine.execLdwu d a imm s
  | .ldd d a imm => Sys2Proof.Machine.execLdd d a imm s
  | .stb d a imm => Sys2Proof.Machine.execStb d a imm s
  | .sth d a imm => Sys2Proof.Machine.execSth d a imm s
  | .stw d a imm => Sys2Proof.Machine.execStw d a imm s
  | .std d a imm => Sys2Proof.Machine.execStd d a imm s
  | .ldf d a b te consume => Sys2Proof.Machine.execLdf d a b te consume s
  | .stf d a imm => Sys2Proof.Machine.execStf d a imm s
  | .feclr a b => Sys2Proof.Machine.execFeclr a b s
  | .amo d a b op scope => Sys2Proof.Machine.execAmo d a b op scope s
  | .cas d a b scope => Sys2Proof.Machine.execCas d a b scope s
  | .acqRead d a scope => Sys2Proof.Machine.execAcqRead d a scope s
  | .acqWrite d a scope te => Sys2Proof.Machine.execAcqWrite d a scope te s
  | .rel d a scope => Sys2Proof.Machine.execRel d a scope s
  | .relYield d a scope => Sys2Proof.Machine.execRelYield d a scope s
  | .fence scope => Sys2Proof.Machine.execFence scope s
  | .pref kind a imm => Sys2Proof.Machine.execPref kind a imm s
  | .flush a b => Sys2Proof.Machine.execFlush a b s
  | .inval a b => Sys2Proof.Machine.execInval a b s
  | .vadd f => Sys2Proof.Machine.execVadd f s
  | .vsub f => Sys2Proof.Machine.execVsub f s
  | .vmul f => Sys2Proof.Machine.execVmul f s
  | .vfma f => Sys2Proof.Machine.execVfma f s
  | .vfms f => Sys2Proof.Machine.execVfms f s
  | .vmin f => Sys2Proof.Machine.execVmin f s
  | .vmax f => Sys2Proof.Machine.execVmax f s
  | .vabs f => Sys2Proof.Machine.execVabs f s
  | .vneg f => Sys2Proof.Machine.execVneg f s
  | .vand f => Sys2Proof.Machine.execVand f s
  | .vor f => Sys2Proof.Machine.execVor f s
  | .vxor f => Sys2Proof.Machine.execVxor f s
  | .vandn f => Sys2Proof.Machine.execVandn f s
  | .vshl f => Sys2Proof.Machine.execVshl f s
  | .vshr f => Sys2Proof.Machine.execVshr f s
  | .vsra f => Sys2Proof.Machine.execVsra f s
  | .vmulh f => Sys2Proof.Machine.execVmulh f s
  | .vdiv f => Sys2Proof.Machine.execVdiv f s
  | .vsqrt f => Sys2Proof.Machine.execVsqrt f s
  | .vrcp f => Sys2Proof.Machine.execVrcp f s
  | .vrsq f => Sys2Proof.Machine.execVrsq f s
  | .vexp2 f => Sys2Proof.Machine.execVexp2 f s
  | .vlog2 f => Sys2Proof.Machine.execVlog2 f s
  | .vsint f => Sys2Proof.Machine.execVsint f s
  | .vcost f => Sys2Proof.Machine.execVcost f s
  | .vtanh f => Sys2Proof.Machine.execVtanh f s
  | .vcmp f => Sys2Proof.Machine.execVcmp f s
  | .vsel f => Sys2Proof.Machine.execVsel f s
  | .vmov f => Sys2Proof.Machine.execVmov f s
  | .vbcast f => Sys2Proof.Machine.execVbcast f s
  | .vextr f => Sys2Proof.Machine.execVextr f s
  | .vins f => Sys2Proof.Machine.execVins f s
  | .vcvt f => Sys2Proof.Machine.execVcvt f s
  | .vqnt f => Sys2Proof.Machine.execVqnt f s
  | .vdq f => Sys2Proof.Machine.execVdq f s
  | .vretag f => Sys2Proof.Machine.execVretag f s
  | .vperm f => Sys2Proof.Machine.execVperm f s
  | .vrotl f => Sys2Proof.Machine.execVrotl f s
  | .vzip f => Sys2Proof.Machine.execVzip f s
  | .vunzip f => Sys2Proof.Machine.execVunzip f s
  | .vredadd f => Sys2Proof.Machine.execVredadd f s
  | .vredmax f => Sys2Proof.Machine.execVredmax f s
  | .vredmin f => Sys2Proof.Machine.execVredmin f s
  | .vscan f => Sys2Proof.Machine.execVscan f s
  | .vnzs f => Sys2Proof.Machine.execVnzs f s
  | .vdot4 f => Sys2Proof.Machine.execVdot4 f s
  | .vclz f => Sys2Proof.Machine.execVclz f s
  | .vpopc f => Sys2Proof.Machine.execVpopc f s
  | .vidx f => Sys2Proof.Machine.execVidx f s
  | .vld f => Sys2Proof.Machine.execVld f s
  | .vst f => Sys2Proof.Machine.execVst f s
  | .vlds f => Sys2Proof.Machine.execVlds f s
  | .vsts f => Sys2Proof.Machine.execVsts f s
  | .vgath f => Sys2Proof.Machine.execVgath f s
  | .vscat f => Sys2Proof.Machine.execVscat f s
  | .vldf f => Sys2Proof.Machine.execVldf f s
  | .vstf f => Sys2Proof.Machine.execVstf f s
  | .vamo f => Sys2Proof.Machine.execVamo f s
  | .qwait f => Sys2Proof.Machine.execQwait f s
  | .qsig f => Sys2Proof.Machine.execQsig f s
  | .barArriveWait f => Sys2Proof.Machine.execBarArriveWait f s
  | .barArrive f => Sys2Proof.Machine.execBarArrive f s
  | .barWait f => Sys2Proof.Machine.execBarWait f s
  | .msend f => Sys2Proof.Machine.execMsend f s
  | .mrecv f => Sys2Proof.Machine.execMrecv f s
  | .mprobe f => Sys2Proof.Machine.execMprobe f s
  | .mins f => Sys2Proof.Machine.execMins f s
  | .mset f => Sys2Proof.Machine.execMset f s
  | .mrem f => Sys2Proof.Machine.execMrem f s
  | .mprobev f => Sys2Proof.Machine.execMprobev f s
  | .msetv f => Sys2Proof.Machine.execMsetv f s
  | .mstat f => Sys2Proof.Machine.execMstat f s
  | .miter f => Sys2Proof.Machine.execMiter f s
  | .wfeed f => Sys2Proof.Machine.execWfeed f s
  | .wread f => Sys2Proof.Machine.execWread f s
  | .wlen f => Sys2Proof.Machine.execWlen f s
  | .badd f => Sys2Proof.Machine.execBadd f s
  | .bload f => Sys2Proof.Machine.execBload f s
  | .bdrain f => Sys2Proof.Machine.execBdrain f s
  | .tld f => Sys2Proof.Machine.execTld f s
  | .tst f => Sys2Proof.Machine.execTst f s
  | .tzero f => Sys2Proof.Machine.execTzero f s
  | .mma f => Sys2Proof.Machine.execMma f s
  | .mmas f => Sys2Proof.Machine.execMmas f s
  | .mmar f => Sys2Proof.Machine.execMmar f s
  | .adrain f => Sys2Proof.Machine.execAdrain f s
  | .ald f => Sys2Proof.Machine.execAld f s
  | .msync f => Sys2Proof.Machine.execMsync f s
  | .cpy f => Sys2Proof.Machine.execCpy f s
  | .cpyBrdx f => Sys2Proof.Machine.execCpyBrdx f s
  | .cpyBrdc f => Sys2Proof.Machine.execCpyBrdc f s
  | .cpyMig f => Sys2Proof.Machine.execCpyMig f s
  | .cpy2 f => Sys2Proof.Machine.execCpy2 f s
  | .cgath f => Sys2Proof.Machine.execCgath f s
  | .cscat f => Sys2Proof.Machine.execCscat f s
  | .cdec f => Sys2Proof.Machine.execCdec f s
  | .cfill f => Sys2Proof.Machine.execCfill f s
  | .bxf f => Sys2Proof.Machine.execBxf f s
  | .cpoll f => Sys2Proof.Machine.execCpoll f s
  | .cwait f => Sys2Proof.Machine.execCwait f s
  | .cwpos f => Sys2Proof.Machine.execCwpos f s
  | .ccancel f => Sys2Proof.Machine.execCcancel f s
  | .cred f => Sys2Proof.Machine.execCred f s
  | .vdUncorrectableError vf => Sys2Proof.Machine.execVdUncorrectableError vf s
  | .peerJoinRequest vf dev peerVf identity tenantKey peerOk => Sys2Proof.Machine.execPeerJoinRequest vf dev peerVf identity tenantKey peerOk s
  | .peerJoinEnd vf dev => Sys2Proof.Machine.execPeerJoinEnd vf dev s
  | .straitHopForward dest hops => Sys2Proof.Machine.execStraitHopForward dest hops s
  | .powerOnBoot => Sys2Proof.Machine.execPowerOnBoot s
  | .recoveryImageCheck => Sys2Proof.Machine.execRecoveryImageCheck s
  | .holmUncorrectableError => Sys2Proof.Machine.execHolmUncorrectableError s
  | .moduleResetTakesEffect => Sys2Proof.Machine.execModuleResetTakesEffect s
  | .thermalStep => Sys2Proof.Machine.execThermalStep s
  | .thermalShutdown => Sys2Proof.Machine.execThermalShutdown s
  | .heartbeat => Sys2Proof.Machine.execHeartbeat s
  | .heartbeatGapExpiry => Sys2Proof.Machine.execHeartbeatGapExpiry s
  | .ownerClaim => Sys2Proof.Machine.execOwnerClaim s
  | .ownerHandover => Sys2Proof.Machine.execOwnerHandover s
  | .ownerAccept => Sys2Proof.Machine.execOwnerAccept s
  | .handoverTimeout => Sys2Proof.Machine.execHandoverTimeout s
  | .mctpClaim => Sys2Proof.Machine.execMctpClaim s
  | .mctpHeartbeat => Sys2Proof.Machine.execMctpHeartbeat s
  | .mctpHandover => Sys2Proof.Machine.execMctpHandover s
  | .mctpAccept => Sys2Proof.Machine.execMctpAccept s
  | .controlEntryRefused => Sys2Proof.Machine.execControlEntryRefused s
  | .vdCreate => Sys2Proof.Machine.execVdCreate s
  | .vdDestroy => Sys2Proof.Machine.execVdDestroy s
  | .vdPause => Sys2Proof.Machine.execVdPause s
  | .vdResume => Sys2Proof.Machine.execVdResume s
  | .vdEvict => Sys2Proof.Machine.execVdEvict s
  | .vdRestore => Sys2Proof.Machine.execVdRestore s
  | .vdReset => Sys2Proof.Machine.execVdReset s
  | .frameGrant => Sys2Proof.Machine.execFrameGrant s
  | .frameReclaim => Sys2Proof.Machine.execFrameReclaim s
  | .sliceSet => Sys2Proof.Machine.execSliceSet s
  | .atollSplit => Sys2Proof.Machine.execAtollSplit s
  | .atollMerge => Sys2Proof.Machine.execAtollMerge s
  | .waysSet => Sys2Proof.Machine.execWaysSet s
  | .powerCap => Sys2Proof.Machine.execPowerCap s
  | .query => Sys2Proof.Machine.execQuery s
  | .domainSet => Sys2Proof.Machine.execDomainSet s
  | .routeSet => Sys2Proof.Machine.execRouteSet s
  | .moduleReset => Sys2Proof.Machine.execModuleReset s
  | .vdJoin => Sys2Proof.Machine.execVdJoin s
  | .progLoad => Sys2Proof.Machine.execProgLoad s
  | .memWrite => Sys2Proof.Machine.execMemWrite s
  | .memRead => Sys2Proof.Machine.execMemRead s
  | .graphSubmit => Sys2Proof.Machine.execGraphSubmit s
  | .hostWindow => Sys2Proof.Machine.execHostWindow s
  | .attest => Sys2Proof.Machine.execAttest s
  | .routeWaitExpiry => Sys2Proof.Machine.execRouteWaitExpiry s
  | .classVReply => Sys2Proof.Machine.execClassVReply s
  | .faultMessageAtSlice => Sys2Proof.Machine.execFaultMessageAtSlice s
  | .fwakeAtSlice => Sys2Proof.Machine.execFwakeAtSlice s
  | .wakeArrival => Sys2Proof.Machine.execWakeArrival s
  | .tlbInvalidation => Sys2Proof.Machine.execTlbInvalidation s
  | .faultSliceCsrAccess => Sys2Proof.Machine.execFaultSliceCsrAccess s
  | .memoryAccessAtPlace => Sys2Proof.Machine.execMemoryAccessAtPlace s
  | .atomicAtPlace => Sys2Proof.Machine.execAtomicAtPlace s
  | .migrationForward => Sys2Proof.Machine.execMigrationForward s
  | .syncOpAtObject => Sys2Proof.Machine.execSyncOpAtObject s
  | .haloPush => Sys2Proof.Machine.execHaloPush s
  | .barrierArrivalAtHome => Sys2Proof.Machine.execBarrierArrivalAtHome s
  | .messageArrival => Sys2Proof.Machine.execMessageArrival s
  | .qsigAddAtCore => Sys2Proof.Machine.execQsigAddAtCore s
  | .mapOpAtHome => Sys2Proof.Machine.execMapOpAtHome s
  | .windowOpAtHome => Sys2Proof.Machine.execWindowOpAtHome s
  | .grantRequestAtHome => Sys2Proof.Machine.execGrantRequestAtHome s
  | .partialSumAtHome => Sys2Proof.Machine.execPartialSumAtHome s
  | .bloadAtHome => Sys2Proof.Machine.execBloadAtHome s
  | .forcedDrainRequest => Sys2Proof.Machine.execForcedDrainRequest s
  | .mmarLanding => Sys2Proof.Machine.execMmarLanding s
  | .bxfChunkAtBank => Sys2Proof.Machine.execBxfChunkAtBank s
  | .eret => Sys2Proof.Machine.execEret s
  | .halt => Sys2Proof.Machine.execHalt s
  | .yield => Sys2Proof.Machine.execYield s
  | .nop => Sys2Proof.Machine.execNop s
  | .mfree => Sys2Proof.Machine.execMfree s
  | .scalarLoadReply => Sys2Proof.Machine.execScalarLoadReply s

end Sys2Proof.Machine
end

