-- ==== Sys2Proof/Machine/Issue.lean ====
section
/-! DEFINITION. Issue (R93, R111, R257): the step of the slot that the search of its core reaches first. -/

namespace Sys2Proof.Machine

/-- A slot has issued in this cycle. -/
def Core.issued (c : Core) (slot cycle : Nat) : Core :=
  { c with
    last := slot
    lastCycle := some cycle
    slots := c.slots.map fun x => { x with yielded := x.yielded.map fun y => (y.1, y.2.filter (· != slot)) } }

/-- The destination of a register-register operation (R275), whose result comes a cycle later than those of the other
short instructions. How long a scalar result takes is not architectural (R274): the choice is the model's (DESIGN CHOICE, log
entry 118). -/
def lateResult (i : Instr) : Option SReg :=
  match i with
  | .add d _ _ | .sub d _ _ | .mul d _ _ | .mulh d _ _ | .mulhu d _ _ | .div d _ _ | .divu d _ _ | .rem d _ _
  | .remu d _ _ | .and d _ _ | .or d _ _ | .xor d _ _ | .shl d _ _ | .shr d _ _ | .sra d _ _ | .min d _ _ | .max d _ _
  | .minu d _ _ | .maxu d _ _ | .cmp d _ _ _ | .sel d _ _ _ | .clz d _ | .ctz d _ | .popc d _ => some d
  | _ => none

/-- The state in which an instruction of a slot takes effect: its words have been fetched, and it names the issuing
thread. -/
def State.issueState (s : State) (t : Tid) (i : Instr) (es : List Eff) : State :=
  applyAll (es ++ [.core t.vf t.core (·.issued t.slot s.cycle),
    .slot t fun x => { x with away := none, yielded := none, late := (lateResult i).map (·, s.cycle + 2) }, .cur t]) s

/-- The amount of a semaphore field subtracted (R257). -/
def State.takeAmount (s : State) (t : Tid) (i : Instr) : State := applyAll (s.takeField t i) s

/-- An instruction of one thread; one whose wait has run out writes TIMEOUT (R257). Where it has not begun, because something
it reads first faults, nothing has been subtracted; a job-creating command keeps what its wait has taken (R386). -/
def State.execOne (s : State) (t : Tid) (i : Instr) : Host.Outcome State Fault Refusal :=
  if (s.slotOf t).lapsed then .next (applyAll ((s.codeAt t).toList.map fun w => Eff.slot t (·.giveUp w)) s) else
  match exec i (s.takeAmount t i) with
  | .next s' => if (s'.slotOf t).took.isSome && !createsJob i then exec i s else .next s'
  | r => r

/-- The words of an instruction. -/
def instrWords (i : Instr) : Nat :=
  match i with
  | .ldl .. => 3
  | .nonInstruction w => wordCount w
  | _ =>
    match lmOf i, lvOf i with
    | some f, _ => LM.words f
    | none, some _ => 3
    | none, none => 1

/-- A follower's part of an instruction: it takes the leader's branch, whatever its own registers hold (R111). -/
def State.followOne (s : State) (t : Tid) (i : Instr) (pc : Word) : Host.Outcome State Fault Refusal :=
  let go (g : Slot → Slot) : Host.Outcome State Fault Refusal :=
    .next (applyAll [.slot t fun x => { (g x).advance pc with traps := x.traps }] s)
  match i with
  | .br .. | .jmp .. | .jr .. => go id
  | .callr d _ => go fun x => x.setS d (x.after 1)
  | _ =>
    match s.execOne t i with
    | .next s' =>
      let x := s'.slotOf t
      let same := x.traps == (s.slotOf t).traps && x.seq != (s.slotOf t).seq && x.halting.isNone && x.live
      .next (if same then applyAll [.slot t fun x => { x with pc := pc }] s' else s')
    | r => r

/-- Members one after another: the leader by itself, the others behind it. -/
def State.followAll (i : Instr) (pc : Word) : List Tid → State → Host.Outcome State Fault Refusal
  | [], s => .next s
  | t :: ts, s =>
    match (s.issueState t i []).followOne t i pc with
    | .next s' => State.followAll i pc ts s'
    | r => r

/-- Some members by themselves. -/
def State.execEach (i : Instr) : List Tid → State → Host.Outcome State Fault Refusal
  | [], s => .next s
  | t :: ts, s =>
    match (s.issueState t i []).execOne t i with
    | .next s' => State.execEach i ts s'
    | r => r

/-- Members with no cause of their own trap with that of the lowest-ranked one that has, and with TRAPVAL zero (R111). -/
def trapEach (i : Instr) (cause : Nat) : List Tid → State → State
  | [], s => s
  | t :: ts, s =>
    let s' := s.issueState t i []
    trapEach i cause ts (applyAll (trapAt s' t cause 0 (instrWords i) false true false) s')

/-- A gang's instruction (R84, R111): every member executes it on its own registers. Where one traps, all do; where one
cannot begin because something it reads first faults, none does. -/
def State.issueGang (s : State) (i : Instr) (t : Tid) (ts : List Tid) : Host.Outcome State Fault Refusal :=
  match s.execOne t i with
  | .next s1 =>
    match s1.followAll i (s1.slotOf t).pc ts with
    | .next s2 =>
      let trapped (u : Tid) : Bool := (s2.slotOf u).traps != (s.slotOf u).traps
      let behind (u : Tid) : Bool := !trapped u && (s2.slotOf u).seq == (s.slotOf u).seq
      let late := (t :: ts).filter behind
      if late ≠ [] then s.execEach i late
      else
        match (t :: ts).find? trapped with
        | none => .next s2
        | some u =>
          match s.execEach i ((t :: ts).filter trapped) with
          | .next s3 =>
            .next (trapEach i (s2.slotOf u).trapcause.toNat ((t :: ts).filter (!trapped ·)) s3)
          | r => r
    | r => r
  | r => r

/-- The slots of a core in the order in which the search visits them (R93). -/
def Core.order (c : Core) : List Nat := (List.range 4).map fun k => (c.last + 1 + k) % 4

/-- No slot that the search visits before this one has an instruction to issue (R93). -/
def State.searched (s : State) (t : Tid) : Bool :=
  ((s.coreAt t.vf t.core).order.takeWhile (· != t.slot)).all fun k =>
    match s.offer ⟨t.vf, t.core, k⟩ with | .go .. => false | _ => true

/-- A slot's step; none when it is not ready, or when the search reaches another ready slot first. -/
def State.issue (s : State) (t : Tid) : Option (Host.Outcome State Fault Refusal) :=
  match s.offer t with
  | .blocked => none
  | .startWait ts => some (.next (applyAll (ts.map fun u => Eff.slot u fun x => { x with semWait := some s.cycle }) s))
  | .other es => some (.next (applyAll es s))
  | .go i es =>
    if !s.searched t then none
    else
      let s' := s.issueState t i es
      match s.members t with
      | _ :: u :: us => some (s'.issueGang i t (u :: us))
      | _ => some (s'.execOne t i)

end Sys2Proof.Machine
end

