-- ==== Sys2Proof/Machine/Serve.lean ====
section
/-! DEFINITION. The Holm at its channels (R36, R37, R39, R40, R53): which command it reads next, and the step that reads it
and runs it. -/

namespace Sys2Proof.Machine

/-- The next state of a step that had something to do. -/
def nextOf (o : Host.Outcome State Fault Refusal) : Option State :=
  match o with
  | .next s => if s.still then none else some s
  | _ => none

/-! ### The control channel -/

/-- The command of a 64-byte entry (Table 2.5). -/
def cmdOf (oob : Bool) (e : Nat) : Cmd where
  oob := oob
  code := BitVec.ofNat 16 e
  flags := BitVec.ofNat 16 (bits e 31 16)
  tag := BitVec.ofNat 32 (bits e 63 32)
  p0 := BitVec.ofNat 64 (bits e 127 64)
  p1 := BitVec.ofNat 64 (bits e 191 128)
  p2 := BitVec.ofNat 64 (bits e 255 192)
  p3 := BitVec.ofNat 64 (bits e 319 256)
  p4 := BitVec.ofNat 64 (bits e 383 320)
  p5 := BitVec.ofNat 64 (bits e 447 384)
  p6 := BitVec.ofNat 64 (bits e 511 448)

/-- The step that a control command is (Table 2.7); an unknown code or a flag other than bit 0 is refused (R39). -/
def controlInstr (c : Cmd) : Instr :=
  if c.flags.toNat / 2 ≠ 0 then .controlEntryRefused
  else
    match c.code.toNat with
    | 0x01 => .vdCreate
    | 0x02 => .vdDestroy
    | 0x03 => .vdPause
    | 0x04 => .vdResume
    | 0x05 => .vdEvict
    | 0x06 => .vdRestore
    | 0x07 => .vdReset
    | 0x08 => .frameGrant
    | 0x09 => .frameReclaim
    | 0x0A => .sliceSet
    | 0x0B => .atollSplit
    | 0x0C => .atollMerge
    | 0x0D => .waysSet
    | 0x0E => .powerCap
    | 0x0F => .query
    | 0x10 => .domainSet
    | 0x11 => .routeSet
    | 0x12 => .moduleReset
    | 0x13 => .vdJoin
    | _ => .controlEntryRefused

/-- The control ring has an entry that may be read: its record has room (R37). -/
def State.ringNext (s : State) : Bool :=
  let c := s.module.control
  c.runs && decide (0 < c.pending) && decide (0 < c.room)

/-- The MCTP entry whose turn it is: no command of the ring that arrived before it is left (R53). -/
def State.mctpNext (s : State) : Option (BitVec 512) :=
  match s.module.oob with
  | (n, e) :: _ => if n = 0 ∨ !s.module.control.runs ∨ s.module.control.pending = 0 then some e else none
  | [] => none

/-- A command is read from the ring. -/
def State.readRing (s : State) : State :=
  let c := s.module.control
  applyAll
    [.cmd (cmdOf false (leNat (readBytes s.host (c.qbase + 64 * c.qhead) 64))),
     .module fun m =>
      { m with control := m.control.take, serving := 1, oob := m.oob.map fun e => (e.1 - 1, e.2) }] s

/-- A command is taken from the MCTP entries. -/
def State.takeMctp (s : State) (e : BitVec 512) : State :=
  applyAll [.cmd (cmdOf true e.toNat), .module fun m => { m with serving := 1, oob := m.oob.drop 1 }] s

/-- The control channel's next step: the command under way goes on, or the next one is read and run. -/
def State.serveControl (s : State) : Option State :=
  if s.module.serving ≠ 0 then nextOf (exec (controlInstr s.cmd) s)
  else if !s.holmServes then none
  else
    match s.mctpNext with
    | some e => let s' := s.takeMctp e; nextOf (exec (controlInstr s'.cmd) s')
    | none =>
      if s.ringNext then let s' := s.readRing; nextOf (exec (controlInstr s'.cmd) s') else none

/-- The control channel has a command that the Holm could read now. -/
def State.controlWaits (s : State) : Bool := s.module.serving == 0 && (s.mctpNext.isSome || s.ringNext)

/-! ### A tenant's channel -/

/-- The step that a tenant command is (Table 2.8). -/
def tenantInstr (code : Nat) : Option Instr :=
  match code with
  | 0x40 => some .progLoad
  | 0x41 => some .memWrite
  | 0x42 => some .memRead
  | 0x43 => some .graphSubmit
  | 0x44 => some .hostWindow
  | 0x45 => some .attest
  | _ => none

/-- An entry at its channel (R40): refused, or accepted, its SEQ counted, and run. -/
def State.tenantEntry (s : State) (v : VD) (b : List Byte) : Option State :=
  let refuse : Option State := nextOf (exec (.tenantEntryRefused v.vf (BitVec.ofNat 1024 (leNat b))) s)
  match v.opened b with
  | none => refuse
  | some t =>
    let c := tenantCmd v.vf (entrySeq b) t
    if entrySeq b ≠ v.seqNo ∨ entryClean b = false then refuse
    else
      match tenantInstr c.code.toNat with
      | some i => nextOf (exec i (applyAll [.vd v.vf fun v => { v with seqNo := v.seqNo + 1 }, .tcmd c] s))
      | none => refuse

/-- A channel has something for the Holm to do: commands that end ABORTED, a transfer under way that waits for no frame, or
an entry to be read. The ring of a paused virtual device is not read (R37, R40, R44). -/
def VD.wants (v : VD) : Bool :=
  let c := v.channel
  let record := decide (0 < c.room)
  if v.aborting.isSome then record && (v.transfer.isSome || c.runs)
  else if c.idle then c.runs && decide (0 < c.pending) && record && v.state != .paused
  else record && v.state != .paused && (match v.transfer with | some t => t.frame.isNone | none => false)

/-- The command channel whose turn it is: of those that want service the next one after the last one served (R37). -/
def State.nextChannel (s : State) : Option Nat :=
  let l := ((s.vds.map (·.2)).filter (fun v => (s.ghostOf v.vf).isNone) ++
    s.module.ghosts.filter fun v => s.ghostOf v.vf == some v).filter VD.wants
  let place (v : VD) : Nat := (v.vf + 256 - s.module.lastVf) % 257
  (l.foldl (fun best v =>
    match best with
    | some b => if place v < place b then some v else best
    | none => some v) none).map (·.vf)

/-- A channel's next step: a command that ends ABORTED, a piece of the transfer under way, or the next command read and
run. -/
def State.serveChannel (s : State) (v : VD) : Option State :=
  let c := v.channel
  if v.aborting.isSome then
    (s.abortStep v).map fun (es, w) => applyAll (es ++ [.vd v.vf fun _ => w.settledAborts]) s
  else if c.idle then
    let s' := applyAll [.vd v.vf fun v => { v with channel := v.channel.take }] s
    (s'.vdAt v.vf).bind fun v' => s'.tenantEntry v' (readBytes s.host (c.qbase + 128 * c.qhead) 128)
  else
    match v.transfer with
    | some t =>
      if t.cmd.code = 0x43 then nextOf (exec .graphSubmit (applyAll [.tcmd t.cmd] s))
      else nextOf (exec (.hostTransferPiece v.vf) s)
    | none => none

/-- What a destroyed virtual device has left to end (R50). -/
def State.serveGhost (s : State) (v : VD) : Option State :=
  (s.abortStep v).map fun (es, w) => applyAll (es ++ s.setGhosts v.vf w.channel (modGhost v.vf (fun _ => w) s.module.ghosts)) s

/-- The Holm serves a command channel in its turn; a control command that waits goes first (R37). -/
def State.serveTenant (s : State) (vf : Nat) : Option State :=
  if !s.holmServes || s.controlWaits || s.nextChannel != some vf then none
  else
    let s := (Eff.module fun m => { m with lastVf := vf }).apply s
    match s.ghostOf vf, s.vdAt vf with
    | some v, _ => s.serveGhost v
    | none, some v => s.serveChannel v
    | none, none => none

end Sys2Proof.Machine
end

