-- ==== Sys2Proof/Machine/Agents.lean ====
section
/-! DEFINITION. The agents of the module and the order in which they move (log entry 1): the steps that stand open in a
state, and the one that is taken where nothing names another. -/

namespace Sys2Proof.Machine

/-! ### Packets -/

/-- The step that delivers a packet. -/
def State.delivery (s : State) (f : Flight) : Option Instr :=
  match f.pk with
  | .access .. => some .memoryAccessAtPlace
  | .transit _ p => some (.transitEntryFree p.home f.id)
  | .wanting .. => none
  | .atomic .. => some .atomicAtPlace
  | .vreply => some .classVReply
  | .sreply => some .scalarLoadReply
  | .sync _ => some .syncOpAtObject
  | .halo .. => some .haloPush
  | .barrier .. => some .barrierArrivalAtHome
  | .message .. => some .messageArrival
  | .qsig .. => some .qsigAddAtCore
  | .map _ => some .mapOpAtHome
  | .window _ => some .windowOpAtHome
  | .grant .. => some .grantRequestAtHome
  | .partialSum .. => some .partialSumAtHome
  | .bload .. => some .bloadAtHome
  | .drain .. => some .forcedDrainRequest
  | .fault .. => some .faultMessageAtSlice
  | .fwake .. => some .fwakeAtSlice
  | .wake .. => some .wakeArrival
  | .inval .. => some .tlbInvalidation
  | .csr .. => some .faultSliceCsrAccess
  | .forward .. => some .migrationForward
  | .tile .. => some .mmarLanding
  | .bxf .. => some .bxfChunkAtBank
  | .route dev p _ =>
    if s.routeReady dev then some (match p with | .access _ => .memoryAccessAtPlace | .atomic _ => .atomicAtPlace)
    else some .routeWaitExpiry
  | .walk p => some (match p with | .access _ => .memoryAccessAtPlace | .atomic _ => .atomicAtPlace)

def State.deliver (s : State) (f : Flight) : Option State :=
  (s.delivery f).bind fun i => nextOf (exec i (applyAll [.turn f.id] s))

/-! ### Steps of the agents' own (the rows that no instruction and no packet names) -/

/-- A step of another agent that the model's agenda may name: any row but an instruction, a command or a packet's. -/
def isEvent (i : Instr) : Bool :=
  match i with
  | .recoveryWindowWrite .. | .holmSelfCheck .. | .functionReady .. | .functionFailure .. | .narrowTrainingLoss ..
  | .narrowRetrainComplete .. | .narrowRetrainFailure .. | .hostLinkTraining .. | .thermalSensorRead ..
  | .powerMeasurement .. | .mctpCommand .. | .qtailDoorbell .. | .cheadWrite .. | .channelEnable .. | .channelDisable ..
  | .channelRegisterWrite .. | .waysSetComplete .. | .noticePost .. | .pauseLimitExpiry .. | .frameWaitExpiry ..
  | .spdmSessionOpen .. | .spdmGetMeasurements .. | .setPolicy .. | .approveImage .. | .startInterfaceRequest ..
  | .stopInterfaceRequest .. | .functionLevelReset .. | .nodePlace .. | .nodeLaunch .. | .nodeSteal ..
  | .priorityAging .. | .holdBegin .. | .nodeComplete .. | .sliceExpiry .. | .preemptRequest .. | .contextSaveComplete ..
  | .resume .. | .rampWindow .. | .classFResultVisible .. | .waitConditionMet .. | .waitTimeout ..
  | .faultRecordDelivery .. | .transitEntryFree .. | .matrixOpStart .. | .matrixOpComplete .. | .mmarExchangeTimeout ..
  | .engineTakeJob .. | .decoderTakeJob .. | .jobEnd .. | .vdUncorrectableError .. | .peerJoinRequest ..
  | .peerJoinEnd .. | .straitHopForward .. | .powerOnBoot | .recoveryImageCheck | .holmUncorrectableError
  | .moduleResetTakesEffect | .thermalStep | .thermalShutdown | .heartbeat | .heartbeatGapExpiry | .ownerClaim
  | .ownerHandover | .ownerAccept | .handoverTimeout | .mctpClaim | .mctpHeartbeat | .mctpHandover | .mctpAccept => true
  | _ => false

/-- A cached copy leaves without an effect of its own (R138, R141, R145, R148, R158, R262). -/
def State.evict (s : State) (m : Mover) : List Eff :=
  match m with
  | .evictL1 vf core line => s.cleanL1 vf core (·.line == line) false
  | .evictVisitor vf die line =>
    [dropVisitor vf die line]
  | .evictTlb vf core key => [.core vf core fun c => { c with tlb := c.tlb.filter (·.key != key) }]
  | .evictRegion vf core h => [.core vf core fun c => { c with regions := c.regions.filter (·.handle != h) }]
  | .dropFetched vf core => [.core vf core fun c => { c with fetched := [] }]
  | _ => []

/-- The threads of the module. -/
def State.allThreads (s : State) : List Tid :=
  s.vds.flatMap fun (vf, v) => v.cores.flatMap fun (off, c) =>
    ((List.range 4).filter fun k => (c.slotAt k).live).map fun k => ⟨vf, off, k⟩

/-- A thread moves before its cycle ends: a result is due, a wait is met or has run out, or an instruction can issue (R93,
R96, R106, R107). -/
def State.stirs (s : State) (t : Tid) : Bool :=
  let x := s.slotOf t
  x.pend.any (fun q => decide (q.due ≤ s.cycle)) || x.ops.any (fun o => (s.meet t o).isSome || s.runOut t o) ||
    (s.fieldOut t).isSome || (match s.offer t with | .blocked => false | _ => true)

/-- The operations whose waits can be met now: since when each has waited, its thread and its number. -/
def State.metWaits (s : State) : List (Nat × Tid × Nat) :=
  s.allThreads.flatMap fun t =>
    ((s.slotOf t).ops.filter fun o => o.wait != .none && (s.meet t o).isSome).map fun o => (o.since, t, o.seq)

/-- The wait that is met next: of those that can be, the one that began first (R107); of those that began in one cycle, that of the
lowest function, core and slot (DESIGN CHOICE, log entry 129). -/
def State.nextMet (s : State) : Option Mover :=
  let l := s.metWaits
  (l.find? fun x => l.all fun y => decide (x.1 ≤ y.1)).map fun (_, t, seq) => .event (.waitConditionMet t.vf t.core t.slot seq)

/-- The cycles at which time alone changes what a thread can do: a class F or a scalar result, a timeout, the end of a YIELD's four
cycles or of a fetch's wait for a strait, and the cycle after one in which its core issued. -/
def State.times (s : State) (t : Tid) : List Nat :=
  let x := s.slotOf t
  x.pend.map (·.due) ++ (x.ops.filterMap fun o => o.deadline.map fun d => if o.wait = .latch then d + 1 else d) ++
    (x.semWait.toList.map (· + 2 ^ x.waitlim.toNat)) ++ (x.yielded.toList.map (·.1 + 4)) ++
    (x.late.toList.map (·.2)) ++ (x.away.toList.map (· + hubWait)) ++ (x.hub.toList.map (· + hubWait)) ++ ((s.coreAt t.vf t.core).lastCycle.toList.map (· + 1))

/-- Cycles pass, no further than to the next of those cycles; none pass while a thread has to move. -/
def State.pass (s : State) (n : Nat) : Option State :=
  if s.allThreads.any s.stirs then none
  else
    match least ((s.allThreads.flatMap s.times).filter (s.cycle < ·)) with
    | some d => some ((Eff.tick (min n (d - s.cycle))).apply s)
    | none => some ((Eff.tick n).apply s)

/-- A move of an agent; none when it has none to make. -/
def State.act (s : State) (m : Mover) : Option State :=
  match m with
  | .issue t => (s.issue t).bind nextOf
  | .flight id => (s.flightAt id).bind s.deliver
  | .serveControl => s.serveControl
  | .serveTenant vf => s.serveTenant vf
  | .event i => if isEvent i then nextOf (exec i s) else none
  | .pass n => s.pass n
  | m => some (applyAll (s.evict m) s)

/-- The first of some moves that can be made. -/
def State.actFirst (s : State) : List Mover → Option State
  | [] => none
  | m :: ms =>
    match s.act m with
    | some s' => some s'
    | none => State.actFirst s ms

/-! ### The order where nothing names a mover -/

/-- The slots of every core that hold a thread, each core's in the order of its search (R93). -/
def State.threads (s : State) : List Tid :=
  s.vds.flatMap fun (vf, v) => v.cores.flatMap fun (off, c) =>
    (c.order.filter fun k => (c.slotAt k).live).map fun k => ⟨vf, off, k⟩

/-- Class F results that are due (R96). -/
def State.dueMoves (s : State) : List Mover :=
  (s.threads.filter fun t => (s.slotOf t).pend.any fun q => decide (q.due ≤ s.cycle)).map fun t =>
    .event (.classFResultVisible t.vf t.core t.slot)

/-- Timeouts (R106, R257). -/
def State.timeoutMoves (s : State) : List Mover :=
  s.threads.flatMap fun t =>
    ((s.slotOf t).ops.filter fun o => o.wait != .none || o.deadline.isSome).map (fun o => .event (.waitTimeout t.vf t.core t.slot o.seq)) ++
      if (s.slotOf t).semWait.isSome then [.event (.waitTimeout t.vf t.core t.slot (s.slotOf t).seq)] else []

/-- Turns, saves and launches (chapters 4 and 6). -/
def State.turnMoves (s : State) : List Mover :=
  s.vds.flatMap fun (vf, v) =>
    .event (.resume vf) :: .event (.sliceExpiry v.node) ::
      v.saving.flatMap (fun off => [.event (.preemptRequest vf off), .event (.contextSaveComplete vf off)]) ++
      (v.graphs.flatMap fun g => (List.range g.nodes.length).flatMap fun i =>
        let r : NodeRef := ⟨vf, g.id, i⟩
        [.event (.nodeComplete r), .event (.nodeLaunch r), .event (.priorityAging r)])

/-- The dispatchers (R78 to R80). -/
def State.dispatchMoves (s : State) : List Mover :=
  (List.range 4).flatMap fun d =>
    let die : BitVec 2 := BitVec.ofNat 2 d
    [.event (.nodePlace die), .event (.holdBegin die)] ++
      s.vds.flatMap fun (vf, v) => v.graphs.flatMap fun g => (List.range g.nodes.length).map fun i =>
        .event (.nodeSteal die ⟨vf, g.id, i⟩)

/-- The matrix units, copy engines, decoders and ramp limiters (chapters 20 and 21, R89). -/
def State.unitMoves (s : State) : List Mover :=
  (s.vds.flatMap fun (vf, v) => v.cores.flatMap fun (off, c) =>
    if c.queue = [] then []
    else [.event (.matrixOpComplete vf off), .event (.matrixOpStart vf off), .event (.mmarExchangeTimeout vf off)]) ++
  (s.isles.flatMap fun (i, u) =>
    (u.jobs.filter (·.live)).map (fun j => .event (.jobEnd i j.key)) ++
      if u.jobs.any (·.live) then
        (List.range 4).flatMap fun k => [.event (.engineTakeJob i k 1), .event (.decoderTakeJob (i / 16) k 1)]
      else [])

/-- The ramp limiters' windows. -/
def State.rampMoves (s : State) : List Mover := s.isles.map fun (i, _) => .event (.rampWindow i)

/-- The Holm, the fault slices, and what they wait for (chapters 1 to 3 and 6). -/
def State.holmMoves (s : State) : List Mover :=
  [.serveControl, .event (.noticePost 0), .event .moduleResetTakesEffect, .event .heartbeatGapExpiry,
   .event .handoverTimeout, .event .thermalShutdown, .event .thermalStep] ++
  s.module.ghosts.map (fun v => .serveTenant v.vf) ++
  s.vds.flatMap fun (vf, v) =>
    [.serveTenant vf, .event (.noticePost vf), .event (.waysSetComplete vf), .event (.pauseLimitExpiry vf)] ++
      (v.frameWaits.map fun w => .event (.frameWaitExpiry vf w.1)) ++
      (v.faults.filter (!·.sent)).map fun x => .event (.faultRecordDelivery vf x.fid)

/-- A list turned by a number of places. -/
def turned {α : Type} (n : Nat) (l : List α) : List α := l.drop (n % max 1 l.length) ++ l.take (n % max 1 l.length)

/-- The moves that end a cycle: one of them is made in each, in turn. -/
def State.slowMoves (s : State) : List Mover :=
  turned s.cycle (s.turnMoves ++ s.dispatchMoves ++ s.unitMoves ++ s.rampMoves ++ s.holmMoves)

/-- The module's step where nothing names a mover: within a cycle a wait that can be met, examined at once when its object
has changed (R107), results that are due, timeouts, packets, and the cores' issue; then one move of the slower agents, and
the cycle passes, once no wait can be met. -/
def State.auto (s : State) : State :=
  match s.actFirst (s.nextMet.toList ++ s.dueMoves ++ s.timeoutMoves ++ s.flights.map (fun f => .flight f.id) ++
      s.threads.map .issue) with
  | some s' => s'
  | none =>
    match s.actFirst s.slowMoves with
    | some s' => if s'.nextMet.isSome then s' else (Eff.tick 1).apply s'
    | none => (Eff.tick 1).apply s

/-! ### A program's first instruction -/

/-- The thread that runs the word of `withFetchWord`. -/
def firstTid : Tid := ⟨1, 0, 0⟩

/-- Its slot: a thread of the whole module's atoll, its pc at address 0, in U mode. -/
def firstSlot : Slot := { Slot.idle with live := true }

/-- Its virtual device: function 1 on the root atoll with its turn, and device frame 0 granted as tenant frame 0. -/
def firstVd (cycle : Nat) : VD :=
  { (VD.fresh 1 1 0 0 []) with
    state := .running, tdisp := 2, turnStart := some cycle, started := true, grants := [(⟨0, 0, [0]⟩ : Grant)],
    cores := [(0, Core.zero.setSlot 0 firstSlot)] }

/-- An instruction's words placed where the next step fetches them. -/
def State.placeWord (s : State) (nbits w : Nat) : State :=
  { s with
    vds := put s.vds 1 (firstVd s.cycle)
    mem := writeBytes s.mem 0 (leBytes 20 (w % 2 ^ nbits))
    cur := firstTid
    agenda := [.issue firstTid] }

/-- The step that a mover of the agenda makes: one that it cannot make is passed over. A wait that can be met goes first
(R107). -/
def State.follows (s : State) (m : Mover) (rest : List Mover) : State :=
  let s' : State := { s with agenda := rest, still := false }
  match s'.nextMet.bind s'.act with
  | some t => (Eff.agenda (m :: rest)).apply t
  | none =>
    match s'.act m with
    | some t => t
    | none => s'

end Sys2Proof.Machine
end

