-- ==== Sys2Proof/Machine/Step.lean ====
section
/-! DEFINITION. One step of the module: the mover at the head of the agenda moves, or, where the agenda names none, the
first in the order of Agents.lean. -/

namespace Sys2Proof.Machine

/-- One step. -/
def step (s : State) : Host.Outcome State Fault Refusal :=
  match s.agenda with
  | m :: rest => .next (s.follows m rest)
  | [] => .next (State.auto { s with still := false })

/-- The state with an instruction stored where step fetches the next one: a virtual device with one thread, at whose pc the
words stand (the load that R42, R74 and R83 make in many steps; log entry 1). -/
def State.withFetchWord (s : State) (nbits w : Nat) : State := s.placeWord nbits w

end Sys2Proof.Machine
end

