-- ==== Sys2Proof/Safety.lean ====
section
/-! DEFINITION. The terms in which claims speak: the invariant of a state that a run reaches, what only ever grows, and what
an instruction leaves in its thread. -/

namespace Sys2Proof.Machine

/-! ### The invariant -/

/-- The keys of a table rise strictly: no key is listed twice. -/
def Keyed {α : Type} (l : List (Nat × α)) : Prop := (l.map (·.1)).Pairwise (· < ·)

/-- A state that a run can reach: both memories in canonical form, the full/empty bits a set, packets numbered in the order
sent and all below the next number, one entry for each virtual function, under its number, and for each isle. -/
structure State.Inv (s : State) : Prop where
  mem : Memory.wf s.mem = true
  host : Memory.wf s.host = true
  full : s.full.Pairwise (· < ·)
  flights : (s.flights.map (·.id)).Pairwise (· < ·)
  fresh : ∀ f ∈ s.flights, f.id < s.nextId
  vds : Keyed s.vds
  named : ∀ e ∈ s.vds, e.2.vf = e.1
  isles : Keyed s.isles

/-- What only grows: time since a power-on, and the power-ons (R287), the blown fuses (R27, R28), the packets numbered, the
handle serials issued (R43) and the free values drawn. -/
structure Forward (s t : State) : Prop where
  time : s.powers < t.powers ∨ (s.powers = t.powers ∧ s.cycle ≤ t.cycle)
  fused : s.fused ≤ t.fused
  nextId : s.nextId ≤ t.nextId
  serials : s.serials ≤ t.serials
  free : s.free ≤ t.free

/-! ### Issuing -/

/-- `cur` names a live thread: an instruction can issue. -/
def State.Issues (s : State) : Prop := (s.slotOf s.cur).live = true ∧ (s.vdAt s.cur.vf).isSome = true

/-- The issuing thread's slot. -/
def State.here (s : State) : Slot := s.slotOf s.cur

/-- The state after the issuing thread's slot has changed, and nothing else. -/
def State.onSlot (s : State) (g : Slot → Slot) : State := (Eff.slot s.cur g).apply s

/-- The instruction of the issuing thread is done: `g` has changed its registers, pc stands at `pc` and its number is
counted; nothing else has changed. -/
def State.retired (s : State) (pc : Word) (g : Slot → Slot) : State := s.onSlot fun x => (g x).advance pc

/-- Registers, pc and numbers of a slot, and what it does about traps: everything but its fetch, waits and accesses. -/
def Slot.sameRegs (x y : Slot) : Prop := x.s = y.s ∧ x.v = y.v ∧ x.p = y.p ∧ x.fpflags = y.fpflags

/-- The exception registers of a slot (Table 6.4), with its privilege. -/
def Slot.sameTrap (x y : Slot) : Prop :=
  x.trapcause = y.trapcause ∧ x.trappc = y.trappc ∧ x.trapval = y.trapval ∧ x.trapvec = y.trapvec ∧
    x.trapst = y.trapst ∧ x.priv = y.priv

/-- The mode and identity registers of a slot that no computation changes. -/
def Slot.sameModes (x y : Slot) : Prop :=
  x.rmode = y.rmode ∧ x.waitlim = y.waitlim ∧ x.tdim = y.tdim ∧ x.adim = y.adim ∧ x.rank = y.rank ∧ x.tsize = y.tsize ∧
    x.gen = y.gen

/-- Both memories read as before, byte for byte, and every full/empty bit stands as before. -/
def State.SameMemory (s t : State) : Prop :=
  (∀ a, readCell t.mem a = readCell s.mem a) ∧ (∀ a, readCell t.host a = readCell s.host a) ∧
    ∀ w, setMem t.full w = setMem s.full w

/-- Another slot than `t` (a core has four). -/
def Tid.Other (t u : Tid) : Prop := u.vf ≠ t.vf ∨ u.core ≠ t.core ∨ u.slot % 4 ≠ t.slot % 4

/-- Outside the issuing thread's slot nothing has changed but packets may have been sent: both memories, the full/empty
bits, the module, the isles, time, and every other slot of every core are as before. -/
def State.Apart (s t : State) : Prop :=
  s.SameMemory t ∧ t.module = s.module ∧ t.isles = s.isles ∧ t.cycle = s.cycle ∧
    ∀ u, s.cur.Other u → t.slotOf u = s.slotOf u

/-- An issue that starts accesses changes no byte of memory, no register, no exception register and no other slot. -/
def State.Asked (s t : State) : Prop :=
  s.SameMemory t ∧ s.here.sameRegs (t.slotOf s.cur) ∧ s.here.sameTrap (t.slotOf s.cur) ∧
    s.here.sameModes (t.slotOf s.cur) ∧ ∀ u, s.cur.Other u → t.slotOf u = s.slotOf u

/-- Outside the issuing thread's slot nothing has changed, and no packet was sent. -/
def State.Elsewhere (s t : State) : Prop := s.Apart t ∧ t.flights = s.flights

/-- An operation of the issuing thread is outstanding in `t` under the number it had in `s`, and pc stands behind it. -/
def Started (s t : State) (words : Nat) (o : Op) : Prop :=
  (t.slotOf s.cur).pc = s.here.after words ∧ (t.slotOf s.cur).seq = s.here.seq + 1 ∧ o ∈ (t.slotOf s.cur).ops ∧
    o.seq = s.here.seq

/-- A packet of the issuing instruction is in flight. -/
def Sent (s t : State) (pk : Packet) : Prop :=
  ∃ f ∈ t.flights, f.tid = s.cur ∧ f.seq = s.here.seq ∧ f.pk = pk

/-! ### Accesses -/

/-- Where an access of the issuing thread leads (R131, R318). -/
def State.leads (s : State) (va size : Nat) (kind : AccKind) : Where :=
  (s.resolve s.cur.vf s.cur.core va size kind s.here.priv true).1

/-- A place whose words have full/empty bits (R171), for the issuing thread. -/
def State.hasBits (s : State) (q : Place) : Prop :=
  match q with
  | .window k off => off < (s.coreAt s.cur.vf k).spSize
  | .host _ => False
  | _ => True

/-- A place where an atomic of the issuing thread may act (R332): no tile, accumulator, register, semaphore or inbox, and no
bounded sum. -/
def State.allowsAtomic (s : State) (va : Nat) (q : Place) : Prop :=
  match q with
  | .window _ off => off < 0xB0000
  | .dram _ _ _ bs _ => bs = false
  | .remote .. => s.onSumPage s.cur.vf s.cur.core va = false
  | .host _ => True

/-- A place that a store of so many bytes may reach: a semaphore takes a whole word (Table 7.2). -/
def State.takes (s : State) (bytes : Nat) (q : Place) : Prop :=
  match q with
  | .window k off => off < (s.coreAt s.cur.vf k).spSize ∨ off < 0xB0000 ∨ bytes = 8
  | _ => True

/-- The issuing thread may store where a guarded page asks for a token (R167). -/
def State.mayStore (s : State) (va : Nat) (guarded : Bool) : Prop := guarded = false ∨ s.here.holdsToken va = true

/-- A part may act at a place: a full/empty access on words that have the bit, a store where its bytes are taken, an atomic
where R332 allows one. -/
def State.canAct (s : State) (q : Place) : Part → Prop
  | .access a =>
    match a.op with
    | .storeFull | .setEmpty | .loadFull _ => s.hasBits q
    | .store => s.takes a.sel.length q
    | _ => True
  | .atomic r => s.allowsAtomic r.va q

/-- A store or an atomic on a guarded page is covered by a token: a store at the effective address of each element that it
stores. -/
def State.covered (s : State) (g : Bool) : Part → Prop
  | .access a =>
    match a.op with
    | .store | .storeFull => ∀ i ∈ a.sel, (a.va + i) % max 1 a.elem = 0 → s.mayStore (a.va + i) g
    | _ => True
  | .atomic r => s.mayStore r.va g

/-- Every part of a list leads to a place where it may act: none to a fault or a missing frame. -/
def State.AllLead (s : State) (ps : List Part) : Prop :=
  ∀ p ∈ ps, ∃ q g, s.leads p.va p.size p.kind = .at q g ∧ s.canAct q p ∧ s.covered g p

/-- What a thread's core reads as the `n` bytes at a place (R132, R138, R141): a scratchpad's bytes; its L1 line's, a
visitor line's of its die or the home's; for a bounded sum, a map, a window or the region table the home's alone, once the
core's own dirty bytes of the line have reached it; host memory's; none of them where a private layout holds them. -/
def State.sees (s : State) (t : Tid) (va : Nat) (p : Place) (n : Nat) (b : List Byte) : Prop :=
  let bytes (x : BitVec 1024) (o : Nat) : List Byte := (List.range n).map fun i => byteAt x.toNat (o + i)
  match p, s.vdAt t.vf with
  | .window c off, _ => s.slabAt t.vf p = false ∧ off + n ≤ (s.coreAt t.vf c).spSize ∧
      b = readBytes (s.coreAt t.vf c).sram off n
  | .host h, _ => s.slabAt t.vf p = false ∧ b = readBytes s.host h n
  | .dram pa _ _ bs _, some v =>
    if bs = true ∨ s.uncached v va pa = true then
      s.slabAt t.vf p = false ∧ b = readBytes (applyAll (s.expel t pa) s).mem pa n
    else
      pa % 128 + n ≤ 128 ∧
        match (s.coreAt t.vf t.core).l1.find? (·.line == pa / 128) with
        | some l => b = bytes l.data (pa % 128)
        | none =>
          match v.visitors.find? fun x => x.die == dieOf (v.coreNo t.core) && x.line == pa / 128 with
          | some x => if dieOf (v.coreNo t.core) = homeOf pa / 32 then b = readBytes s.mem pa n
            else b = bytes x.data (pa % 128)
          | none => b = readBytes s.mem pa n
  | _, _ => False

/-- What a register holds after results have been written in order: the last one for it, or what it held. -/
def lastOf {α β : Type} [BEq α] (l : List (α × β)) (r : α) (old : β) : β :=
  ((l.filter (·.1 == r)).getLast?.map (·.2)).getD old

/-- Host memory reads as before. -/
def State.SameHost (s t : State) : Prop := ∀ a, readCell t.host a = readCell s.host a

/-- Bytes of L1 lines have gone to memory: a byte that has changed is a dirty byte of one of the lines and now as that line
has it, each line's dirty bytes have been written, and nothing else in memory has changed (R158). -/
def State.WroteBack (s t : State) (ls : List L1Line) : Prop :=
  (∀ x, readCell t.mem x = readCell s.mem x ∨ ∃ l ∈ ls, x / 128 = l.line ∧ l.dirty.getLsbD (x % 128) = true ∧
    readCell t.mem x = byteAt l.data.toNat (x % 128)) ∧
  (∀ l ∈ ls, (∀ k ∈ ls, k.line = l.line → k = l) → ∀ j < 128, l.dirty.getLsbD j = true →
    readCell t.mem (l.line * 128 + j) = byteAt l.data.toNat j) ∧
  s.SameHost t ∧ ∀ w, setMem t.full w = setMem s.full w

/-- A byte of memory holds what a core had left dirty in its copy of that line, which has reached the home. -/
def State.CameHome (s t : State) (vf core b : Nat) : Prop :=
  ∃ l ∈ (s.coreAt vf core).l1, b / 128 = l.line ∧ l.dirty.getLsbD (b % 128) = true ∧
    readCell t.mem b = byteAt l.data.toNat (b % 128)

/-- A byte of memory is as it was, but for what a thread's own core had left dirty in its copy of that line. -/
def State.KeptBut (s t : State) (u : Tid) (line b : Nat) : Prop :=
  readCell t.mem b = readCell s.mem b ∨ b / 128 = line ∧ s.CameHome t u.vf u.core b

/-- What a write of some bytes at `pa` leaves of memory (R138, R158): those bytes, and every other byte as it was, or, on that
line, as the storing core had left it dirty. A write to the region table makes the lines of the virtual device leave that
L1 must not hold any more: what they have dirty comes home as well. -/
def State.Stored (s t : State) (u : Tid) (pa : Nat) (bs : List (Nat × Byte)) : Prop :=
  let table := s.atTable u.vf (.dram pa 0 false false none) bs
  (∀ e ∈ bs, (table = true → ∀ c, ∀ l ∈ (s.coreAt u.vf c).l1, l.line = (pa + e.1) / 128 →
      c = u.core ∧ l.line = pa / 128 ∨ l.dirty.getLsbD ((pa + e.1) % 128) = false) → readCell t.mem (pa + e.1) = e.2) ∧
  (∀ b, (∀ e ∈ bs, b ≠ pa + e.1) → s.KeptBut t u (pa / 128) b ∨ table = true ∧ ∃ c, s.CameHome t u.vf c b)

/-- Around `n` bytes at `pa` memory is as it was. Where they lie in the region table, what lines of the virtual device have dirty
that L1 must not hold any more may have come home as well (R138). -/
def State.KeptAround (s t : State) (u : Tid) (pa n : Nat) : Prop :=
  ∀ b, b < pa ∨ pa + n ≤ b → readCell t.mem b = readCell s.mem b ∨
    s.atTable u.vf (.dram pa 0 false false none) ((List.range n).map fun i => (i, 0)) = true ∧ ∃ c, s.CameHome t u.vf c b

/-- A release of the issuing thread in its core: at core scope no byte changes, else every dirty byte of L1 is written
back (Table 8.4). -/
def State.Released (s t : State) (scope : Nat) : Prop :=
  (scope = 0 → s.SameMemory t) ∧ (scope ≠ 0 → s.WroteBack t (s.coreAt s.cur.vf s.cur.core).l1)

/-- No register of the issuing thread and no other slot has changed. -/
def State.Kept (s t : State) : Prop :=
  s.here.sameRegs (t.slotOf s.cur) ∧ s.here.sameTrap (t.slotOf s.cur) ∧ s.here.sameModes (t.slotOf s.cur) ∧
    ∀ u, s.cur.Other u → t.slotOf u = s.slotOf u

/-- A packet is under delivery whose operation waits for nothing else and returns one scalar, to `r`. -/
def State.Delivers (s : State) (k : Flight) (o : Op) (r : SReg) : Prop :=
  s.Inv ∧ s.delivering = some k ∧ (s.slotOf k.tid).ops.find? (·.seq == k.seq) = some o ∧ o.left = 1 ∧
    ∃ w, o.s = [(r, w)]

/-- A part comes to its place, by an instruction of the network: delivered, where it does not pass through the transit buffer, or
from its entry of that buffer, where none of its core is older in that slice (R66). -/
def State.Comes (s : State) (i : Instr) (k : Flight) (w : Part) (p : Place) : Prop :=
  (s.delivering = some k ∧ k.pk = w.packet p ∧ s.throughTransit k p = false ∧
    i = match w with | .access _ => .memoryAccessAtPlace | .atomic _ => .atomicAtPlace) ∨
  (s.flightAt k.id = some k ∧ k.pk = .transit w p ∧ s.waiting k = false ∧ i = .transitEntryFree p.home k.id ∧
    ∀ g ∈ s.flights, k.id ≤ g.id ∨ g.tid.core ≠ k.tid.core ∨ g.tid.vf ≠ k.tid.vf ∨
      ∀ b q, g.pk = .transit b q → q.home ≠ p.home)

/-- The packet has been performed: it is gone, its operation has nothing left to wait for, and the reply has left. -/
def Performed (t : State) (k : Flight) (p : Op → Prop) : Prop :=
  (∀ j ∈ t.flights, j.id ≠ k.id) ∧ (∃ o ∈ (t.slotOf k.tid).ops, o.seq = k.seq ∧ o.left = 0 ∧ p o) ∧
    ∃ j ∈ t.flights, j.tid = k.tid ∧ j.seq = k.seq ∧ (j.pk = .sreply ∨ j.pk = .vreply)

/-- The packet has been performed and its operation returns `w` to `r`. -/
def Answered (t : State) (k : Flight) (r : SReg) (w : Word) : Prop := Performed t k fun o => o.s = [(r, w)]

/-- The state once the descriptor of a handle is in the core's region cache (R145). -/
def State.looked (s : State) (t : Tid) (h : Nat) : State :=
  applyAll ((s.lookRegion t.vf t.core h).effs t.vf t.core h) s

/-- An aligned word of device memory that a packet of `t` finds at an address: no map or window holds it, no line of any L1
has a copy, and its page does not migrate. -/
def State.objectAt (s : State) (t : Tid) (va pa : Nat) : Prop :=
  pa % 64 = 0 ∧ (∃ cls cmp bs g es, s.resolve t.vf t.core va 8 .atomic (s.slotOf t).priv true =
    (.at (.dram pa cls cmp bs none) g, es)) ∧
  (∀ v, s.vdAt t.vf = some v → ∀ tpa, tenantOf v.grants pa = some tpa → v.inSlab tpa = false) ∧
  ∀ c, ∀ l ∈ (s.coreAt t.vf c).l1, l.line ≠ pa / 128

/-- Every part of a list has left for its place. -/
def AllSent (s t : State) (ps : List Part) : Prop :=
  ∀ p ∈ ps, ∃ q g, s.leads p.va p.size p.kind = .at q g ∧ Sent s t (s.outPacket p q)

/-- A control command has completed: its record stands at CI of the completion ring, its interrupt has been raised if it asks
for one, or, over MCTP, its record has been returned; the channel serves no command (R37, R39, R53). -/
def State.Recorded (s t : State) (status reason : Nat) (r0 r1 : Word) : Prop :=
  let c := s.module.control
  let r := completion s.cmd.tag.toNat status reason r0 r1
  t.module.serving = 0 ∧ t.module.control.idle = true ∧
    if s.cmd.oob = true then t.module.replies.getLast? = some r
    else readBytes t.host (c.cbase + 32 * c.ci) 32 = setByte r 6 (if c.phase = true then 1 else 0) ∧
      t.module.control.ci = (c.ci + 1) % 2 ^ c.csize ∧
      (s.cmd.flags.getLsbD 0 = true → t.module.irqs.getLast? = some 0)

/-- A tenant command has completed: its sealed record stands at CI of the channel's completion ring, its interrupt has been
raised if it asks for one, and the channel is idle (R37, R40). -/
def State.Answers (t : State) (v : VD) (c : TCmd) (status reason : Nat) (r0 r1 : Word) : Prop :=
  let ch := v.channel
  let r := completion c.tag.toNat status reason r0 r1
  (∃ v', t.vdAt v.vf = some v' ∧ v'.transfer = (if v.state = .evicted then v.transfer else none) ∧ v'.channel.idle = true ∧
    v'.channel.ci = (ch.ci + 1) % 2 ^ ch.csize) ∧
  readBytes t.host (ch.cbase + 64 * ch.ci) 64 = v.record c.seq.toNat (setByte r 6 (if ch.phase = true then 1 else 0)) ∧
  (c.flags.getLsbD 0 = true → t.module.irqs.getLast? = some v.vf)

/-- A job that may read, since its thread's earlier accesses have been performed (R172), that no CCANCEL ends, and that has
read, produced and written nothing yet. -/
def Job.Fresh (j : Job) : Prop :=
  j.begun = true ∧ j.cancels = [] ∧ j.pos = 0 ∧ j.spos = 0 ∧ j.wpos = 0 ∧ j.carry = [] ∧ j.cells = [] ∧ j.staged = [] ∧ j.entries = []

/-- An engine of an isle runs a job that has done nothing yet. -/
def State.Runs (s : State) (isle engine : Nat) (j : Job) : Prop :=
  s.engineJob isle engine = some j ∧ j.state = .running engine ∧ (s.isleAt isle).job? j.key = some j ∧ j.Fresh

/-- What writes of a job do from state `s`, if each of them can be made, is what stands in `t`: both memories, the full/empty
bits and every core; and the job's write position has come past them. -/
def State.Delivered (s t : State) (isle : Nat) (j : Job) (us : List Put) : Prop :=
  ∀ es n, s.putAll j.tid j.priv us = (es, n, none) → (applyAll es s).SameMemory t ∧
    (∀ u c, t.coreAt u c = (applyAll es s).coreAt u c) ∧ ((t.isleAt isle).job? j.key).map (·.wpos) = some n

/-- The thread has entered its handler for a cause (R114): what is saved, the mode, and where pc goes. -/
def Trapped (s t : State) (cause : Nat) (val : Word) (ilen : Nat) : Prop :=
  let x := s.here
  let y := t.slotOf s.cur
  y.trapcause = BitVec.ofNat 4 cause ∧ y.trappc = x.pc ∧ y.trapval = val ∧
    y.trapst = trapStatus x.priv false false ilen ∧ y.priv = true ∧ y.pc = x.trapvec ∧ x.sameRegs y ∧ y.trapvec = x.trapvec

/-- A trap would enter the handler and not end the thread (R116). -/
def State.CanTrap (s : State) : Prop := s.here.doubleTrap = false ∧ s.here.took = none

/-- An instruction step completes with what it is for. -/
def Completes (i : Instr) (s : State) (p : State → Prop) : Prop := ∃ t, exec i s = .next t ∧ p t

end Sys2Proof.Machine
end

