-- ==== Sys2Proof/Certificates/Slice0/Obligations.lean ====
section
/-! DEFINITION. What the provers are to show of the model, stated from the numbered rules of the manual. -/

open Sys2Proof Sys2Proof.Machine

/-! ### Scalar arithmetic, predicates and immediates (R274 to R284) -/

/-- R275 with Table 15.2: each operation of two registers writes s[d] := f(s[a], s[b]) and moves pc by one word; the
state is otherwise as it was. -/
def Obligations.ScalarArithmeticWritesItsResult : Prop :=
  ∀ (s : State) (d a b : SReg), s.Issues →
    let x := s.here.rs a
    let y := s.here.rs b
    let done (w : Word) : Host.Outcome State Fault Refusal :=
      .next (s.retired (s.here.after 1) fun z => z.setS d w)
    exec (.add d a b) s = done (x + y) ∧
    exec (.sub d a b) s = done (x - y) ∧
    exec (.mul d a b) s = done ((x.setWidth 128 * y.setWidth 128).extractLsb' 0 64) ∧
    exec (.mulh d a b) s = done ((x.signExtend 128 * y.signExtend 128).extractLsb' 64 64) ∧
    exec (.mulhu d a b) s = done ((x.setWidth 128 * y.setWidth 128).extractLsb' 64 64) ∧
    exec (.and d a b) s = done (x &&& y) ∧
    exec (.or d a b) s = done (x ||| y) ∧
    exec (.xor d a b) s = done (x ^^^ y) ∧
    exec (.shl d a b) s = done (x <<< (y.extractLsb' 0 6)) ∧
    exec (.shr d a b) s = done (x >>> (y.extractLsb' 0 6)) ∧
    exec (.sra d a b) s = done (x.sshiftRight (y.extractLsb' 0 6).toNat) ∧
    exec (.min d a b) s = done (if y.slt x then y else x) ∧
    exec (.max d a b) s = done (if x.slt y then y else x) ∧
    exec (.minu d a b) s = done (if y < x then y else x) ∧
    exec (.maxu d a b) s = done (if x < y then y else x) ∧
    exec (.popc d a) s = done (BitVec.ofNat 64 ((List.range 64).countP x.getLsbD)) ∧
    (∃ n ≤ 64, exec (.clz d a) s = done (BitVec.ofNat 64 n) ∧ (∀ i < n, x.getMsbD i = false) ∧
      (n < 64 → x.getMsbD n = true)) ∧
    (∃ n ≤ 64, exec (.ctz d a) s = done (BitVec.ofNat 64 n) ∧ (∀ i < n, x.getLsbD i = false) ∧
      (n < 64 → x.getLsbD n = true))

/-- R276: division never traps; Table 15.3's edge cases, and in every other case a = q × b + rem with |rem| < |b|. -/
def Obligations.DivisionNeverTraps : Prop :=
  ∀ (s : State) (d a b : SReg), s.Issues →
    let x := s.here.rs a
    let y := s.here.rs b
    let done (w : Word) : Host.Outcome State Fault Refusal :=
      .next (s.retired (s.here.after 1) fun z => z.setS d w)
    ∃ q r qu ru : Word,
      exec (.div d a b) s = done q ∧ exec (.rem d a b) s = done r ∧
      exec (.divu d a b) s = done qu ∧ exec (.remu d a b) s = done ru ∧
      (y = 0 → q = 0xFFFFFFFFFFFFFFFF#64 ∧ r = x ∧ qu = 0xFFFFFFFFFFFFFFFF#64 ∧ ru = x) ∧
      (x = 0x8000000000000000#64 → y = 0xFFFFFFFFFFFFFFFF#64 →
        q = 0x8000000000000000#64 ∧ r = 0 ∧ qu = 0 ∧ ru = 0x8000000000000000#64) ∧
      (y ≠ 0 → x.toNat = qu.toNat * y.toNat + ru.toNat ∧ ru.toNat < y.toNat) ∧
      (y ≠ 0 → ¬(x = 0x8000000000000000#64 ∧ y = 0xFFFFFFFFFFFFFFFF#64) →
        x.toInt = q.toInt * y.toInt + r.toInt ∧ r.toInt.natAbs < y.toInt.natAbs ∧
          (r = 0 ∨ (r.toInt < 0 ↔ x.toInt < 0)))

/-- R278, R282: SEL and the four predicate operations. What each writes, all sources read first (d may be any of them)
and only pc and the destination moving; which words of opcodes 0x15 and 0x30 to 0x33 are instructions, and that the
others of them decode to none and so, as non-instructions, raise ILLEGAL. -/
def Obligations.SelectsAndPredicateLogicFollowTheirRules : Prop :=
  (∀ (s : State) (d a b c : SReg), s.Issues →
    exec (.sel d a b c) s = .next (s.retired (s.here.after 1) fun z => z.setS d
      (if s.here.rs c ≠ 0 then s.here.rs a else s.here.rs b))) ∧
  (∀ (s : State) (d a b : SReg), s.Issues → d.toNat < 8 → a.toNat < 8 → b.toNat < 8 →
    let x := s.here.rp (a.setWidth 3)
    let y := s.here.rp (b.setWidth 3)
    let done (m : Mask) : Host.Outcome State Fault Refusal :=
      .next (s.retired (s.here.after 1) fun z => z.setP (d.setWidth 3) m)
    exec (.pand d a b) s = done (x &&& y) ∧ exec (.por d a b) s = done (x ||| y) ∧
    exec (.pxor d a b) s = done (x ^^^ y) ∧ exec (.pandn d a b) s = done (x &&& ~~~y) ∧
    exec (.pand d a 0) s = done x) ∧
  (∀ (w : Window) (i : Instr), w.extractLsb' 0 2 = 0#2 →
    let op := w.extractLsb' 2 8
    let d : SReg := w.extractLsb' 10 5
    let a : SReg := w.extractLsb' 15 5
    let b : SReg := w.extractLsb' 20 5
    (op = 0x15#8 → (decode w = .ok i ↔ w.extractLsb' 30 2 = 0#2 ∧ i = .sel d a b (w.extractLsb' 25 5))) ∧
    ∀ row ∈ ([(0x30#8, .pand d a b), (0x31#8, .por d a b), (0x32#8, .pxor d a b), (0x33#8, .pandn d a b)] :
        List (BitVec 8 × Instr)),
      op = row.1 → (decode w = .ok i ↔
        w.extractLsb' 25 7 = 0#7 ∧ d.toNat < 8 ∧ a.toNat < 8 ∧ b.toNat < 8 ∧ i = row.2)) ∧
  ∀ (s : State) (word0 : BitVec 32), s.Issues → s.CanTrap → word0.extractLsb' 0 2 = 0#2 →
    Completes (.nonInstruction word0) s fun t => Trapped s t 1 (word0.setWidth 64) 1 ∧ s.Elsewhere t

/-- R277 to R281: CMP, SEL, the bit fields, the window addresses and the immediates. Bit i of BFX's result is bit pos +
i of s[a] within the field; BFI's bits outside the field are those of s[d]. R282 to R284: predicate logic, PLEN's lanes
below a count, and what PCNT, PANY and PFIRST read; `active` elements are those whose bit i × w / 8 is set. -/
def Obligations.FieldsImmediatesAndPredicatesWriteTheirResult : Prop :=
  (∀ (s : State) (d a b c : SReg) (k : BitVec 7) (pos len1 : BitVec 6) (imm : BitVec 12) (i17 : BitVec 17) (lit : Word),
    s.Issues →
    let x := s.here.rs a
    let y := s.here.rs b
    let done (w : Word) : Host.Outcome State Fault Refusal :=
      .next (s.retired (s.here.after 1) fun z => z.setS d w)
    let flag (p : Prop) [Decidable p] : Host.Outcome State Fault Refusal := done (if p then 1 else 0)
    exec (.cmp d a b 0#7) s = flag (x = y) ∧ exec (.cmp d a b 1#7) s = flag (x ≠ y) ∧
    exec (.cmp d a b 2#7) s = flag (x.slt y = true) ∧ exec (.cmp d a b 3#7) s = flag (x.sle y = true) ∧
    exec (.cmp d a b 4#7) s = flag (y.slt x = true) ∧ exec (.cmp d a b 5#7) s = flag (y.sle x = true) ∧
    exec (.cmp d a b 6#7) s = flag (x < y) ∧ exec (.cmp d a b 7#7) s = flag (x ≤ y) ∧
    exec (.cmp d a b 8#7) s = flag (y < x) ∧ exec (.cmp d a b 9#7) s = flag (y ≤ x) ∧
    (10 ≤ k.toNat → check (.cmp d a b k) ≠ none) ∧
    exec (.sel d a b c) s = done (if s.here.rs c = 0 then y else x) ∧
    (∃ w : Word, exec (.bfx d a pos len1) s = done w ∧
      ∀ i, w.getLsbD i = (decide (i ≤ len1.toNat) && x.getLsbD (pos.toNat + i))) ∧
    (∃ w : Word, exec (.bfi d a pos len1) s = done w ∧
      ∀ i < 64, w.getLsbD i = if pos.toNat ≤ i ∧ i ≤ pos.toNat + len1.toNat then x.getLsbD (i - pos.toNat)
        else (s.here.rs d).getLsbD i) ∧
    exec (.waddr d a b 0#7) s = done ((x + y) &&& 0x00FFFFFFFFFFFFFF#64) ∧
    exec (.waddr d a b 1#7) s = done (0x00F2000000000000#64 + (y &&& 0xFFFFF#64)) ∧
    exec (.waddr d a b 2#7) s = done (0x00F0000000000000#64 + (x &&& 0x3FF#64) * 0x100000#64 + (y &&& 0xFFFFF#64)) ∧
    exec (.waddr d a b 3#7) s = done (0x00F1000000000000#64 + ((x &&& 0x3FF#64) >>> 4) * 0x1000000#64 +
      (((y &&& 0xFFFFF#64) >>> 8) <<< 12) + ((x &&& 0xF#64) <<< 8) + (y &&& 0xFF#64)) ∧
    (4 ≤ k.toNat → check (.waddr d a b k) ≠ none) ∧
    exec (.addi d a imm) s = done (x + imm.signExtend 64) ∧
    exec (.andi d a imm) s = done (x &&& imm.signExtend 64) ∧
    exec (.ori d a imm) s = done (x ||| imm.signExtend 64) ∧
    exec (.xori d a imm) s = done (x ^^^ imm.signExtend 64) ∧
    exec (.shli d a imm) s = done (x <<< (imm.extractLsb' 0 6)) ∧
    exec (.shri d a imm) s = done (x >>> (imm.extractLsb' 0 6)) ∧
    exec (.srai d a imm) s = done (x.sshiftRight (imm.extractLsb' 0 6).toNat) ∧
    exec (.ldi d i17) s = done (i17.signExtend 64) ∧
    exec (.ldl d lit) s = .next (s.retired (s.here.after 3) fun z => z.setS d lit)) ∧
  (∀ (s : State) (d a b : SReg), s.Issues →
    let x := s.here.rp (a.setWidth 3)
    let y := s.here.rp (b.setWidth 3)
    let doneP (m : Mask) : Host.Outcome State Fault Refusal :=
      .next (s.retired (s.here.after 1) fun z => z.setP (d.setWidth 3) m)
    let doneS (w : Word) : Host.Outcome State Fault Refusal :=
      .next (s.retired (s.here.after 1) fun z => z.setS d w)
    exec (.pand d a b) s = doneP (x &&& y) ∧ exec (.por d a b) s = doneP (x ||| y) ∧
    exec (.pxor d a b) s = doneP (x ^^^ y) ∧ exec (.pandn d a b) s = doneP (x &&& ~~~y) ∧
    exec (.pany d a) s = doneS (if x = 0 then 0 else 1) ∧
    ∀ cw ∈ ([(0, 8), (1, 16), (2, 32), (3, 64), (4, 4)] : List (Nat × Nat)),
      (∃ m : Mask, exec (.plen d a (BitVec.ofNat 12 cw.1)) s = doneP m ∧
        ∀ i < 256, m.getLsbD i = true ↔ (i : Int) < ((max 0 (min (s.here.rs a).toInt ((2048 / cw.2 : Nat) : Int)) * cw.2 + 7) / 8)) ∧
      (cw.1 < 4 →
        exec (.pcnt d a (BitVec.ofNat 7 cw.1)) s =
          doneS (BitVec.ofNat 64 ((List.range (2048 / cw.2)).countP fun i => x.getLsbD (i * cw.2 / 8))) ∧
        ∃ n ≤ 2048 / cw.2, exec (.pfirst d a (BitVec.ofNat 7 cw.1)) s = doneS (BitVec.ofNat 64 n) ∧
          (∀ i < n, x.getLsbD (i * cw.2 / 8) = false) ∧ (n < 2048 / cw.2 → x.getLsbD (n * cw.2 / 8) = true)))

/-- R274: a write to s0 or p0 is discarded, a source s0 reads zero and a source p0 reads all true: in every slot, and in
the state that an instruction with destination s0 or p0 leaves. -/
def Obligations.ZeroRegistersHoldTheirConstants : Prop :=
  (∀ (x : Slot) (w : Word) (m : Mask), x.rs 0 = 0 ∧ x.rp 0 = BitVec.allOnes 256 ∧ x.setS 0 w = x ∧ x.setP 0 m = x ∧
    (∀ d r : SReg, d ≠ 0 → (x.setS d w).rs r = if r = d then w else x.rs r) ∧
    ∀ d r : PReg, d ≠ 0 → (x.setP d m).rp r = if r = d then m else x.rp r) ∧
  ∀ (s : State) (a b : SReg), s.Issues →
    (∀ i ∈ [Instr.add 0 a b, .sub 0 a b, .mul 0 a b, .mulh 0 a b, .mulhu 0 a b, .div 0 a b, .divu 0 a b, .rem 0 a b,
        .remu 0 a b, .and 0 a b, .or 0 a b, .xor 0 a b, .shl 0 a b, .shr 0 a b, .sra 0 a b, .min 0 a b, .max 0 a b,
        .minu 0 a b, .maxu 0 a b, .clz 0 a, .ctz 0 a, .popc 0 a, .pand 0 a b, .por 0 a b, .pxor 0 a b, .pandn 0 a b],
      exec i s = .next (s.retired (s.here.after 1) id))

/-- R274, the frame of the scalar and predicate instructions: where one answers a next state, the general registers
other than s[d] (and, of a predicate instruction, the predicates other than p[d]), the vectors, FPFLAGS and the trap and
mode registers are unchanged, and nothing outside the thread's slot has changed: both memories, every full/empty bit,
the packets in flight, every other slot. -/
def Obligations.ScalarInstructionsChangeOnlyTheirDestination : Prop :=
  ∀ (s t : State) (d a b c : SReg) (k : BitVec 7) (pos len1 : BitVec 6) (imm : BitVec 12) (i17 : BitVec 17) (lit : Word)
    (i : Instr), exec i s = .next t →
    let x := s.here
    let y := t.slotOf s.cur
    (i ∈ [Instr.add d a b, .sub d a b, .mul d a b, .mulh d a b, .mulhu d a b, .div d a b, .divu d a b, .rem d a b,
        .remu d a b, .and d a b, .or d a b, .xor d a b, .shl d a b, .shr d a b, .sra d a b, .min d a b, .max d a b,
        .minu d a b, .maxu d a b, .cmp d a b k, .sel d a b c, .clz d a, .ctz d a, .popc d a, .bfx d a pos len1,
        .bfi d a pos len1, .waddr d a b k, .addi d a imm, .andi d a imm, .ori d a imm, .xori d a imm, .shli d a imm,
        .shri d a imm, .srai d a imm, .ldi d i17, .ldl d lit, .pcnt d a k, .pany d a, .pfirst d a k] →
      (∀ r, r ≠ d → y.rs r = x.rs r) ∧ y.p = x.p ∧ y.v = x.v ∧ y.fpflags = x.fpflags ∧ x.sameTrap y ∧ x.sameModes y ∧
        s.Elsewhere t) ∧
    (i ∈ [Instr.pand d a b, .por d a b, .pxor d a b, .pandn d a b, .plen d a imm] →
      (∀ r, r ≠ d.setWidth 3 → y.rp r = x.rp r) ∧ y.s = x.s ∧ y.v = x.v ∧ y.fpflags = x.fpflags ∧ x.sameTrap y ∧
        x.sameModes y ∧ s.Elsewhere t)

/-! ### Branches, traps and thread control (R112 to R116, R285 to R297) -/

/-- R288, R289 with Table 14.3: where BR, JMP, CALL, JR and CALLR go, and the link they leave. A target held in a
register is read before the link is written. R289: a jump to a register traps at the jump itself, MISALIGN where bits
[1:0] are not zero and otherwise ADDR where bits [63:56] are not; the link is not written. -/
def Obligations.BranchesCallsAndJumpsGoToTheirTarget : Prop :=
  (∀ (s : State) (d a : SReg) (off : BitVec 14) (far : BitVec 22), s.Issues →
    let x := s.here
    let v := x.rs a
    let m := x.rp (a.setWidth 3)
    let next := x.pc + 4#64
    let near := x.pc + 4#64 * off.signExtend 64
    let there := x.pc + 4#64 * far.signExtend 64
    let br (cc : BitVec 3) (taken : Prop) : Prop :=
      (taken → exec (.br a cc off) s = .next (s.retired near id)) ∧
      (¬taken → exec (.br a cc off) s = .next (s.retired next id))
    br 0#3 (v = 0) ∧ br 1#3 (v ≠ 0) ∧ br 2#3 (v.msb = true) ∧ br 3#3 (v.msb = false) ∧
    br 4#3 (v.msb = false ∧ v ≠ 0) ∧ br 5#3 (v.msb = true ∨ v = 0) ∧ br 6#3 (m ≠ 0) ∧ br 7#3 (m = 0) ∧
    exec (.jmp far) s = .next (s.retired there id) ∧
    exec (.call far) s = .next (s.retired there fun z => z.setS 31 next) ∧
    (v.toNat % 4 = 0 → v.toNat < 2 ^ 56 →
      exec (.jr a) s = .next (s.retired v id) ∧
      exec (.callr d a) s = .next (s.retired v fun z => z.setS d next))) ∧
  (∀ (s : State) (d a : SReg) (i : Instr), s.Issues → s.CanTrap → i ∈ [Instr.jr a, .callr d a] →
    let v := s.here.rs a
    (v.toNat % 4 ≠ 0 → Completes i s fun t => Trapped s t 3 v 1 ∧ s.Elsewhere t) ∧
    (v.toNat % 4 = 0 → 2 ^ 56 ≤ v.toNat → Completes i s fun t => Trapped s t 7 v 1 ∧ s.Elsewhere t))

/-- R290 and R114: TRAP and BRK enter the handler in either privilege level, SYSCALL (10) and BREAK (9), with the code
in TRAPVAL, TRAPPC at the instruction and ILEN 1; R261: a word pattern that is no instruction enters it with ILLEGAL
(1), word 0 in TRAPVAL and ILEN the words that LEN gives. Only the exception registers, the level and pc change. R116,
R292: a trap while TRAPST.ACTIVE is 1, or with TRAPVEC 0, is a double trap: no handler is entered, the thread ends as
HALT ends it and its end is abnormal: while a tag of it is busy it stays, with its operations and its tags. R116, R291:
in S mode ERET returns to TRAPPC at the level that PPRIV holds, ACTIVE cleared and the other fields of TRAPST kept,
whether or not ACTIVE was 1; in U mode it raises PRIV (2) with its word in TRAPVAL. -/
def Obligations.TrapsEnterTheHandlerAndReturn : Prop :=
  (∀ (s : State) (code : BitVec 12) (word0 : BitVec 32), s.Issues → s.CanTrap →
    (Completes (.trap code) s fun t => Trapped s t 10 (code.setWidth 64) 1 ∧ s.Elsewhere t) ∧
    (Completes (.brk code) s fun t => Trapped s t 9 (code.setWidth 64) 1 ∧ s.Elsewhere t) ∧
    (Completes (.nonInstruction word0) s fun t => Trapped s t 1 (word0.setWidth 64)
      (if word0.extractLsb' 0 2 = 0#2 then 1 else if word0.extractLsb' 0 2 = 3#2 then 5 else 3) ∧ s.Elsewhere t)) ∧
  (∀ (s : State) (code : BitVec 12) (word0 : BitVec 32) (i : Instr), s.Issues →
    s.here.trapst.getLsbD 1 = true ∨ s.here.trapvec = 0 →
    i ∈ [Instr.trap code, .brk code, .nonInstruction word0] →
    Completes i s fun t =>
      ((t.slotOf s.cur).live = false ∨ (t.slotOf s.cur).halting = some true) ∧
      (s.here.tags ≠ 0 → (t.slotOf s.cur).live = true ∧ (t.slotOf s.cur).dying = true ∧
        (t.slotOf s.cur).ops = s.here.ops ∧ (t.slotOf s.cur).tags = s.here.tags ∧ t.flights = s.flights) ∧
      (t.slotOf s.cur).pc = s.here.pc ∧ (t.slotOf s.cur).trapcause = s.here.trapcause ∧ s.SameMemory t) ∧
  (∀ s : State, s.Issues →
    (s.here.priv = true → Completes .eret s fun t =>
      let x := s.here
      let y := t.slotOf s.cur
      y.pc = x.trappc ∧ y.priv = x.trapst.getLsbD 0 ∧
        (∀ k < 8, y.trapst.getLsbD k = if k = 1 then false else x.trapst.getLsbD k) ∧ x.sameRegs y ∧
        y.trapvec = x.trapvec ∧ y.trapval = x.trapval ∧ y.trapcause = x.trapcause ∧ y.trappc = x.trappc ∧
        x.sameModes y ∧ s.Elsewhere t) ∧
    (s.here.priv = false → s.CanTrap → Completes .eret s fun t => Trapped s t 2 0x118#64 1 ∧ s.Elsewhere t))

/-- R293, R292, R294, R296: NOP and YIELD only move pc (YIELD's slot then stands back); HALT ends the thread normally
and changes no byte; SLEEP takes a set latch at once with OK and otherwise waits; MCLAIM returns OK at once to the slot
that holds the claim, takes a free claim, and otherwise queues; MFREE gives up the claim. What it says of the following
is the model's own choice: the slots that stand before a YIELD's (log 30). -/
def Obligations.ThreadControlCompletes : Prop :=
  ∀ (s : State) (d : SReg) (te : BitVec 5), s.Issues →
    let x := s.here
    let c := s.coreAt s.cur.vf s.cur.core
    exec .nop s = .next (s.retired (x.pc + 4#64) id) ∧
    (Completes .yield s fun t =>
      (t.slotOf s.cur).pc = x.pc + 4#64 ∧ (t.slotOf s.cur).yielded.isSome = true ∧ x.sameRegs (t.slotOf s.cur) ∧
        s.Elsewhere t) ∧
    (Completes .halt s fun t =>
      ((t.slotOf s.cur).live = false ∨ (t.slotOf s.cur).halting = some false) ∧ s.SameMemory t) ∧
    (x.latch = true → exec (.sleep d te) s =
      .next (s.retired (x.pc + 4#64) fun z => { z.setS d 0 with latch := false })) ∧
    (x.latch = false → Completes (.sleep d te) s fun t =>
      (∃ o, Started s t 1 o ∧ o.wait = .latch ∧ (te = 31#5 → o.deadline = none) ∧
        (te ≠ 31#5 → o.deadline = some (s.cycle + 2 ^ te.toNat))) ∧ x.sameRegs (t.slotOf s.cur) ∧ s.Elsewhere t) ∧
    (x.claim = true → exec (.mclaim d te) s = .next (s.retired (x.pc + 4#64) fun z => z.setS d 0)) ∧
    (x.claim = false → (∀ k < 4, (c.slotAt k).claim = false) → c.claims = [] → Completes (.mclaim d te) s fun t =>
      (t.slotOf s.cur).claim = true ∧ (t.slotOf s.cur).pc = x.pc + 4#64 ∧
        (d ≠ 0 → (t.slotOf s.cur).rs d = 0) ∧ (t.coreAt s.cur.vf s.cur.core).fault = false ∧
        (t.coreAt s.cur.vf s.cur.core).rotto = false ∧ s.SameMemory t) ∧
    (x.claim = false → (∃ k < 4, (c.slotAt k).claim = true) → Completes (.mclaim d te) s fun t =>
      (t.slotOf s.cur).claim = false ∧ (∃ o, Started s t 1 o ∧ o.wait = .claim) ∧
        (s.cur.slot, x.seq) ∈ (t.coreAt s.cur.vf s.cur.core).claims ∧ s.SameMemory t) ∧
    (x.claim = true → exec .mfree s = .next (s.retired (x.pc + 4#64) fun z => { z with claim := false })) ∧
    (x.claim = false → s.CanTrap → Completes .mfree s fun t => Trapped s t 8 0 1 ∧ s.Elsewhere t)

/-- R285, R287 and Table 14.11: MFCSR reads a CSR that the slot holds into s[d]; MTCSR returns the value that the CSR
held and writes s[a] to it, each field to its bits. SRAMCFG reads the split, SPMAX and WAYMASK, and a write that changes
the split writes L1 back and empties it and leaves the scratchpad bytes below its new size; MATQ reads the queue, the
claim, the parked operation and the two latches. An unassigned number, and a write to a read-only CSR, is ILLEGAL in
either mode; a CSR that only S mode may access, or only write, is PRIV in U mode. R286, R297: the accesses to PAGER and
RGNTAB and FWAKE leave for the fault slice and the slot stalls until it answers; the two writes and FWAKE are for S
mode. What it says of the following is the model's own choice: MTCSR to SRAMCFG (log 78). -/
def Obligations.CsrAccessFollowsTheTable : Prop :=
  (∀ (s : State) (d a : SReg), s.Issues →
    let x := s.here
    let c := s.coreAt s.cur.vf s.cur.core
    let w := x.rs a
    let reads (n : BitVec 12) (v : Word) : Prop :=
      exec (.mfcsr d n) s = .next (s.retired (x.pc + 4#64) fun z => z.setS d v)
    let swaps (n : BitVec 12) (v : Word) (g : Slot → Slot) : Prop :=
      exec (.mtcsr d a n) s = .next (s.retired (x.pc + 4#64) fun z => (g z).setS d v)
    let traps (i : Instr) (cause : Nat) : Prop :=
      s.CanTrap → Completes i s fun t => Trapped s t cause (wordZero i) 1 ∧ s.Elsewhere t
    (x.team = none → reads 0x001#12 (BitVec.ofNat 64 s.cycle)) ∧
    reads 0x002#12 (BitVec.ofNat 64 (s.coreNo s.cur.vf s.cur.core)) ∧
    reads 0x003#12 (BitVec.ofNat 64 s.cur.slot) ∧ reads 0x004#12 (x.rank.setWidth 64) ∧
    reads 0x005#12 (x.tsize.setWidth 64) ∧ reads 0x006#12 (x.gen.setWidth 64) ∧
    reads 0x010#12 (x.fpflags.setWidth 64) ∧ reads 0x011#12 (x.rmode.setWidth 64) ∧
    reads 0x012#12 (x.waitlim.setWidth 64) ∧
    (∀ k (h : k < 8), reads (BitVec.ofNat 12 (0x100 + k)) x.tdim[k]) ∧
    (∀ k (h : k < 4), reads (BitVec.ofNat 12 (0x108 + k)) x.adim[k]) ∧
    (∀ v, s.vdAt s.cur.vf = some v →
      let cfg := BitVec.ofNat 64 (c.l1size + bits v.vdlim.toNat 38 36 * 16 + bits v.vdlim.toNat 15 0 * 256)
      let new := max (w.toNat % 4) (7 - bits v.vdlim.toNat 38 36)
      reads 0x030#12 cfg ∧
      (x.priv = true → (new = c.l1size → swaps 0x030#12 cfg id) ∧
        (new ≠ c.l1size → s.Inv → Completes (.mtcsr d a 0x030#12) s fun t =>
          let c' := t.coreAt s.cur.vf s.cur.core
          c'.l1size = new ∧ c'.l1 = [] ∧ s.WroteBack t c.l1 ∧ (t.slotOf s.cur).pc = x.pc + 4#64 ∧
            (d ≠ 0 → (t.slotOf s.cur).rs d = cfg) ∧
            ∀ b < c'.spSize, readCell c'.sram b = readCell c.sram b ∧
              setMem c'.sramFull (b / 8) = setMem c.sramFull (b / 8)))) ∧
    reads 0x10C#12 (BitVec.ofNat 64 (c.queue.length +
      (match (List.range 4).find? fun k => (c.slotAt k).claim with | some k => 8 + 16 * k | none => 0) +
      (match c.queue.head? with | some o => if o.fault.isSome ∨ o.exchange.isSome then 64 else 0 | none => 0) +
      (if c.fault = true then 128 else 0) + (if c.rotto = true then 256 else 0))) ∧
    reads 0x110#12 (BitVec.ofNat 64 c.rampdummy) ∧
    (∀ k (h : k < 8), swaps (BitVec.ofNat 12 (0x100 + k)) x.tdim[k]
      fun z => { z with tdim := z.tdim.set k (w &&& 0x00FFFFFFFFFFFF7F#64) h }) ∧
    (∀ k (h : k < 4), swaps (BitVec.ofNat 12 (0x108 + k)) x.adim[k]
      fun z => { z with adim := z.adim.set k (w &&& 0x1FFFFFFF01FF7F7F#64) h }) ∧
    swaps 0x010#12 (x.fpflags.setWidth 64) (fun z => { z with fpflags := w.setWidth 6 }) ∧
    ((w.extractLsb' 0 3).toNat < 5 → swaps 0x011#12 (x.rmode.setWidth 64) (fun z => { z with rmode := w.setWidth 3 })) ∧
    (5 ≤ (w.extractLsb' 0 3).toNat → traps (.mtcsr d a 0x011#12) 1) ∧
    swaps 0x012#12 (x.waitlim.setWidth 64) (fun z => { z with waitlim := w.setWidth 5 }) ∧
    (x.priv = true →
      reads 0x020#12 (x.trapcause.setWidth 64) ∧ reads 0x021#12 x.trappc ∧ reads 0x022#12 x.trapval ∧
      reads 0x023#12 x.trapvec ∧ reads 0x024#12 (x.trapst.setWidth 64) ∧
      swaps 0x020#12 (x.trapcause.setWidth 64) (fun z => { z with trapcause := w.setWidth 4 }) ∧
      swaps 0x023#12 x.trapvec (fun z => { z with trapvec := w &&& 0x00FFFFFFFFFFFFFC#64 }) ∧
      swaps 0x021#12 x.trappc (fun z => { z with trappc := w &&& 0xFFFFFFFFFFFFFFFC#64 }) ∧
      swaps 0x022#12 x.trapval (fun z => { z with trapval := w }) ∧
      swaps 0x024#12 (x.trapst.setWidth 64) (fun z => { z with trapst := w.setWidth 8 })) ∧
    (x.priv = false → ∀ n : BitVec 12, 0x020 ≤ n.toNat → n.toNat ≤ 0x025 →
      traps (.mfcsr d n) 2 ∧ traps (.mtcsr d a n) 2) ∧
    (x.priv = false → traps (.mtcsr d a 0x026#12) 2 ∧ traps (.mtcsr d a 0x030#12) 2) ∧
    (∀ n ∈ [0x001#12, 0x002#12, 0x003#12, 0x004#12, 0x005#12, 0x006#12, 0x10C#12, 0x110#12], traps (.mtcsr d a n) 1) ∧
    (∀ n : BitVec 12,
      let listed (lo hi : Nat) : Prop := lo ≤ n.toNat ∧ n.toNat ≤ hi
      ¬listed 0x001 0x006 → ¬listed 0x010 0x012 → ¬listed 0x020 0x026 → ¬listed 0x030 0x030 → ¬listed 0x100 0x10C →
        ¬listed 0x110 0x110 → traps (.mfcsr d n) 1 ∧ traps (.mtcsr d a n) 1)) ∧
  (∀ (s : State) (d a b : SReg), s.Issues →
    let x := s.here
    let asks (i : Instr) (pk : Packet) : Prop := Completes i s fun t =>
      (∃ o, Started s t 1 o ∧ o.sync = true ∧ o.left = 1 ∧ o.s.map (·.1) = [d]) ∧ Sent s t pk ∧ s.Apart t ∧
        x.sameRegs (t.slotOf s.cur)
    asks (.mfcsr d 0x026#12) (.csr false none) ∧
    (x.priv = true → asks (.mfcsr d 0x025#12) (.csr true none) ∧ asks (.mtcsr d a 0x025#12) (.csr true (some (x.rs a))) ∧
      asks (.mtcsr d a 0x026#12) (.csr false (some (x.rs a))) ∧
      asks (.fwake d a b) (.fwake ((x.rs a).toNat % 65536) ((x.rs b).getLsbD 0))) ∧
    (x.priv = false → s.CanTrap →
      Completes (.fwake d a b) s fun t => Trapped s t 2 (wordZero (.fwake d a b)) 1 ∧ s.Elsewhere t))

/-! ### Scalar memory instructions at issue (R318 to R332) -/

/-- R318 to R320: an aligned scalar load whose address leads to a place issues: its result is outstanding and interlocks
s[d], the slot is not stalled, and the access of its width has left for the place; no byte and no register changes yet.
R318, R320, R327: an aligned scalar store issues and the slot moves on at once; the low bytes of s[d] have left for the
place that the address leads to, and for STF the word will be set full there. R326, R327, R329, R330: LDF stalls its
slot until the word is full or its time is over; FECLR stalls until every word of its range has been set empty, and with
a length of zero only moves on; AMO and CAS send their read-modify-write. What it says of the following is the model's
own choice: full/empty accesses to host memory (log 18); permissions of FECLR and LDF with consume (log 19). -/
def Obligations.ScalarAccessesLeaveForTheirPlace : Prop :=
  (∀ (s : State) (d a : SReg) (imm : BitVec 12), s.Issues →
    let ea := s.here.rs a + imm.signExtend 64
    ∀ row ∈ ([(.ldb d a imm, 1, true), (.ldbu d a imm, 1, false), (.ldh d a imm, 2, true), (.ldhu d a imm, 2, false),
        (.ldw d a imm, 4, true), (.ldwu d a imm, 4, false), (.ldd d a imm, 8, false)] : List (Instr × Nat × Bool)),
      ∀ (q : Place) (g : Bool), ea.toNat % row.2.1 = 0 → s.leads ea.toNat row.2.1 .read = .at q g →
        Completes row.1 s fun t =>
          (∃ o, Started s t 1 o ∧ o.sync = false ∧ o.left = 1 ∧ o.s = [(d, 0)]) ∧ s.Asked t ∧
          Sent s t (s.outPacket (.access ⟨ea.toNat, row.2.1, 2 ^ row.2.1 - 1, .loadS row.2.2, 0, 0, row.2.1⟩) q)) ∧
  (∀ (s : State) (d a : SReg) (imm : BitVec 12), s.Issues →
    let ea := s.here.rs a + imm.signExtend 64
    ∀ row ∈ ([(.stb d a imm, 1, .store), (.sth d a imm, 2, .store), (.stw d a imm, 4, .store), (.std d a imm, 8, .store),
        (.stf d a imm, 8, .storeFull)] : List (Instr × Nat × AccOp)),
      ∀ (q : Place) (g : Bool), ea.toNat % row.2.1 = 0 → s.leads ea.toNat row.2.1 .write = .at q g →
        s.mayStore ea.toNat g → (row.2.2 = .storeFull → s.hasBits q) →
        Completes row.1 s fun t =>
          (t.slotOf s.cur).pc = s.here.pc + 4#64 ∧ (t.slotOf s.cur).ops = s.here.ops ∧ s.Asked t ∧
          Sent s t (s.outPacket
            (.access ⟨ea.toNat, row.2.1, 2 ^ row.2.1 - 1, row.2.2, (s.here.rs d).toNat % 2 ^ (8 * row.2.1), 0, row.2.1⟩) q)) ∧
  (∀ (s : State) (d a b : SReg) (te : BitVec 5) (consume : BitVec 1) (op : BitVec 4) (scope : BitVec 3), s.Issues →
    let ea := (s.here.rs a).toNat
    let n := (s.here.rs b).toNat
    (∀ (q : Place) (g : Bool), ea % 8 = 0 → s.leads ea 8 .read = .at q g → s.hasBits q →
      Completes (.ldf d a b te consume) s fun t =>
        (∃ o, Started s t 1 o ∧ o.sync = true ∧ o.left = 1 ∧ o.wait = .full ∧ o.s = [(d, 0), (b, 0)] ∧
          o.deadline = if te = 31#5 then none else some (s.cycle + 2 ^ te.toNat)) ∧ s.Asked t ∧
        Sent s t (s.outPacket (.access ⟨ea, 8, 255, .loadFull (consume == 1#1), 0, 0, 8⟩) q)) ∧
    (n = 0 → ea % 8 = 0 → exec (.feclr a b) s = .next (s.retired (s.here.pc + 4#64) id)) ∧
    (n ≠ 0 → n % 8 = 0 → ea % 8 = 0 →
      let ps := (List.range (n / 8)).map fun i => Part.access ⟨(ea + 8 * i) % 2 ^ 64, 8, 255, .setEmpty, 0, 0, 8⟩
      s.AllLead ps → Completes (.feclr a b) s fun t =>
        (∃ o, Started s t 1 o ∧ o.sync = true ∧ o.left = n / 8 ∧ o.s = []) ∧ s.Asked t ∧ AllSent s t ps) ∧
    (∀ row ∈ ([(.amo d a b op scope, op.toNat), (.cas d a b scope, 15)] : List (Instr × Nat)),
      ∀ (q : Place) (g : Bool), ea % 8 = 0 → s.leads ea 8 .atomic = .at q g → s.allowsAtomic ea q → s.mayStore ea g →
        Completes row.1 s fun t =>
          (∃ o, Started s t 1 o ∧ o.sync = false ∧ o.left = 1 ∧ o.s = [(d, 0)]) ∧ s.Asked t ∧
          Sent s t (s.outPacket (.atomic ⟨row.2, 64, ea, n, (s.here.rs d).toNat, scope.toNat, none⟩) q)))

/-- R113, R318 with Table 6.1: a scalar memory access at an address that is not a multiple of its width traps MISALIGN
(3) with the address in TRAPVAL, and one whose aligned address names no storage traps ADDR (7); nothing is accessed.
R147, R167: a scalar store or atomic on a guarded page that the slot's tokens do not cover traps TOKEN (6) with its
address in TRAPVAL, and no byte changes. R118, R119: an access of a scalar load, store or atomic that meets a page fault
traps nothing: it is held with its cause, the slot's mailbox counts the fault's page, and a message with the page, the
address, the cause and the kind has left for the fault slice where the page was not outstanding (the pager's own faults
excepted). -/
def Obligations.ScalarAccessesTrapOnTheirAddress : Prop :=
  (∀ (s : State) (d a b : SReg) (imm : BitVec 12) (te : BitVec 5) (consume : BitVec 1) (op : BitVec 4) (scope : BitVec 3),
    s.Issues → s.CanTrap →
    let off := s.here.rs a + imm.signExtend 64
    let at' := s.here.rs a
    (∀ row ∈ ([(.ldb d a imm, off, 1, .read), (.ldbu d a imm, off, 1, .read), (.ldh d a imm, off, 2, .read),
        (.ldhu d a imm, off, 2, .read), (.ldw d a imm, off, 4, .read), (.ldwu d a imm, off, 4, .read),
        (.ldd d a imm, off, 8, .read), (.stb d a imm, off, 1, .write), (.sth d a imm, off, 2, .write),
        (.stw d a imm, off, 4, .write), (.std d a imm, off, 8, .write), (.stf d a imm, off, 8, .write),
        (.ldf d a b te consume, at', 8, .read), (.amo d a b op scope, at', 8, .atomic),
        (.cas d a b scope, at', 8, .atomic)] : List (Instr × Word × Nat × AccKind)),
      (row.2.1.toNat % row.2.2.1 ≠ 0 →
        Completes row.1 s fun t => Trapped s t 3 row.2.1 1 ∧ s.Elsewhere t) ∧
      (row.2.1.toNat % row.2.2.1 = 0 → s.leads row.2.1.toNat row.2.2.1 row.2.2.2 = .addr →
        Completes row.1 s fun t => Trapped s t 7 row.2.1 1 ∧ s.Elsewhere t)) ∧
    (at'.toNat % 8 ≠ 0 ∨ (s.here.rs b).toNat % 8 ≠ 0 →
      Completes (.feclr a b) s fun t => Trapped s t 3 at' 1 ∧ s.Elsewhere t)) ∧
  (∀ (s : State) (d a b : SReg) (imm : BitVec 12) (op : BitVec 4) (scope : BitVec 3) (q : Place), s.Issues → s.CanTrap →
    let off := s.here.rs a + imm.signExtend 64
    let at' := s.here.rs a
    (∀ row ∈ ([(.stb d a imm, 1), (.sth d a imm, 2), (.stw d a imm, 4), (.std d a imm, 8)] : List (Instr × Nat)),
      off.toNat % row.2 = 0 → s.leads off.toNat row.2 .write = .at q true → s.here.holdsToken off.toNat = false →
        Completes row.1 s fun t => Trapped s t 6 off 1 ∧ s.Elsewhere t) ∧
    (∀ i ∈ [Instr.amo d a b op scope, .cas d a b scope],
      at'.toNat % 8 = 0 → s.leads at'.toNat 8 .atomic = .at q true → s.allowsAtomic at'.toNat q →
        s.here.holdsToken at'.toNat = false →
        Completes i s fun t => Trapped s t 6 at' 1 ∧ s.Elsewhere t)) ∧
  (∀ (s : State) (d a b : SReg) (imm : BitVec 12) (te : BitVec 5) (consume : BitVec 1) (op : BitVec 4) (scope : BitVec 3)
    (c : Nat), s.Issues → s.isPager s.cur = false → s.here.held = [] → s.here.record = none →
    let off := (s.here.rs a + imm.signExtend 64).toNat
    let at' := (s.here.rs a).toNat
    ∀ row ∈ ([(.ldb d a imm, off, 1, .read), (.ldbu d a imm, off, 1, .read), (.ldh d a imm, off, 2, .read),
        (.ldhu d a imm, off, 2, .read), (.ldw d a imm, off, 4, .read), (.ldwu d a imm, off, 4, .read),
        (.ldd d a imm, off, 8, .read), (.stb d a imm, off, 1, .write), (.sth d a imm, off, 2, .write),
        (.stw d a imm, off, 4, .write), (.std d a imm, off, 8, .write), (.stf d a imm, off, 8, .write),
        (.ldf d a b te consume, at', 8, .read), (.amo d a b op scope, at', 8, .atomic),
        (.cas d a b scope, at', 8, .atomic)] : List (Instr × Nat × Nat × AccKind)),
      let ea := row.2.1
      ea % row.2.2.1 = 0 → c ≠ 0 → s.leads ea row.2.2.1 row.2.2.2 = .fault c →
        Completes row.1 s fun t =>
          (∃ h, (t.slotOf s.cur).held = [h] ∧ h.va = ea ∧ h.cause = c ∧ h.kind = row.2.2.2 ∧ h.seq = s.here.seq) ∧
          (t.slotOf s.cur).mailbox = 1 ∧ (t.slotOf s.cur).record = some (ea / 65536, c) ∧
          Sent s t (.fault (ea / 65536) ea c row.2.2.2 false 0 0 none) ∧ s.SameMemory t ∧
          s.here.sameTrap (t.slotOf s.cur))

/-- R158, R337, R338: PREF, FLUSH and INVAL complete at any address, trap on none, and change no register. FLUSH and
INVAL write back the dirty bytes of the range's L1 lines, and no other byte of memory changes; FLUSH keeps those lines
clean, INVAL drops them. What it says of the following is the model's own choice: organisation of L1, TLB, region cache
and fetch buffer (log 12); PREF's address, and the width of window accesses (log 29). -/
def Obligations.CacheMaintenanceCompletes : Prop :=
  ∀ (s : State) (kind a b : SReg) (imm : BitVec 12) (v : VD), s.Issues → s.Inv → s.vdAt s.cur.vf = some v →
    let lo := (s.here.rs a).toNat
    let hi := lo + (s.here.rs b).toNat
    let before := (s.coreAt s.cur.vf s.cur.core).l1
    let after (t : State) := (t.coreAt s.cur.vf s.cur.core).l1
    let moved (t : State) : Prop := (t.slotOf s.cur).pc = s.here.pc + 4#64 ∧ s.here.sameRegs (t.slotOf s.cur) ∧
      s.here.sameTrap (t.slotOf s.cur) ∧ s.here.sameModes (t.slotOf s.cur)
    let written (t : State) : Prop := s.WroteBack t (before.filter (v.l1In s.cur.core lo hi))
    (Completes (.pref kind a imm) s moved) ∧
    (Completes (.flush a b) s fun t => moved t ∧ written t ∧
      after t = before.map fun l => if v.l1In s.cur.core lo hi l = true then { l with dirty := 0 } else l) ∧
    (Completes (.inval a b) s fun t => moved t ∧ written t ∧ after t = before.filter fun l => !v.l1In s.cur.core lo hi l)

/-! ### Vector instructions (R92, R96, R210, R299 to R317) -/

/-- R96, R299 to R305, R307, R312, R316: a class F instruction over elements. Where every source carries an accepted tag
and v[d] may be merged, the instruction issues: its one result waits four cycles for v[d], tagged with its type, its
active elements as given here for each instruction and its inactive ones those of v[d]; nothing else changes. R306 to
R311, R315: the class F instructions that select, move, compare, convert or sign. VABS and VNEG follow the number
format; VSEL takes v[a] where the lane is active and v[b] elsewhere; VMOV moves whole bytes with the tag; VRETAG changes
the tag alone; VCMP writes a predicate of whole elements; VEXTR and VINS move one element. VCVT converts each active
element of its part: integers widened, F16 and BF16 made F32, F32 rounded to BF16; VQNT quantises its blocks into part j
with their scales and leaves the other parts; VDQ dequantises part j; each has a result of its type, and so has VDOT4.
-/
def Obligations.VectorInstructionsComputeTheirElements : Prop :=
  (∀ (s : State) (f : LV), s.Issues →
    let x := s.here
    let t := f.fmt.toNat
    let w := tagWidth t
    let n := 2048 / w
    let m := laneMask x f
    let A (k : Nat) := elem w (x.rv f.a).data.toNat k
    let B (k : Nat) := elem w (x.rv f.b).data.toNat k
    let C (k : Nat) := elem w (x.rv f.c).data.toNat k
    let is (u : Nat) : Bool := u == t
    let bits' (u : Nat) : Bool := isLG u
    let narrow (v : Int) : Nat :=
      if f.sat = 1#1 then ((max (intRange t).1 (min (intRange t).2 v)) % 2 ^ w).toNat else (v % 2 ^ w).toNat
    let arith (op : Arith) (v : Nat → Int) (k : Nat) : Nat :=
      if isFloat t = true then (arithF op t f.rm.toNat (A k) (B k)).1 else narrow (v k)
    let sa := x.rs (f.a.setWidth 5)
    let sb := x.rs (f.b.setWidth 5)
    let rows : List (Instr × List (VReg × (Nat → Bool)) × (Nat → Nat)) := [
      (.vadd f, [(f.a, is), (f.b, is)], arith .add fun k => intVal t (A k) + intVal t (B k)),
      (.vsub f, [(f.a, is), (f.b, is)], arith .sub fun k => intVal t (A k) - intVal t (B k)),
      (.vmul f, [(f.a, is), (f.b, is)], arith .mul fun k => intVal t (A k) * intVal t (B k)),
      (.vfma f, [(f.a, is), (f.b, is), (f.c, is)], fun k => (fmaF t f.rm.toNat (A k) (B k) (C k) false).1),
      (.vfms f, [(f.a, is), (f.b, is), (f.c, is)], fun k => (fmaF t f.rm.toNat (A k) (B k) (C k) true).1),
      (.vmin f, [(f.a, is), (f.b, is)], fun k => if isFloat t = true then (minMaxF false t (A k) (B k)).1
        else if intVal t (B k) < intVal t (A k) then B k else A k),
      (.vmax f, [(f.a, is), (f.b, is)], fun k => if isFloat t = true then (minMaxF true t (A k) (B k)).1
        else if intVal t (A k) < intVal t (B k) then B k else A k),
      (.vand f, [(f.a, bits'), (f.b, bits')], fun k => A k &&& B k),
      (.vor f, [(f.a, bits'), (f.b, bits')], fun k => A k ||| B k),
      (.vxor f, [(f.a, bits'), (f.b, bits')], fun k => A k ^^^ B k),
      (.vandn f, [(f.a, bits'), (f.b, bits')], fun k => A k ^^^ (A k &&& B k)),
      (.vshl f, [(f.a, bits'), (f.b, bits')], fun k => A k * 2 ^ (B k % w)),
      (.vshr f, [(f.a, bits'), (f.b, bits')], fun k => A k / 2 ^ (B k % w)),
      (.vsra f, [(f.a, bits'), (f.b, bits')], fun k => (toSigned w (A k) / 2 ^ (B k % w) % 2 ^ w).toNat),
      (.vmulh f, [(f.a, is), (f.b, is)], fun k => (intVal t (A k) * intVal t (B k) / 2 ^ w % 2 ^ w).toNat),
      (.vbcast f, [], fun _ => sa.toNat),
      (.vidx f, [], fun k => sa.toNat + k * sb.toNat),
      (.vperm f, [(f.a, bits'), (f.b, bits'), (f.c, bits')], fun k =>
        if B k % (2 * n) < n then A (B k % (2 * n)) else C (B k % (2 * n) - n)),
      (.vrotl f, [(f.a, bits')], fun k => A ((k + sb.toNat) % n)),
      (.vzip f, [(f.a, bits'), (f.b, bits')], fun k =>
        if k % 2 = 0 then A (f.fn.toNat * n / 2 + k / 2) else B (f.fn.toNat * n / 2 + k / 2)),
      (.vunzip f, [(f.a, bits'), (f.b, bits')], fun k =>
        if k < n / 2 then A (2 * k + f.fn.toNat) else B (2 * (k - n / 2) + f.fn.toNat)),
      (.vclz f, [(f.a, is)], fun k => clzNat w (A k)),
      (.vpopc f, [(f.a, is)], fun k => popNat w (A k))]
    ∀ row ∈ rows, (∀ q ∈ row.2.1, q.2 (x.rv q.1).tag.toNat = true) →
      ((∀ k < n, active m w k = true) ∨ (x.rv f.d).tag = f.fmt ∨ (x.rv f.d).tag = 0) →
      Completes row.1 s fun u =>
        let z := u.slotOf s.cur
        (∃ y fl, z.pend = x.pend ++ [⟨s.cycle + 4, x.seq, [(f.d, y)], [], [], fl⟩] ∧ y.tag = f.fmt ∧ y.side = 0 ∧
          ∀ k < n, elem w y.data.toNat k =
            if active m w k = true then row.2.2 k % 2 ^ w else elem w (x.rv f.d).data.toNat k) ∧
        z.pc = x.pc + 12#64 ∧ x.sameRegs z ∧ x.sameTrap z ∧ x.sameModes z ∧ s.Elsewhere u) ∧
  (∀ (s : State) (f : LV), s.Issues →
    let x := s.here
    let t := f.fmt.toNat
    let w := tagWidth t
    let n := 2048 / w
    let m := laneMask x f
    let va := x.rv f.a
    let vb := x.rv f.b
    let vd := x.rv f.d
    let merges := (∀ k < n, active m w k = true) ∨ vd.tag = f.fmt ∨ vd.tag = 0
    let leaves (i : Instr) (p : Pending → Prop) : Prop := Completes i s fun u =>
      let z := u.slotOf s.cur
      (∃ r, z.pend = x.pend ++ [r] ∧ r.due = s.cycle + 4 ∧ r.seq = x.seq ∧ p r) ∧
        z.pc = x.pc + 12#64 ∧ x.sameRegs z ∧ x.sameTrap z ∧ x.sameModes z ∧ s.Elsewhere u
    let result (i : Instr) (p : VVal → Prop) : Prop :=
      leaves i fun r => r.s = [] ∧ r.p = [] ∧ ∃ y, r.v = [(f.d, y)] ∧ y.tag = f.fmt ∧ p y
    (va.tag = f.fmt → merges → isFloat t = false → f.sat = 0#1 →
      result (.vabs f) (fun y => ∀ k < n, active m w k = true →
        elem w y.data.toNat k = (((intVal t (elem w va.data.toNat k)).natAbs : Int) % 2 ^ w).toNat) ∧
      result (.vneg f) (fun y => ∀ k < n, active m w k = true →
        elem w y.data.toNat k = (-intVal t (elem w va.data.toNat k) % 2 ^ w).toNat)) ∧
    (va.tag = f.fmt → merges → result (.vabs f) (fun _ => True) ∧ result (.vneg f) (fun _ => True)) ∧
    (va.tag = f.fmt → vb.tag = f.fmt →
      result (.vsel f) fun y => ∀ k < n, elem w y.data.toNat k =
        elem w (if active m w k = true then va else vb).data.toNat k) ∧
    (leaves (.vmov f) fun r => r.s = [] ∧ r.p = [] ∧ ∃ y, r.v = [(f.d, y)] ∧ y.tag = va.tag ∧ y.side = va.side ∧
      ∀ b < 256, elem 8 y.data.toNat b = elem 8 (if m.getLsbD b = true then va else vd).data.toNat b) ∧
    (leaves (.vretag f) fun r => r.s = [] ∧ r.p = [] ∧ r.v = [(f.d, ⟨va.data, va.side, f.fmt⟩)]) ∧
    (va.tag = f.fmt → vb.tag = f.fmt → w ∈ [8, 16, 32, 64] →
      leaves (.vcmp f) fun r => r.v = [] ∧ r.s = [] ∧ ∃ c : Mask, r.p = [(f.d.setWidth 3, c)] ∧
        ∀ b < 256, c.getLsbD b =
          (active m w (b / (w / 8)) && condHolds f.fn.toNat
            (orderElem t (elem w va.data.toNat (b / (w / 8))) (elem w vb.data.toNat (b / (w / 8)))).1)) ∧
    (va.tag = f.fmt →
      leaves (.vextr f) fun r => r.v = [] ∧ r.p = [] ∧
        r.s = [(f.d.setWidth 5, BitVec.ofInt 64 (intVal t (elem w va.data.toNat
          ((x.rs (f.b.setWidth 5)).toNat % n))))]) ∧
    (vd.tag = f.fmt ∨ vd.tag = 0 → w ∈ [4, 8, 16, 32, 64] →
      result (.vins f) fun y => ∀ k < n, elem w y.data.toNat k =
        if k = (x.rs (f.b.setWidth 5)).toNat % n then (x.rs (f.a.setWidth 5)).toNat % 2 ^ w
        else elem w vd.data.toNat k) ∧
    (va.tag.toNat = f.fn.toNat % 32 → vd.tag = f.fmt ∨ vd.tag = 0 → result (.vcvt f) fun y =>
      let src := va.tag.toNat
      let ws := tagWidth src
      let j := f.fn.toNat / 32 % 16
      let A (k : Nat) : Nat := elem ws va.data.toNat k
      -- an integer widened keeps its value
      (src ∈ [1, 2, 3, 4] → t ∈ [3, 4, 5] → ws < w → ∀ k < n, elem w y.data.toNat k =
        if active m w k = true then (intVal src (A (j * n + k)) % 2 ^ w).toNat else elem w vd.data.toNat k) ∧
      -- F16 and BF16 become F32
      (src ∈ [6, 7] → t = 8 → ∀ k < n, elem w y.data.toNat k =
        if active m w k = true then (roundF (ffmt 8) f.rm.toNat false (unpackF (ffmt src) (A (j * n + k)))).1 % 2 ^ w
        else elem w vd.data.toNat k) ∧
      -- F32 is rounded to BF16 in part j
      (src = 8 → t = 7 → ∀ k < n, elem w y.data.toNat k =
        if j * 64 ≤ k ∧ k < j * 64 + 64 ∧ active m w k = true then
          (roundF (ffmt 7) f.rm.toNat (f.sat == 1) (unpackF (ffmt 8) (A (k - j * 64)))).1 % 2 ^ w
        else elem w vd.data.toNat k)) ∧
    (va.tag = 8#5 → vd.tag = f.fmt ∨ vd.tag = 0 → t ≠ 13 ∨ vb.tag = 8#5 → result (.vqnt f) fun y =>
      let j := f.fn.toNat
      let vs := (List.range 64).map fun i => elem 32 va.data.toNat i
      let S := elem 32 vb.data.toNat 0
      -- two blocks of 32 elements with their scales, or one of 64 under S
      (t = 11 ∨ t = 12 → j < 4 →
        let q (b : Nat) := mxQuant t ((vs.drop (32 * b)).take 32)
        (∀ k < n, elem w y.data.toNat k = if 64 * j ≤ k ∧ k < 64 * j + 64 then
          (q ((k - 64 * j) / 32)).1.getD ((k - 64 * j) % 32) 0 % 2 ^ w else elem w vd.data.toNat k) ∧
        (∀ b < 2, elem 8 y.side.toNat (2 * j + b) = (q b).2.1 % 256) ∧
        ∀ b < 16, b / 2 ≠ j → elem 8 y.side.toNat b = elem 8 vd.side.toNat b) ∧
      (t = 13 → j < 8 →
        (∀ k < n, elem w y.data.toNat k = if 64 * j ≤ k ∧ k < 64 * j + 64 then
          (qnBlock S vs).1.getD (k - 64 * j) 0 % 2 ^ w else elem w vd.data.toNat k) ∧
        elem 8 y.side.toNat j = (qnBlock S vs).2 % 256 ∧ elem 32 y.side.toNat 2 = S ∧
        ∀ b < 8, b ≠ j → elem 8 y.side.toNat b = elem 8 vd.side.toNat b)) ∧
    (∀ u vs, vs.length = 32 → (vs.any notFinite = true → mxQuant u vs = (List.replicate 32 0, 255, 0)) ∧
      ((∀ v ∈ vs, v % 2 ^ 31 = 0) → mxQuant u vs = (List.replicate 32 0, 0, 0))) ∧
    (isBlock va.tag.toNat = true → va.tag = 13#5 ∨ f.fn.toNat < 4 → merges → result (.vdq f) fun y => t = 8 → ∀ k < n,
      let e := 64 * f.fn.toNat + k
      let u := va.tag.toNat
      elem w y.data.toNat k = if active m w k = true then
          (dequant u (elem (tagWidth u) va.data.toNat e) (elem 8 va.side.toNat (e / blockSize u))
            (elem 32 va.side.toNat 2)).1 % 2 ^ w
        else elem w vd.data.toNat k) ∧
    (va.tag ∈ [1#5, 2#5] → vb.tag ∈ [1#5, 2#5] → (x.rv f.c).tag = 4#5 → t = 4 → merges → f.sat = 0#1 →
      result (.vdot4 f) fun y => ∀ k < 64, active m 32 k = true → elem 32 y.data.toNat k =
        ((intVal 4 (elem 32 (x.rv f.c).data.toNat k) + ((List.range 4).map fun q =>
          intVal va.tag.toNat (elem 8 va.data.toNat (4 * k + q)) * intVal vb.tag.toNat (elem 8 vb.data.toNat (4 * k + q))).sum)
          % 2 ^ 32).toNat))

/-- R96, R98, R303, R305, R313 to R315: a class V instruction whose sources carry their tags issues with its result
outstanding: its tag becomes busy, or, without a tag, the slot stalls, and its reply comes no sooner than 12 cycles
after. A division, a root and a special function are made of each active element. An integer VREDADD without saturation
leaves the sum of the active elements in element 0, VREDMAX the greatest of them and VREDMIN the least, each with zeros
in the other elements; an integer VSCAN leaves in every element the sum, or the greatest or the least, of the active
elements up to it; VNZS lists the numbers of the non-zero active elements of its half, each plus s[b], and their count.
R300, Table 6.1: a vector source whose tag the instruction does not accept traps TAG (4), with the register's number and
its tag in TRAPVAL, before anything is written. -/
def Obligations.ClassVInstructionsStayOutstanding : Prop :=
  (∀ (s : State) (f : LV), s.Issues →
    let x := s.here
    let t := f.fmt.toNat
    let w := tagWidth t
    let m := laneMask x f
    let merges := (∀ k < 2048 / w, active m w k = true) ∨ (x.rv f.d).tag = f.fmt ∨ (x.rv f.d).tag = 0
    let stays (i : Instr) (p : VVal → Prop) : Prop := Completes i s fun u =>
      (∃ o y, Started s u 3 o ∧ o.ta = f.ta.toNat ∧ o.sync = (f.ta == 0#3) ∧ o.left = 0 ∧ o.issued = s.cycle ∧
        o.v = [(f.d, y)] ∧ y.tag = f.fmt ∧ p y) ∧
      (f.ta ≠ 0#3 → (u.slotOf s.cur).tags.getLsbD f.ta.toNat = true) ∧
      (∃ k ∈ u.flights, k.tid = s.cur ∧ k.seq = x.seq ∧ k.pk = .vreply ∧ k.notBefore = s.cycle + 12) ∧ s.Asked u
    let A (k : Nat) := elem w (x.rv f.a).data.toNat k
    let special (fn : Special) (k : Nat) : Nat := (specialF fn f.rm.toNat (elem 32 (x.rv f.a).data.toNat k)).1
    (∀ row ∈ ([(.vdiv f, [(f.a, f.fmt), (f.b, f.fmt)],
          fun k => (arithF .div t f.rm.toNat (A k) (elem w (x.rv f.b).data.toNat k)).1),
        (.vsqrt f, [(f.a, f.fmt)], fun k => (sqrtF t f.rm.toNat (A k)).1), (.vrcp f, [(f.a, 8#5)], special .rcp),
        (.vrsq f, [(f.a, 8#5)], special .rsq), (.vexp2 f, [(f.a, 8#5)], special .exp2),
        (.vlog2 f, [(f.a, 8#5)], special .log2), (.vsint f, [(f.a, 8#5)], special .sint),
        (.vcost f, [(f.a, 8#5)], special .cost), (.vtanh f, [(f.a, 8#5)], special .tanh)] :
        List (Instr × List (VReg × Tag) × (Nat → Nat))),
      (∀ q ∈ row.2.1, (x.rv q.1).tag = q.2) → merges → stays row.1 fun y => y.side = 0 ∧ ∀ k < 2048 / w,
        elem w y.data.toNat k =
          if active m w k = true then row.2.2 k % 2 ^ w else elem w (x.rv f.d).data.toNat k) ∧
    ((x.rv f.a).tag = f.fmt → w ∈ [8, 16, 32, 64] →
      stays (.vredadd f) (fun y => isFloat t = false → f.sat = 0#1 → (∀ k, 0 < k → k < 2048 / w → elem w y.data.toNat k = 0) ∧
        elem w y.data.toNat 0 = ((((List.range (2048 / w)).filter fun k => active m w k).map fun k =>
          intVal t (elem w (x.rv f.a).data.toNat k)).sum % 2 ^ w).toNat) ∧
      -- the active integer elements below n, from which a maximum, a minimum or a sum is made
      let vals (n : Nat) : List Int := ((List.range n).filter fun k => active m w k).map fun k => intVal t (A k)
      let most (n : Nat) : Int := (vals n).foldl max (intRange t).1
      let least (n : Nat) : Int := (vals n).foldl min (intRange t).2
      let integer : Prop := t ∈ [1, 2, 3, 4, 5]
      let alone (y : VVal) (v : Int) : Prop := intVal t (elem w y.data.toNat 0) = v ∧
        ∀ k, 0 < k → k < 2048 / w → elem w y.data.toNat k = 0
      stays (.vredmax f) (fun y => integer → alone y (most (2048 / w))) ∧
      stays (.vredmin f) (fun y => integer → alone y (least (2048 / w))) ∧
      stays (.vscan f) fun y => integer → ∀ k < 2048 / w,
        (f.fn.toNat % 4 = 0 → f.sat = 0#1 → elem w y.data.toNat k = ((vals (k + 1)).sum % 2 ^ w).toNat) ∧
        (f.fn.toNat % 4 = 1 → intVal t (elem w y.data.toNat k) = most (k + 1)) ∧
        (f.fn.toNat % 4 = 2 → intVal t (elem w y.data.toNat k) = least (k + 1))) ∧
    ((x.rv f.a).tag.toNat = f.fn.toNat % 32 →
      let src := f.fn.toNat % 32
      let ws := tagWidth src
      let a (k : Nat) := elem ws (x.rv f.a).data.toNat k
      let list := ((List.range 64).map (64 * (f.fn.toNat / 32 % 2) + ·)).filter fun k => decide (k < 2048 / ws) &&
        active m ws k && if isFloat src then a k % 2 ^ (ws - 1) != 0 else a k != 0
      Completes (.vnzs f) s fun u =>
        (∃ o y, Started s u 3 o ∧ o.ta = f.ta.toNat ∧ o.v = [(f.d, y)] ∧ y.tag = 4#5 ∧ y.side = 0 ∧
          o.s = [(f.c.setWidth 5, BitVec.ofNat 64 list.length)] ∧
          (∀ (k : Nat) (h : k < list.length),
            elem 32 y.data.toNat k = ((x.rs (f.b.setWidth 5)).toNat + list[k]) % 2 ^ 32) ∧
          ∀ k, list.length ≤ k → k < 64 → elem 32 y.data.toNat k = 0xFFFFFFFF) ∧
        s.Asked u)) ∧
  (∀ (s : State) (f : LV) (i : Instr), s.Issues → s.CanTrap →
    let va := s.here.rv f.a
    (i ∈ [Instr.vadd f, .vsub f, .vmul f, .vfma f, .vfms f, .vmin f, .vmax f, .vabs f, .vneg f, .vmulh f, .vcmp f,
        .vsel f, .vextr f, .vdiv f, .vsqrt f, .vredadd f, .vredmax f, .vredmin f, .vscan f, .vclz f, .vpopc f] ∧
      va.tag ≠ f.fmt) ∨
    (i ∈ [Instr.vand f, .vor f, .vxor f, .vandn f, .vshl f, .vshr f, .vsra f, .vperm f, .vrotl f, .vzip f, .vunzip f] ∧
      isLG va.tag.toNat = false) ∨
    (i ∈ [Instr.vrcp f, .vrsq f, .vexp2 f, .vlog2 f, .vsint f, .vcost f, .vtanh f, .vqnt f] ∧ va.tag ≠ 8#5) →
    Completes i s fun t => Trapped s t 4 (BitVec.ofNat 64 (f.a.toNat + 256 * va.tag.toNat)) 3 ∧ s.Elsewhere t)

/-- R96, R100, R216: every class F result of a slot that is due is written at once, in issue order (of two for one
register the later issued stands), its flags ORed into FPFLAGS; a register with no result due keeps its value, the
results not yet due stay, and nothing outside the slot changes. R95, R96, R98, R122, R257: a reply ends the operation
whose parts have all been performed: its packet is gone, its tag is free, its results and its flags are written, all at
once, its signal is added to its semaphore, and a refused access (`dropped`) writes and signals nothing; every other
register keeps its value. What it says of the following is the model's own choice: class F results and the issue of
their cycle (log 77). -/
def Obligations.ResultsAreWrittenWhenTheyAreDue : Prop :=
  (∀ (s : State) (vf core slot : Nat),
    let id : Tid := ⟨vf, core, slot⟩
    let x := s.slotOf id
    let due := x.pend.filter fun p => decide (p.due ≤ s.cycle)
    (s.vdAt vf).isSome = true → due ≠ [] →
    Completes (.classFResultVisible vf core slot) s fun t =>
      let y := t.slotOf id
      y.pend = x.pend.filter (fun p => !decide (p.due ≤ s.cycle)) ∧
      y.fpflags = due.foldl (fun fl p => fl ||| p.flags) x.fpflags ∧
      (∀ r, r ≠ 0 → y.rs r = lastOf (due.flatMap (·.s)) r (x.rs r)) ∧
      (∀ r, y.rv r = lastOf (due.flatMap (·.v)) r (x.rv r)) ∧
      (∀ r, r ≠ 0 → y.rp r = lastOf (due.flatMap (·.p)) r (x.rp r)) ∧
      y.pc = x.pc ∧ x.sameTrap y ∧ x.sameModes y ∧ s.SameMemory t ∧ t.flights = s.flights ∧
      ∀ u, id.Other u → t.slotOf u = s.slotOf u) ∧
  (∀ (s : State) (k : Flight) (o : Op),
    s.flightAt s.turn = some k → k.notBefore ≤ s.cycle → s.narrowDown k = false → (s.slotOf k.tid).opOf k.seq = some o →
    ∀ row ∈ ([(.classVReply, .vreply), (.scalarLoadReply, .sreply)] : List (Instr × Packet)), k.pk = row.2 →
      Completes row.1 s fun t =>
        let x := s.slotOf k.tid
        let y := t.slotOf k.tid
        (∀ j ∈ t.flights, j.id ≠ k.id) ∧ y.ops = x.ops.filter (·.seq != o.seq) ∧
        (o.ta ≠ 0 → o.ta < 8 → y.tags.getLsbD o.ta = false) ∧ (∀ j < 8, j ≠ o.ta → y.tags.getLsbD j = x.tags.getLsbD j) ∧
        (o.dropped = true → x.sameRegs y ∧ ∀ q, (t.coreAt k.tid.vf k.tid.core).sem q = (s.coreAt k.tid.vf k.tid.core).sem q) ∧
        (o.dropped = false → y.fpflags = x.fpflags ||| o.flags ∧
          (∀ r, r ≠ 0 → y.rs r = lastOf o.s r (x.rs r)) ∧ (∀ r, y.rv r = lastOf o.v r (x.rv r)) ∧
          (∀ r, r ≠ 0 → y.rp r = lastOf o.p r (x.rp r)) ∧
          ∀ q, (t.coreAt k.tid.vf k.tid.core).sem q =
            if q = o.gq ∧ o.gv ≠ 0 then min 65535 ((s.coreAt k.tid.vf k.tid.core).sem q + o.gv)
            else (s.coreAt k.tid.vf k.tid.core).sem q) ∧
        y.pc = x.pc ∧ x.sameTrap y ∧ s.SameMemory t)

/-! ### Vector memory instructions at issue (R155, R321 to R331) -/

/-- R155, R321: 256 contiguous bytes are moved in units of one aligned 8-byte word each: every active byte of the
register lies in exactly one unit, whose mask selects it, and no unit selects an inactive byte. R321 to R331: a vector
load, store or atomic whose register carries its type, whose address is aligned and whose every unit or active element
leads to a place issues: one access for each has left, the operation that writes v[v] (a load's or an atomic's) is
outstanding under its tag until all have been performed, and no byte has changed yet. R135, R321, R322: a vector access
whose register carries another type traps TAG (4); one whose contiguous address is not aligned to its element (at most 8
bytes) traps MISALIGN (3) with the address; a contiguous load whose first word passes its window's end traps ADDR (7).
-/
def Obligations.VectorMemoryInstructionsLeaveOrTrap : Prop :=
  (∀ (ea : Nat) (act : Nat → Bool),
    (∀ b < 256, act b = true → ∃ u ∈ unitsOf ea act, u.1 ≤ b ∧ b < u.1 + u.2.1 ∧ u.2.2.testBit (b - u.1) = true) ∧
    (∀ u ∈ unitsOf ea act, 0 < u.2.1 ∧ u.1 + u.2.1 ≤ 256 ∧ (ea + u.1) / 8 = (ea + u.1 + u.2.1 - 1) / 8 ∧
      ∀ i, u.2.2.testBit i = true → i < u.2.1 ∧ act (u.1 + i) = true) ∧
    (unitsOf ea act).Pairwise fun u v => u.1 + u.2.1 ≤ v.1) ∧
  (∀ (s : State) (f : LM), s.Issues →
    let x := s.here
    let t := f.fmt.toNat
    let w := tagWidth t
    let m := if isBlock t = true then BitVec.allOnes 256 else lmGuard x f
    let base := lmAddressRaw x f 0
    let full := ∀ k < 2048 / w, active m w k = true
    let merges := full ∨ (x.rv f.v).tag = f.fmt ∨ (x.rv f.v).tag = 0
    let stores := f.fmt = 0 ∨ (x.rv f.v).tag = f.fmt
    let data := (x.rv f.v).data.toNat
    let side (op : AccOp) : List Part := if isBlock t = true then
        (sideBytes t (lmOffset x f) (x.rs f.sc).toNat).map fun q =>
          .access ⟨q.1 % 2 ^ 64, 1, 1, op, (byteAt (x.rv f.v).side.toNat q.2).toNat, 256 + q.2, 1⟩
      else []
    let loadSide : List Part := if isBlock t = true then
        (sideBytes t (lmOffset x f) (x.rs f.sc).toNat).map fun q => .access ⟨q.1 % 2 ^ 64, 1, 1, .loadV, 0, 256 + q.2, 1⟩
      else []
    let starts (i : Instr) (ps : List Part) (p : Op → Prop) : Prop := s.AllLead ps → Completes i s fun u =>
      (∃ o, Started s u (LM.words f) o ∧ o.left = ps.length ∧ o.ta = f.ta.toNat ∧ o.sync = (f.ta == 0#3) ∧
        o.gq = f.gq.toNat ∧ o.gv = f.gv.toNat ∧ p o) ∧ AllSent s u ps ∧ s.Asked u
    let writes (o : Op) : Prop := ∃ y, o.v = [(f.v, y)] ∧ y.tag = f.fmt
    let aligned := base % min 8 (max 1 (w / 8)) = 0 ∧ (isBlock t = true → lmOffset x f % 256 = 0)
    let strided : List (Nat × Int) := (activeElems m w).map fun k => (k, (k : Int) * (x.rs f.sc).toInt)
    let ix := x.rv (f.sc.setWidth 6)
    let iw := tagWidth ix.tag.toNat
    let indexed : List (Nat × Int) := ((activeElems m w).filter fun k => decide (k < 2048 / iw)).map fun k =>
      (k, toSigned iw (elem iw ix.data.toNat k) * 2 ^ (f.fn.toNat % 4))
    let inPlace (es : List (Nat × Int)) := ∀ e ∈ es, lmAddressRaw x f e.2 % (w / 8) = 0
    (∀ ps, aligned → merges → isBlock t = false → unitParts x f base (byteActive m w) .loadV
        (if full then 0 else data) = .ok ps → starts (.vld f) ps writes) ∧
    (∀ ps, aligned → isBlock t = true → unitParts x f base (byteActive m w) .loadV 0 = .ok ps →
      starts (.vld f) (ps ++ loadSide) writes) ∧
    (∀ ps, aligned → stores → unitParts x f base (byteActive m w) .store data = .ok ps →
      starts (.vst f) (ps ++ side .store) fun o => o.v = []) ∧
    (isBlock t = false → 8 ≤ w →
      (∀ ps, inPlace strided → merges → elemParts x f w strided .loadV (if full then 0 else data) = .ok ps →
        starts (.vlds f) ps writes) ∧
      (∀ ps, inPlace strided → stores → elemParts x f w strided .store data = .ok ps →
        starts (.vsts f) ps fun o => o.v = []) ∧
      (ix.tag = 4#5 ∨ ix.tag = 5#5 → inPlace indexed →
        (∀ ps, (full ∧ 2048 / w ≤ 2048 / iw) ∨ (x.rv f.v).tag = f.fmt ∨ (x.rv f.v).tag = 0 →
          elemParts x f w indexed .loadV (if full ∧ 2048 / w ≤ 2048 / iw then 0 else data) = .ok ps →
          starts (.vgath f) ps writes) ∧
        (∀ ps, stores → elemParts x f w indexed .store data = .ok ps → starts (.vscat f) ps fun o => o.v = [])) ∧
      (∀ ps, base % 8 = 0 → merges → f.fn.toNat % 2 = 0 → unitParts x f base (byteActive m w) (.loadFull false) 0 = .ok ps →
        starts (.vldf f) ps fun o => writes o ∧ o.s = [(f.sc, 0)] ∧
          o.deadline = if f.fn.toNat / 2 = 31 then none else some (s.cycle + 2 ^ (f.fn.toNat / 2))) ∧
      (∀ ps, base % 8 = 0 → stores → unitParts x f base (byteActive m w) .storeFull data = .ok ps →
        starts (.vstf f) ps fun o => o.v = []) ∧
      (∀ as, (x.rv f.v).tag = f.fmt → inPlace ((activeElems m w).map fun k => (k, ((w / 8 * k : Nat) : Int))) →
        lmAddresses x f ((activeElems m w).map fun k => ((w / 8 * k : Nat) : Int)) = .ok as →
        starts (.vamo f) (((activeElems m w).zip as).map fun q =>
          .atomic ⟨f.fn.toNat % 16, w, q.2, elem w data q.1, 0, f.sc.toNat, some q.1⟩) writes))) ∧
  (∀ (s : State) (f : LM), s.Issues → s.CanTrap →
    let x := s.here
    let t := f.fmt.toNat
    let w := tagWidth t
    let base := lmAddressRaw x f 0
    let y := x.rv f.v
    let traps (i : Instr) (cause : Nat) (val : Word) : Prop :=
      Completes i s fun u => Trapped s u cause val (LM.words f) ∧ s.Elsewhere u
    let wrong := BitVec.ofNat 64 (f.v.toNat + 256 * y.tag.toNat)
    (y.tag ≠ f.fmt → f.fmt ≠ 0 → ∀ i ∈ [Instr.vst f, .vsts f, .vstf f], traps i 4 wrong) ∧
    (y.tag ≠ f.fmt → traps (.vamo f) 4 wrong) ∧
    (y.tag = f.fmt → isBlock t = false → base % min 8 (max 1 (w / 8)) ≠ 0 →
      ∀ i ∈ [Instr.vld f, .vst f], traps i 3 (BitVec.ofNat 64 base)) ∧
    (y.tag = f.fmt → base % 8 ≠ 0 → ∀ i ∈ [Instr.vldf f, .vstf f], traps i 3 (BitVec.ofNat 64 base)) ∧
    (y.tag = f.fmt → isBlock t = false → base % min 8 (max 1 (w / 8)) = 0 → byteActive (lmGuard x f) w 0 = true →
      lmAddress x f 0 = none → traps (.vld f) 7 (BitVec.ofNat 64 base)) ∧
    ((x.rv (f.sc.setWidth 6)).tag ≠ 4#5 → (x.rv (f.sc.setWidth 6)).tag ≠ 5#5 → ∀ i ∈ [Instr.vgath f, .vscat f],
      traps i 4 (BitVec.ofNat 64 (f.sc.toNat + 256 * (x.rv (f.sc.setWidth 6)).tag.toNat))))

/-! ### Accesses at their places (R132, R138, R141, R153, R157, R171, R175) -/

/-- R66, R132, R133, R138, R141, R157: a load that comes to its place, through the transit buffer or not, takes the
bytes its core sees there: the scratchpad's, an L1 line's, a visitor line's or the home's, or host memory's. A scalar
result is extended as its instruction says; the packet is gone, and after the last part the reply leaves. Memory keeps
every byte but what the core had left dirty in lines of its L1 that leave it. R66, R132, R133, R138, R141, R157, R158: a
store that comes to its place, through the transit buffer or not, changes the bytes its mask selects and no other: in
the target core's scratchpad; in host memory; at the home of a line of another die, where the bytes that the storing
core itself had left dirty in its copy of that line are written first; or, on its own die with L1 in use, in the L1
line, whose bytes become dirty while the home keeps its own and a line that gives way to it is written back. A store to
the region table also makes the lines leave that L1 must not hold any more. R66, R171, R326 to R328: STF's store sets
its word full in the same step; FECLR's sets it empty and leaves its bytes; LDF's load of a full word takes its value
and, where it consumes, sets it empty, and at an empty word it waits there. The bytes of that line which the thread's
own core had left dirty reach the home first. What it says of the following is the model's own choice: private storage
of maps and windows (log 15); lines of host windows and of other modules (log 104). -/
def Obligations.AccessesActAtTheirPlace : Prop :=
  (∀ (s : State) (k : Flight) (a : Access) (p : Place) (i : Instr) (o : Op) (r : SReg) (w0 : Word) (b : List Byte),
    s.Inv → s.Comes i k (.access a) p →
    (s.slotOf k.tid).ops.find? (·.seq == k.seq) = some o → o.left = 1 → o.scalar = true → o.s = [(r, w0)] →
    a.size ∈ [1, 2, 4, 8] → s.sees k.tid a.va p a.size b →
    (∀ sg, a.op = .loadS sg → Completes i s fun t =>
      (∃ o' ∈ (t.slotOf k.tid).ops, o'.seq = k.seq ∧ o'.left = 0 ∧ o'.s = [(r,
        if sg = true then (BitVec.ofNat (8 * a.size) (leNat b)).signExtend 64 else BitVec.ofNat 64 (leNat b))]) ∧
      (∃ j ∈ t.flights, j.tid = k.tid ∧ j.seq = k.seq ∧ j.pk = .sreply) ∧ (∀ j ∈ t.flights, j.id ≠ k.id) ∧ s.SameHost t ∧
      (∀ x, readCell t.mem x = readCell s.mem x ∨ s.CameHome t k.tid.vf k.tid.core x) ∧
      (∀ w, setMem t.full w = setMem s.full w) ∧ ∀ u, k.tid.Other u → t.slotOf u = s.slotOf u)) ∧
  (∀ (s : State) (k : Flight) (a : Access) (p : Place) (i : Instr) (v : VD), s.Inv → s.Comes i k (.access a) p →
    a.op = .store → s.vdAt k.tid.vf = some v →
    let bytes := fun n => byteAt a.data n
    let hits (n : Nat) : Prop := n < a.size ∧ a.mask.testBit n = true
    let core := s.coreAt k.tid.vf k.tid.core
    (∀ c off, p = .window c off → off + a.size ≤ (s.coreAt k.tid.vf c).spSize →
      Memory.wf (s.coreAt k.tid.vf c).sram = true →
      Completes i s fun t =>
        (∀ n, hits n → readCell (t.coreAt k.tid.vf c).sram (off + n) = bytes n) ∧
        (∀ b, (∀ n, hits n → b ≠ off + n) →
          readCell (t.coreAt k.tid.vf c).sram b = readCell (s.coreAt k.tid.vf c).sram b) ∧ s.SameMemory t) ∧
    (∀ h, p = .host h → Completes i s fun t =>
      (∀ n, hits n → readCell t.host (h + n) = bytes n) ∧
      (∀ b, (∀ n, hits n → b ≠ h + n) → readCell t.host b = readCell s.host b) ∧
      (∀ b, readCell t.mem b = readCell s.mem b) ∧ ∀ w, setMem t.full w = setMem s.full w) ∧
    (∀ pa cls cmp bs mig, p = .dram pa cls cmp bs mig →
      bs = true ∨ s.uncached v a.va pa = true ∨ dieOf (v.coreNo k.tid.core) ≠ homeOf pa / 32 ∨ core.l1size = 0 ∨
        mig ≠ none →
      Completes i s fun t => s.Stored t k.tid pa a.bytes ∧ s.SameHost t ∧ ∀ w, setMem t.full w = setMem s.full w) ∧
    (∀ pa cls cmp, p = .dram pa cls cmp false none → s.uncached v a.va pa = false →
      dieOf (v.coreNo k.tid.core) = homeOf pa / 32 → core.l1size ≠ 0 → pa % 128 + a.size ≤ 128 →
      Completes i s fun t =>
        let lines := (t.coreAt k.tid.vf k.tid.core).l1
        (∃ l ∈ lines, l.line = pa / 128) ∧
        (∀ l ∈ lines, l.line = pa / 128 → ∀ n, hits n →
          l.dirty.getLsbD (pa % 128 + n) = true ∧ byteAt l.data.toNat (pa % 128 + n) = bytes n) ∧
        (core.l1.any (·.line == pa / 128) = true → s.SameMemory t) ∧
        (∀ b, readCell t.mem b = readCell s.mem b ∨ b / 128 ≠ pa / 128 ∧ s.CameHome t k.tid.vf k.tid.core b) ∧
        s.SameHost t ∧ ∀ w, setMem t.full w = setMem s.full w)) ∧
  (∀ (s : State) (k : Flight) (a : Access) (pa cls : Nat) (cmp : Bool) (i : Instr) (o : Op), s.Inv →
    let p : Place := .dram pa cls cmp false none
    s.Comes i k (.access a) p → a.size = 8 → a.mask = 255 → pa % 8 = 0 →
    (a.op = .storeFull → Completes i s fun t =>
      s.Stored t k.tid pa a.bytes ∧ setMem t.full (pa / 8) = true ∧
      (∀ w, w ≠ pa / 8 → setMem t.full w = setMem s.full w) ∧ s.SameHost t) ∧
    (a.op = .setEmpty → Completes i s fun t =>
      setMem t.full (pa / 8) = false ∧ (∀ w, w ≠ pa / 8 → setMem t.full w = setMem s.full w) ∧
      (∀ b, readCell t.mem b = readCell s.mem b) ∧ s.SameHost t) ∧
    (∀ consume, a.op = .loadFull consume → setMem s.full (pa / 8) = false → (s.slotOf k.tid).opOf k.seq = some o →
      s.late k = false → Completes i s fun t =>
      (∃ j ∈ t.flights, j.tid = k.tid ∧ j.seq = k.seq ∧ j.pk = .wanting a p) ∧ s.SameMemory t ∧
        ∀ u, t.slotOf u = s.slotOf u) ∧
    (∀ consume r w0 rest, a.op = .loadFull consume → setMem s.full (pa / 8) = true → s.late k = false →
      s.firstWaiter k a p = true →
      (∀ v, s.vdAt k.tid.vf = some v → ∀ tpa, tenantOf v.grants pa = some tpa → v.inSlab tpa = false) →
      (s.slotOf k.tid).ops.find? (·.seq == k.seq) = some o → o.v = [] → o.s = (r, w0) :: rest →
      Completes i s fun t =>
        (∃ o' ∈ (t.slotOf k.tid).ops, o'.seq = k.seq ∧
          o'.s = (r, BitVec.ofNat 64 (leNat (readBytes t.mem pa 8))) :: rest) ∧
        setMem t.full (pa / 8) = !consume ∧ (∀ w, w ≠ pa / 8 → setMem t.full w = setMem s.full w) ∧
        (∀ b, s.KeptBut t k.tid (pa / 128) b) ∧ s.SameHost t))

/-- R66, R175, R329, R330: an atomic that comes to a scratchpad word, or to device memory at cu scope or wider, is one
read and write there: the old value is the operation's result and the word then holds the old value combined with the
operand (compare and exchange: the new value only where the old one equals the expected); no other byte changes but what
the thread's own core had left dirty in its copy of that line. One of core scope on a line of its own die that its L1
holds is one there. What it says of the following is the model's own choice: atomics on lines that L1 holds (log 87). -/
def Obligations.AtomicsReadAndWriteAtTheHome : Prop :=
  ∀ (s : State) (k : Flight) (q : AtomicReq) (p : Place) (i : Instr) (o : Op) (r : SReg) (w0 : Word), s.Inv →
    s.Comes i k (.atomic q) p → q.width = 64 → q.dst = none → q.operand < 2 ^ 64 → q.code ≠ 9 →
    (s.slotOf k.tid).ops.find? (·.seq == k.seq) = some o → o.s = [(r, w0)] →
    let bytes (x : BitVec 1024) (o : Nat) : List Byte := (List.range 8).map fun n => byteAt x.toNat (o + n)
    let signed (x : Nat) : Int := (BitVec.ofNat 64 x).toInt
    let new (old : Nat) : Nat := match q.code with
      | 0 => (old + q.operand) % 2 ^ 64
      | 1 => old &&& q.operand
      | 2 => old ||| q.operand
      | 3 => old ^^^ q.operand
      | 4 => if signed q.operand < signed old then q.operand else old
      | 5 => if signed old < signed q.operand then q.operand else old
      | 6 => min old q.operand
      | 7 => max old q.operand
      | 8 => q.operand
      | _ => if old = q.compare then q.operand else old
    let leaves (old : Nat) (g : State → Prop) : Prop := Completes i s fun t =>
      (∃ o' ∈ (t.slotOf k.tid).ops, o'.seq = k.seq ∧ o'.s = [(r, BitVec.ofNat 64 old)]) ∧ g t
    (∀ core off, p = .window core off → off + 8 ≤ (s.coreAt k.tid.vf core).spSize →
      let m := (s.coreAt k.tid.vf core).sram
      Memory.wf m = true → s.slabAt k.tid.vf p = false → leaves (leNat (readBytes m off 8)) fun t =>
        leNat (readBytes (t.coreAt k.tid.vf core).sram off 8) = new (leNat (readBytes m off 8)) ∧
        (∀ b, b < off ∨ off + 8 ≤ b → readCell (t.coreAt k.tid.vf core).sram b = readCell m b) ∧ s.SameMemory t) ∧
    (∀ pa cls cmp mig, p = .dram pa cls cmp false mig → q.scope ≠ 0 → s.slabAt k.tid.vf p = false →
      s.atTable k.tid.vf p ((List.range 8).map fun n => (n, 0)) = false →
      -- the word as it stands once the own core's dirty bytes have reached it
      let old := leNat (readBytes (applyAll (s.expel k.tid pa) s).mem pa 8)
      leaves old fun t => leNat (readBytes t.mem pa 8) = new old ∧
        (∀ b, b < pa ∨ pa + 8 ≤ b → s.KeptBut t k.tid (pa / 128) b) ∧ s.SameHost t ∧
        ∀ w, setMem t.full w = setMem s.full w) ∧
    (∀ pa cls cmp v l, p = .dram pa cls cmp false none → q.scope = 0 → s.vdAt k.tid.vf = some v →
      s.uncached v q.va pa = false → dieOf (v.coreNo k.tid.core) = homeOf pa / 32 →
      (s.coreAt k.tid.vf k.tid.core).l1size ≠ 0 → pa % 128 + 8 ≤ 128 →
      (s.coreAt k.tid.vf k.tid.core).l1.find? (·.line == pa / 128) = some l →
      let old := leNat (bytes l.data (pa % 128))
      leaves old fun t => s.SameMemory t ∧ ∃ l' ∈ (t.coreAt k.tid.vf k.tid.core).l1, l'.line = pa / 128 ∧
        leNat (bytes l'.data (pa % 128)) = new old)

/-- R66, R153: while all 16 entries of a slice's transit buffer are taken a request takes none, and below that it takes
one, under its number; an entry, none of the same core older there, frees with what its request leaves at its place
(which the statements on accesses at their places give for both ways there): the request is gone from it, and the oldest
request that waits for an entry of that slice takes it. A forward of a migrating page writes its bytes and its full bit
at the destination frame and changes nothing else there. What it says of the following is the model's own choice: L2,
virtual channels, credits and bandwidth (log 13); the transit entries (log 93). -/
def Obligations.TransitEntriesAndForwardsComplete : Prop :=
  ∀ (s : State) (k : Flight) (v : VD), s.Inv →
    (∀ slice id w p, s.flightAt id = some k → k.pk = .transit w p → p.home = slice → s.waiting k = false →
      (∀ a consume, w = .access a → a.op = .loadFull consume → s.late k = false) →
      (∀ g ∈ s.flights, id ≤ g.id ∨ g.tid.core ≠ k.tid.core ∨ g.tid.vf ≠ k.tid.vf ∨
        ∀ b q, g.pk = .transit b q → q.home ≠ p.home) →
      Completes (.transitEntryFree slice id) s fun t =>
        (∀ j ∈ t.flights, j.id ≠ id) ∧
        ∀ g w' q, s.nextTransit slice = some (g, w', q) →
          ∃ f ∈ s.flights, f.id = g ∧ ∃ j ∈ t.flights, j.id = g ∧ j.tid = f.tid ∧ j.seq = f.seq ∧ j.pk = .transit w' q) ∧
    (∀ a p, s.delivering = some k → k.pk = .access a p → s.throughTransit k p = true →
      (s.transits p.home).length < 16 → Completes .memoryAccessAtPlace s fun t =>
        (∃ j ∈ t.flights, j.id = k.id ∧ j.tid = k.tid ∧ j.seq = k.seq ∧ j.pk = .transit (.access a) p) ∧
          s.SameMemory t ∧ ∀ u, t.slotOf u = s.slotOf u) ∧
    (∀ r p, s.delivering = some k → k.pk = .atomic r p → s.throughTransit k p = true →
      (s.transits p.home).length < 16 → Completes .atomicAtPlace s fun t =>
        (∃ j ∈ t.flights, j.id = k.id ∧ j.tid = k.tid ∧ j.seq = k.seq ∧ j.pk = .transit (.atomic r) p) ∧
          s.SameMemory t ∧ ∀ u, t.slotOf u = s.slotOf u) ∧
    (∀ a p i, s.delivering = some k → (k.pk = .access a p ∧ i = .memoryAccessAtPlace ∨
        ∃ r, k.pk = .atomic r p ∧ i = .atomicAtPlace) →
      s.throughTransit k p = true → 16 ≤ (s.transits p.home).length → exec i s = .next { s with still := true }) ∧
    (∀ va pa tpa q bytes full, s.delivering = some k → k.pk = .forward va pa s.ownDev tpa bytes full →
      (∀ g ∈ s.flights, k.id ≤ g.id ∨ g.tid.vf ≠ k.tid.vf ∨
        ∀ va' pa' d q' b e, g.pk = .forward va' pa' d q' b e → homeOf pa' ≠ homeOf pa) →
      s.vdAt k.tid.vf = some v → v.stage2 tpa = some q →
      Completes .migrationForward s fun t =>
        (∀ i (h : i < bytes.length), readCell t.mem (q + i) = bytes[i]) ∧
        (∀ b, b < q ∨ q + bytes.length ≤ b → readCell t.mem b = readCell s.mem b) ∧
        (∀ on, full = some on → setMem t.full (q / 8) = on) ∧
        (∀ w, w ≠ q / 8 ∨ full = none → setMem t.full w = setMem s.full w) ∧ s.SameHost t ∧
        ∀ j ∈ t.flights, j.id ≠ k.id)

/-! ### Words, fetch, and one step (R251 to R262, R83) -/

/-- R251 to R260, R266: decoding the words of a well-formed instruction gives it back, with every operand at every value
that its encoding admits. -/
def Obligations.EncodedInstructionsDecodeToThemselves : Prop :=
  ∀ (i : Instr) (w : Window), check i = none → encode i = some w → decode w = .ok i

/-- R251, R258, R261: what decodes is well-formed, and its words are those that encode it: no bit that LEN counts is
ignored, and no bit beyond is read. R259 to R261 with Table 14.9: no word decodes with an unassigned opcode, a
permanently illegal one, a LEN that its opcode does not have, a reserved bit set, or a reserved format, hint, rounding
mode or guard. -/
def Obligations.WordsDecodeExactlyAsEncoded : Prop :=
  (∀ (w : Window) (i : Instr), decode w = .ok i → check i = none ∧
    ∃ e, encode i = some e ∧ ∀ k, e.getLsbD k = (decide (k < 32 * wordCount (w.extractLsb' 0 32)) && w.getLsbD k)) ∧
  (∀ w : Window,
    let len := w.extractLsb' 0 2
    let op := (w.extractLsb' 2 8).toNat
    let long := len = 2#2 ∨ len = 3#2
    let none' : Prop := ∀ i, decode w ≠ .ok i
    let isLV := 0x01 ≤ op ∧ op ≤ 0x31
    let isLM := 0x60 ≤ op ∧ op ≤ 0xAB
    (op = 0 ∨ 0xF8 ≤ op → none') ∧
    (len = 0#2 → (0x1C ≤ op ∧ op ≤ 0x1F) ∨ (0x29 ≤ op ∧ op ≤ 0x2F) ∨ (0x3A ≤ op ∧ op ≤ 0x3F) ∨ (0x51 ≤ op ∧ op ≤ 0x5F) ∨
      0x76 ≤ op → none') ∧
    (long → (0x32 ≤ op ∧ op ≤ 0x5F) ∨ (0x69 ≤ op ∧ op ≤ 0x6F) ∨ (0x75 ≤ op ∧ op ≤ 0x7F) ∨ op = 0x8E ∨ op = 0x8F ∨
      (0x99 ≤ op ∧ op ≤ 0x9F) ∨ 0xAC ≤ op → none') ∧
    (len = 1#2 → op ≠ 0x28 ∨ w.extractLsb' 15 17 ≠ 0 → none') ∧ (len ≠ 1#2 → op = 0x28 → ¬long → none') ∧
    (len = 3#2 → isLV → none') ∧
    (long → isLV → w.extractLsb' 62 2 ≠ 0 ∨ 5 ≤ (w.extractLsb' 72 3).toNat ∨
      (w.extractLsb' 64 3 = 0 ∧ w.extractLsb' 67 1 = 1) ∨ (w.extractLsb' 68 3 = 0 ∧ w.extractLsb' 71 1 = 1) → none') ∧
    (long → isLM → w.extractLsb' 59 5 ≠ 0 ∨ (w.extractLsb' 53 3 = 0 ∧ w.extractLsb' 56 1 = 1) ∨
      (w.extractLsb' 64 8 ≠ 0 ∧ w.extractLsb' 72 6 = 0) ∨ (w.extractLsb' 78 8 ≠ 0 ∧ w.extractLsb' 86 4 = 0) → none') ∧
    (long → 3 ≤ (w.extractLsb' 23 3).toNat ∨ 16 ≤ (w.extractLsb' 26 5).toNat → none'))

/-- Words written out from Tables 14.2 to 14.8 decode to the instruction they stand for. -/
def Obligations.WordsFromTheTablesDecode : Prop :=
  -- add s3, s1, s2: b 2, a 1, d 3, OP 0x01, LEN 00
  decode (BitVec.ofNat 160 0b0000000_00010_00001_00011_00000001_00) = .ok (.add 3 1 2) ∧
  -- addi s5, s6, -1: imm12 all ones, a 6, d 5, OP 0x20
  decode (BitVec.ofNat 160 0b111111111111_00110_00101_00100000_00) = .ok (.addi 5 6 0xFFF#12) ∧
  -- nop, as Table 14.13 writes it
  decode (BitVec.ofNat 160 0x00000124) = .ok .nop ∧
  -- br.nez s7, -2: off14 all ones but bit 0, cc 1, a 7, OP 0x40
  decode (BitVec.ofNat 160 0b11111111111110_001_00111_01000000_00) = .ok (.br 7 1 0x3FFE#14) ∧
  -- vadd.i32 v1, v2, v3 when p1: word 0 fmt 4, OP 0x01, LEN 10; word 1 b 3, a 2, d 1; word 2 pa 1
  decode (BitVec.ofNat 160 (0b00100_000_0000000_000_000_00000001_10 +
      0b000011_000010_000001 * 2 ^ 32 + 1 * 2 ^ 64)) =
    .ok (.vadd ⟨0, 0, 0, 0, 4, 0, 1, 2, 3, 0, 0, 1, 0, 0, 0, 0, 0⟩)

/-- R262, R251: a word of a unit that the core's fetch buffer does not hold is read, little-endian, where its address
leads (neither a narrow on the way being down nor its transit buffer full, and the core's own L1 holding no dirty byte
of that line); words whose aligned 8-byte units the buffer holds are taken from it. Together they are the instruction's
words in order. A step runs the instruction that its words decode to: where the agenda names a slot that is awake and
not about to end, a member of no gang, past its first access, with no hold, no semaphore wait and no descriptor read
that has to wait, no wait of another thread stands to be met first, and no slot that the core's search visits before it
has an instruction to issue, step is exec of that instruction, the issuing thread named and the slot's registers as they
were; where the words decode to none, it is the trap of R261. What it says of the following is the model's own choice:
which agent moves next; how a program comes to run from reset (log 1). -/
def Obligations.StepRunsTheDecodedInstruction : Prop :=
  (∀ (s : State) (t : Tid),
    let pc := (s.slotOf t).pc.toNat
    let priv := (s.slotOf t).priv
    let buffer := (s.coreAt t.vf t.core).fetched
    (∀ pa cls cmp bs mig g es v w, s.resolve t.vf t.core pc 4 .fetch priv true = (.at (.dram pa cls cmp bs mig) g, es) →
      lookup buffer (fetchKey pc priv) = none → s.vdAt t.vf = some v → pc % 4 = 0 → pa % 8 = pc % 8 →
      s.onWay t.vf t.core (.dram pa cls cmp bs mig) = none →
      (∀ tpa, tenantOf v.grants (pa / 8 * 8) = some tpa → v.inSlab tpa = false) →
      (∀ l ∈ (s.coreAt t.vf t.core).l1, l.line = pa / 128 → l.dirty = 0) →
      w = BitVec.ofNat 32 (leNat (readBytes s.mem pa 4)) →
      (s.fetchWord t pc).1 = .ok w ∧ (wordCount w = 1 → (s.fetch t).1 = .code (w.setWidth 160))) ∧
    (∀ ws : List (BitVec 32), (∀ w, ws.head? = some w → wordCount w = ws.length) → ws ≠ [] →
      (∀ k (h : k < ws.length), let va := (pc + 4 * k) % 2 ^ 64
        ∃ u, lookup buffer (fetchKey va priv) = some u ∧ (u >>> (8 * (va % 8))).setWidth 32 = ws[k]) →
      ∃ w, s.fetch t = (.code w, []) ∧ ∀ k (h : k < ws.length), w.extractLsb' (32 * k) 32 = ws[k])) ∧
  (∀ (s u : State) (t : Tid) (rest : List Mover) (w : Window) (es : List Eff) (i : Instr),
    s.agenda = .issue t :: rest →
    let s' : State := { s with agenda := rest, still := false }
    s'.nextMet = none →
    s'.awake t = true → s'.searched t = true → (s'.slotOf t).dying = false → (s'.slotOf t).bootVec = false → s'.members t = [t] →
    s'.fetch t = (.code w, es) →
    (decode w = .ok i ∨ (∀ j, decode w ≠ .ok j) ∧ i = .nonInstruction (w.extractLsb' 0 32)) →
    s'.holds t i = false → waitField w = none → s'.descriptorWaits t i = false →
    let at' := s'.issueState t i es
    at'.cur = t ∧ ((at'.slotOf t).lapsed = false → exec i at' = .next u → u.still = false → step s = .next u))

/-- The semaphore field of an LM instruction (R257): where the semaphore does not hold the amount, the first look begins
the wait and takes nothing; where it does, exec runs on the state from which exactly the amount has been subtracted.
What it says of the following is the model's own choice: which agent moves next; how a program comes to run from reset
(log 1). -/
def Obligations.SemaphoreFieldsWaitOrSubtract : Prop :=
  ∀ (s u : State) (t : Tid) (rest : List Mover) (w : Window) (es : List Eff) (i : Instr) (q n : Nat),
    s.agenda = .issue t :: rest →
    let s' : State := { s with agenda := rest, still := false }
    s'.nextMet = none →
    s'.awake t = true → s'.searched t = true → (s'.slotOf t).dying = false → (s'.slotOf t).bootVec = false → s'.members t = [t] →
    s'.fetch t = (.code w, es) → decode w = .ok i → s'.holds t i = false → semField i = some (q, n) →
    (s'.slotOf t).took = none → (s'.slotOf t).lapsed = false →
    let at' := s'.issueState t i es
    let taken := at'.takeAmount t i
    (s'.semMet t.vf t.core q n ((s'.slotOf t).semWait.getD s'.cycle) t.slot (s'.slotOf t).seq = false →
      (s'.slotOf t).semWait = none →
      step s = .next ((Eff.slot t fun x => { x with semWait := some s'.cycle }).apply s')) ∧
    (s'.semMet t.vf t.core q n ((s'.slotOf t).semWait.getD s'.cycle) t.slot (s'.slotOf t).seq = true →
      s'.descriptorWaits t i = false → (at'.slotOf t).took = none → (at'.slotOf t).lapsed = false → exec i taken = .next u → (u.slotOf t).took = none →
      u.still = false → step s = .next u) ∧
    ((at'.slotOf t).took = none → (at'.vdAt t.vf).isSome = true → Keyed (at'.coreAt t.vf t.core).sems →
      (taken.coreAt t.vf t.core).sem q = (at'.coreAt t.vf t.core).sem q - n)

/-- Every step answers a next state, keeps the invariant, and takes back neither time, nor a blown fuse, nor a number
that has been given out. What it says of the following is the model's own choice: which agent moves next; how a program
comes to run from reset (log 1); a step that has nothing to do (log 11). -/
def Obligations.StepsKeepTheInvariant : Prop :=
  ∀ s : State, s.Inv → ∃ t, step s = .next t ∧ t.Inv ∧ Forward s t

/-- The machine right after power-on meets the invariant, and holds what the manual gives: nothing ready (Table 1.3), no
virtual device, the root atoll alone live (R56), no owner's offer, every fuse unblown, no packet under way. What it says
of the following is the model's own choice: reset values of the module's own registers that the manual does not give
(log 3); device memory before anything is written (log 80). -/
def Obligations.ResetMeetsTheInvariant : Prop :=
  State.reset.Inv ∧ State.reset.module.ready = 0 ∧ State.reset.vds = [] ∧ State.reset.module.atolls = [(1, 0)] ∧
    State.reset.flights = [] ∧ State.reset.fused = 0 ∧ State.reset.cycle = 0 ∧ State.reset.mem = [] ∧
    State.reset.module.booted = false

/-- R41, R48, R131, R139, R148: no access leaves its virtual device: device memory it reaches lies in a frame of one of
its grants, a core's storage it reaches is a core of its atoll, host memory lies in a window open to it with that
permission, and another module is one that it has joined. What it says of the following is the model's own choice: the
module's own device number before DOMAIN.SET (log 17). -/
def Obligations.AccessesStayInsideTheirVirtualDevice : Prop :=
  ∀ (s : State) (vf self va size : Nat) (kind : AccKind) (priv tlb : Bool) (p : Place) (g : Bool) (es : List Eff),
    s.resolve vf self va size kind priv tlb = (.at p g, es) →
    ∃ v, s.vdAt vf = some v ∧
      match p with
      | .dram pa _ _ _ _ => ∃ gr ∈ v.grants, pa / 2 ^ 36 * 2 ^ 15 + pa % 2 ^ 36 / 2 ^ 21 ∈ gr.frames
      | .window k _ => k < atollSize v.node
      | .host h => ∃ w ∈ v.windows, w.host ≤ h ∧ h < w.host + w.size ∧
          (if kind.store = true then w.perm / 2 % 2 = 1 else w.perm % 2 = 1)
      | .remote dev _ => dev ≠ s.ownDev ∧ ∃ j ∈ v.joins, j.1 = dev

/-! ### Semaphores, barriers, messages and graphs (R76, R103 to R110, R295, R339 to R344) -/

/-- R295, R339 to R341: EVSIG and QSIG add at the semaphore that they name: a packet with the amount has left for its
core, the core's dirty bytes have been written back, and the slot stalls until it is answered; EVSIG's notice goes with
the packet and is not posted before the addition; without an amount it only moves on, and its notice bit posts one
notice at once. QWAIT waits on its semaphore until the deadline. R339, R341, R294, R295: the addition to a semaphore
saturates at 65,535, returns the value that the semaphore then has, where its operation has a result (QSIG's, not
EVSIG's), and, unless it adds zero, sets the wake latch of every slot of its core. Its reply leaves. An EVSIG's notice
is posted with it, with its value and its code. No byte of memory and no other semaphore changes. -/
def Obligations.SignalsLeaveForTheirSemaphore : Prop :=
  (∀ (s : State) (d a : SReg) (code : BitVec 12) (f : LM), s.Inv → s.Issues →
    let x := s.here
    let e := (x.rs a).toNat
    let add := bits e 25 18
    let notices (t : State) := (t.vdAt s.cur.vf).map (·.channel.notices)
    let posted (t : State) : Prop := notices t = if bit e 26 = true then (notices s).map fun l => l ++ [completion 0 0 0
        (x.rs d) (BitVec.ofNat 64 (code.toNat + 0xFFFE0000))] else notices s
    let q := (x.rs f.sa).toNat
    (bits e 63 27 = 0 → add = 0 → Completes (.evsig d a code) s fun t =>
      (t.slotOf s.cur).pc = x.pc + 4#64 ∧ s.Kept t ∧ s.Released t 3 ∧ posted t) ∧
    (∀ k, bits e 63 27 = 0 → add ≠ 0 → s.offset? s.cur.vf (bits e 9 0) = some k →
      Completes (.evsig d a code) s fun t => (∃ o, Started s t 1 o ∧ o.sync = true ∧ o.left = 1 ∧ o.s = []) ∧
        Sent s t (.qsig k (bits e 17 10) add (if bit e 26 = true then some (x.rs d, code.toNat) else none)) ∧ s.Kept t ∧
          s.Released t 3 ∧ notices t = notices s) ∧
    (s.CanTrap → (bits e 63 27 ≠ 0 → Completes (.evsig d a code) s fun t =>
        Trapped s t 1 (wordZero (.evsig d a code)) 1 ∧ s.Elsewhere t) ∧
      (bits e 63 27 = 0 → add ≠ 0 → s.offset? s.cur.vf (bits e 9 0) = none → Completes (.evsig d a code) s fun t =>
        Trapped s t 7 (x.rs a) 1 ∧ s.Elsewhere t)) ∧
    (∀ k, bits q 63 19 = 0 → (if bit q 18 = true then some s.cur.core else s.offset? s.cur.vf (bits q 9 0)) = some k →
      Completes (.qsig f) s fun t => (∃ o, Started s t (LM.words f) o ∧ o.ta = f.ta.toNat ∧ o.left = 1 ∧
          o.s = [(f.sc, 0)]) ∧
        Sent s t (.qsig k (bits q 17 10) (bits (x.rs f.sb).toNat 15 0) none) ∧ s.Kept t ∧ s.Released t (f.fn.toNat % 8)) ∧
    (s.CanTrap → (bits q 63 19 ≠ 0 → Completes (.qsig f) s fun t =>
        Trapped s t 1 (wordZero (.qsig f)) (LM.words f) ∧ s.Elsewhere t) ∧
      (bits q 63 19 = 0 → bit q 18 = false → s.offset? s.cur.vf (bits q 9 0) = none → Completes (.qsig f) s fun t =>
        Trapped s t 7 (x.rs f.sa) (LM.words f) ∧ s.Elsewhere t)) ∧
    Completes (.qwait f) s fun t => (∃ o, Started s t (LM.words f) o ∧ o.wait = .sem f.wq.toNat f.wt.toNat ∧
        o.s = [(f.sc, 0)] ∧
        o.deadline = if f.fn.toNat % 32 = 31 then none else some (s.cycle + 2 ^ (f.fn.toNat % 32))) ∧
      s.Kept t ∧ s.Elsewhere t) ∧
  (∀ (s : State) (k : Flight) (o : Op) (core q amount : Nat) (notice : Option (Word × Nat)), s.Inv →
    s.delivering = some k → (s.slotOf k.tid).ops.find? (·.seq == k.seq) = some o → o.left = 1 →
    k.pk = .qsig core q amount notice →
    let c := s.coreAt k.tid.vf core
    let after := min 65535 (c.sem q + amount)
    Completes .qsigAddAtCore s fun t =>
      let c' := t.coreAt k.tid.vf core
      Performed t k (fun u => u.s = match o.s with
        | (r, _) :: rest => (r, BitVec.ofNat 64 (after * 65536)) :: rest
        | [] => []) ∧
      (amount ≠ 0 → c'.sem q = after) ∧
      (amount = 0 → c'.sem q = c.sem q) ∧ (∀ p, p ≠ q → c'.sem p = c.sem p) ∧
      (amount ≠ 0 → ∀ j < 4, (c'.slotAt j).latch = true) ∧ s.SameMemory t ∧
      (t.vdAt k.tid.vf).map (·.channel.notices) = (s.vdAt k.tid.vf).map fun v => v.channel.notices ++
        match notice with
        | some (w, code) => [completion 0 0 0 w (BitVec.ofNat 64 (code + 0xFFFE0000))]
        | none => [])

/-- R108 to R110, R342: BAR at a 64-byte-aligned address outside the fixed windows sends its arrival or its wait to the
object's home; an arrival first writes the core's dirty bytes back, at scopes wider than the core. A misaligned address
traps MISALIGN, one beyond 56 bits or in a fixed window ADDR. R109, R110, Table 5.8: at the object an arrival of the
current phase is counted, and the one that makes COUNT reach EXPECT clears it and flips the phase; one of another phase
is OVER and not counted; a malformed object is DENIED. A wait is answered once the phase has flipped, and else stays
outstanding. An arrive-and-wait that comes when its timeout has expired is counted and answered TIMEOUT, with the parity
of the next phase. What it says of the following is the model's own choice: a timeout before a request has reached its
home (log 115). -/
def Obligations.BarriersCountTheirArrivals : Prop :=
  (∀ (s : State) (f : LM), s.Inv → s.Issues →
    let x := s.here
    let ea := (x.rs f.sa).toNat
    let p := bit (x.rs f.sb).toNat 0
    let scope := f.fn.toNat / 4 % 8
    let limit := if f.v.toNat % 32 = 31 then none else some (s.cycle + 2 ^ (f.v.toNat % 32))
    ∀ row ∈ ([(.barArriveWait f, 0, limit, scope),
        (.barArrive f, 1, none, scope), (.barWait f, 2, limit, 0)] : List (Instr × Nat × Option Nat × Nat)),
      (ea % 64 = 0 → ea < 2 ^ 56 → inFixedWindow ea = false → Completes row.1 s fun t =>
        (∃ o, Started s t (LM.words f) o ∧ o.ta = f.ta.toNat ∧ o.left = 1 ∧ o.s = [(f.sc, 0)] ∧ o.deadline = row.2.2.1) ∧
          Sent s t (.barrier ea row.2.1 p scope) ∧ s.Kept t ∧ s.Released t row.2.2.2) ∧
      (s.CanTrap → (ea % 64 ≠ 0 → Completes row.1 s fun t => Trapped s t 3 (x.rs f.sa) (LM.words f) ∧ s.Elsewhere t) ∧
        (ea % 64 = 0 → 2 ^ 56 ≤ ea ∨ inFixedWindow ea = true → Completes row.1 s fun t =>
          Trapped s t 7 (x.rs f.sa) (LM.words f) ∧ s.Elsewhere t))) ∧
  (∀ (s : State) (k : Flight) (o : Op) (r : SReg) (va pa form : Nat) (p : Bool) (scope : Nat), s.Delivers k o r →
    k.pk = .barrier va form p scope → s.late k = false → s.objectAt k.tid va pa → form < 3 →
    let w := leNat (readBytes s.mem pa 8)
    let expect := w % 65536
    let count := w / 65536 % 65536
    let phase := w.testBit 32
    let bad := expect = 0 ∨ w / 2 ^ 33 ≠ 0
    let flag (b : Bool) : Nat := if b = true then 1 else 0
    let lapsed : Bool := form == 0 && s.overdue k
    let result (st : Nat) (next : Bool) (t : State) : Prop := Answered t k r (BitVec.ofNat 64 (st + 256 * flag next))
    let waits (counted : Bool) (t : State) : Prop := (∃ o' ∈ (t.slotOf k.tid).ops, o'.seq = k.seq ∧
      o'.wait = .phase va p counted scope) ∧ ∀ j ∈ t.flights, j.id ≠ k.id
    let word (t : State) (w' : Nat) : Prop := leNat (readBytes t.mem pa 8) = w'
    let answers (q : State → Prop) : Prop := Completes .barrierArrivalAtHome s q
    (bad → answers fun t => result 12 p t ∧ word t w) ∧
    (form < 2 → ¬bad → p ≠ phase → answers fun t => result 8 phase t ∧ word t w ∧ s.SameMemory t) ∧
    (form < 2 → ¬bad → p = phase → count + 1 = expect → answers fun t =>
      result (if lapsed then 1 else 0) (!p) t ∧ word t (expect + 2 ^ 32 * flag (!phase))) ∧
    (form < 2 → ¬bad → p = phase → count + 1 < expect → answers fun t =>
      (form = 1 → result 0 (!p) t) ∧ (form = 0 → if lapsed then result 1 (!p) t else waits true t) ∧
      word t (expect + 65536 * (count + 1) + 2 ^ 32 * flag phase) ∧ s.SameHost t ∧ s.KeptAround t k.tid pa 8) ∧
    (form = 2 → ¬bad → p ≠ phase → answers fun t => result 0 (!p) t ∧ word t w) ∧
    (form = 2 → ¬bad → p = phase → answers fun t => waits false t ∧ s.SameMemory t))

/-- R103 to R105, R343, R344: MSEND sends the low words of its register, zero above them, to the slot that it names;
MRECV waits for a message. At its target a message to a live thread of the named GEN takes the entry free for longest,
one that has held no message first, and sets the slot's wake latch; to another it is STALE. With no entry free it is
BUSY, without effect, but for a core that has halted, whose spill takes it. What it says of the following is the model's
own choice: the inbox entry a message takes (log 20). -/
def Obligations.MessagesAreSentAndTaken : Prop :=
  ∀ (s : State) (f : LM) (k : Flight) (o : Op) (r : SReg) (core slot : Nat) (gen : BitVec 16) (header : BitVec 64)
    (payload : BitVec 448),
    (s.Issues →
      let x := s.here
      let n := (x.rs f.sa).toNat
      (∀ c, bits n 63 28 = 0 → s.offset? s.cur.vf (bits n 9 0) = some c → Completes (.msend f) s fun t =>
        (∃ o, Started s t (LM.words f) o ∧ o.left = 1 ∧ o.s = [(f.sc, 0)]) ∧ s.Kept t ∧ s.Apart t ∧
        ∃ h p, Sent s t (.message c (bits n 11 10) (BitVec.ofNat 16 (bits n 27 12)) h p) ∧
          (∀ j < 448, p.getLsbD j = (decide (j < 64 * (f.fn.toNat % 8)) && (x.rv f.v).data.getLsbD j)) ∧
          h.extractLsb' 10 2 = BitVec.ofNat 2 s.cur.slot ∧ h.extractLsb' 12 16 = x.gen ∧
          h.extractLsb' 28 2 = BitVec.ofNat 2 (bits n 11 10) ∧ h.extractLsb' 30 3 = BitVec.ofNat 3 f.fn.toNat ∧
          h.getLsbD 33 = true ∧ h.getLsbD 34 = false) ∧
      (s.CanTrap → (bits n 63 28 ≠ 0 → Completes (.msend f) s fun t =>
          Trapped s t 1 (wordZero (.msend f)) (LM.words f) ∧ s.Elsewhere t) ∧
        (bits n 63 28 = 0 → s.offset? s.cur.vf (bits n 9 0) = none → Completes (.msend f) s fun t =>
          Trapped s t 7 (x.rs f.sa) (LM.words f) ∧ s.Elsewhere t)) ∧
      Completes (.mrecv f) s fun t => (∃ o, Started s t (LM.words f) o ∧ o.wait = .inbox f.v ∧ o.s = [(f.sc, 0)] ∧
          o.deadline = if f.fn.toNat % 32 = 31 then none else some (s.cycle + 2 ^ (f.fn.toNat % 32))) ∧
        s.Kept t ∧ s.Elsewhere t) ∧
    (s.Delivers k o r → k.pk = .message core slot gen header payload →
      (∀ g ∈ s.flights, g.id < k.id → g.tid ≠ k.tid ∨ ∀ c j a b p, g.pk ≠ .message c j a b p) →
      let c := s.coreAt k.tid.vf core
      let alive := (c.slotAt slot).live = true ∧ (c.slotAt slot).gen = gen
      let full : Prop := (∀ e < 64, ∃ m ∈ c.inbox ++ c.taken, m.entry = e)
      let takes (e : Nat) : Prop := Completes .messageArrival s fun t => Answered t k r 0 ∧
        (t.coreAt k.tid.vf core).inbox = c.inbox ++ [⟨e, header, payload⟩] ∧
        ((t.coreAt k.tid.vf core).slotAt slot).latch = true ∧ s.SameMemory t
      (¬alive → Completes .messageArrival s fun t => Answered t k r 7 ∧
        (t.coreAt k.tid.vf core).inbox = c.inbox ∧ s.SameMemory t) ∧
      (∀ e, alive → (∀ m ∈ c.inbox ++ c.taken, m.entry ≠ e) → (∀ e' < e, ∃ m ∈ c.inbox ++ c.taken, m.entry = e') → e < 64 →
        takes e) ∧
      (∀ m rest, alive → full → c.taken = m :: rest → takes m.entry) ∧
      (alive → full → c.taken = [] → c.halted = false ∨ 256 ≤ c.spill.length → Completes .messageArrival s fun t =>
        Answered t k r 11 ∧ (t.coreAt k.tid.vf core).inbox = c.inbox ∧ (t.coreAt k.tid.vf core).spill = c.spill ∧
          s.SameMemory t) ∧
      (alive → full → c.taken = [] → c.halted = true → c.spill.length < 256 → Completes .messageArrival s fun t =>
        Answered t k r 0 ∧ (t.coreAt k.tid.vf core).inbox = c.inbox ∧
          (t.coreAt k.tid.vf core).spill = c.spill ++ [⟨0, header, payload⟩] ∧ s.SameMemory t))

/-- R74 to R76: GSUB writes its result at once. At an address beyond 56 bits, and where what it reads lies at one that
ADDR names, the result is DENIED 7. What `submit` denies leaves its status and reason and no graph: a header or a node
out of range, a tile of a region that has none, edges that do not agree or form a cycle, and a team or an event outside
the atoll are DENIED 7, an entry outside every entry range DENIED 2, an operand whose handle names no live region BADH
7, and a graph too many BUSY 4, each once the reads that it and the rows before it need have succeeded; a graph that it
accepts is live, its id stands in s[d], and each of its nodes without a predecessor is ready in a pool. -/
def Obligations.GsubSubmitsItsGraph : Prop :=
  ∀ (s : State) (d a : SReg) (v : VD), s.Inv → s.Issues → s.vdAt s.cur.vf = some v → v.vf = s.cur.vf →
    let s1 := applyAll (s.release s.cur 3 none) s
    let tried := s1.submit v s.cur.core (s.here.rs a).toNat 11
    let done (w : Word) (t : State) : Prop := (t.slotOf s.cur).pc = s.here.pc + 4#64 ∧
      (d ≠ 0 → (t.slotOf s.cur).rs d = w) ∧ (∀ j, j ≠ d → (t.slotOf s.cur).rs j = s.here.rs j)
    (2 ^ 56 ≤ (s.here.rs a).toNat ∨ (∃ va es, tried = (.stop .addr va, es)) → Completes (.gsub d a) s fun t =>
      done (BitVec.ofNat 64 (12 + 7 * 256)) t ∧ (t.vdAt s.cur.vf).map (·.graphs) = some v.graphs) ∧
    (∀ st reason es, tried = (.deny st reason, es) → Completes (.gsub d a) s fun t =>
      done (BitVec.ofNat 64 (st + reason * 256)) t ∧ (t.vdAt s.cur.vf).map (·.graphs) = some v.graphs) ∧
    (∀ g es, tried = (.accept g, es) → Completes (.gsub d a) s fun t =>
      done (BitVec.ofNat 64 (g.id * 65536)) t ∧ ∃ v', t.vdAt s.cur.vf = some v' ∧ v'.lastGraph = g.id ∧
        ∃ g' ∈ v'.graphs, g'.id = g.id ∧ g'.nodes.length = g.nodes.length ∧
          ∀ (i : Nat) (n : Node), g.nodes[i]? = some n → n.preds = 0 →
            ∃ (n' : Node) (die : Nat), g'.nodes[i]? = some n' ∧ n'.state = .pooled die) ∧
    ∀ hd es0, s1.snapRead v.vf s.cur.core (s.here.rs a).toNat 64 = .ok (hd, es0) →
      let denied (st reason : Nat) : Prop := Completes (.gsub d a) s fun t =>
        done (BitVec.ofNat 64 (st + reason * 256)) t ∧ (t.vdAt s.cur.vf).map (·.graphs) = some v.graphs
      let event (e : Nat) : Prop := e < 2 ^ 27
      let headerGood : Prop := (s.here.rs a).toNat % 64 = 0 ∧ fieldLE hd 0 4 = 0x4E444752 ∧
        (1 ≤ fieldLE hd 4 2 ∧ fieldLE hd 4 2 ≤ 4096) ∧ fieldLE hd 6 2 = 0 ∧ fieldLE hd 8 8 % 128 = 0 ∧
        event (fieldLE hd 16 8) ∧ fieldLE hd 32 32 = 0
      (¬headerGood → denied 12 7) ∧
      ∀ ns es1, headerGood →
        (applyAll es0 s1).readNodes v.vf s.cur.core (fieldLE hd 8 8) (fieldLE hd 4 2) = .ok (ns, es1) →
        let s2 := applyAll (es0 ++ es1) s1
        let good (n : NodeDesc) : Prop :=
          let c := n.ctrl
          fieldLE n.b 0 8 % 4 = 0 ∧ fieldLE n.b 8 8 % 64 = 0 ∧ fieldLE n.b 24 8 % 2 = 0 ∧
          (bits c 39 28 = 0 → fieldLE n.b 24 8 = 0) ∧ bits c 2 0 ≤ 5 ∧
          (bits c 2 0 = 5 → 1 ≤ bits c 9 3 ∧ bits c 9 3 ≤ 64) ∧ (bits c 2 0 ≠ 5 → bits c 9 3 = 0) ∧
          (bit c 14 = true → (1 ≤ bits c 2 0 ∧ bits c 2 0 ≤ 4) ∧ bits c 11 10 = 0) ∧ bit c 15 = false ∧ bits c 63 43 = 0 ∧
          bits c 42 40 ≤ 6 ∧ event (fieldLE n.b 32 8) ∧ fieldLE n.b 40 8 = 0 ∧ fieldLE n.b 96 32 = 0 ∧
          fieldLE n.b (48 + 8 * min 6 (bits c 42 40)) (48 - 8 * min 6 (bits c 42 40)) = 0 ∧
          ∀ k < bits c 42 40, let op := fieldLE n.b (48 + 8 * k) 8
            bits op 13 12 ≠ 0 ∧ bits op 15 14 = 0 ∧ bits op 63 48 = 0
        let region (op : Nat) := s2.operandRegion v s.cur.core (bits op 11 0)
        -- TROW or TCOL of an operand outside a HALO region
        let stray : Prop := ∃ n ∈ ns, ∃ op ∈ n.ops, bits op 47 16 ≠ 0 ∧ ∃ g, region op = .ok (some (some g)) ∧ g.kind ≠ 2
        let outside (e : Nat) : Prop := bits e 25 18 ≠ 0 ∧ v.offset? (bits e 9 0) = none
        let size := atollSize v.node
        let shapes (n : NodeDesc) : Prop := (if n.shape = 5 then 16 * n.isles else 2 ^ n.shape) ≤ size ∧
          (4 ≤ n.shape → 16 ≤ size) ∧ ¬outside n.evt
        ((∃ n ∈ ns, ¬good n) ∨ stray → denied 12 7) ∧
        ((∀ n ∈ ns, good n) → ¬stray →
          ((∃ n ∈ ns, ∃ i ∈ n.succ, ns.length ≤ i) ∨ (∃ i n, ns[i]? = some n ∧
              bits n.ctrl 27 16 ≠ (ns.map (·.succ)).flatten.count i) ∨ edgesBad ns = true → denied 12 7) ∧
          ((∃ n ∈ ns, ¬shapes n) ∨ outside (fieldLE hd 16 8) → denied 12 7) ∧
          (edgesBad ns = false → (∀ n ∈ ns, shapes n) → ¬outside (fieldLE hd 16 8) →
            let enters (n : NodeDesc) : Prop := ∃ r ∈ v.entries, r.1 ≤ fieldLE n.b 0 8 ∧ fieldLE n.b 0 8 < r.1 + r.2.1
            let read (which : Nat → Prop) : Prop := ∀ n ∈ ns, ∀ op ∈ n.ops, which op → ∃ g, region op = .ok g
            let dead : Prop := ∃ n ∈ ns, ∃ op ∈ n.ops, region op = .ok none
            read (fun op => bits op 47 16 ≠ 0) →
              ((∃ n ∈ ns, ¬enters n) → denied 12 2) ∧ ((∀ n ∈ ns, enters n) → dead → denied 10 7) ∧
              ((∀ n ∈ ns, enters n) → read (fun _ => True) → ¬dead →
                64 ≤ v.graphs.length ∨ 16384 < v.liveNodes + ns.length → denied 11 4)))

/-! ### Acquire, release, fence and tokens (R159 to R170, R177, R333 to R336) -/

/-- R333, R334, R336, Table 8.2: ACQ and REL leave for their object with the fields of s[a], and the slot stalls until
s[d] is written; a bit of s[a] above 43 traps ILLEGAL. FENCE writes the core's dirty bytes back at scopes wider than the
core and moves on. -/
def Obligations.SyncRequestsLeaveForTheirObject : Prop :=
  ∀ (s : State) (d a : SReg) (scope : BitVec 3) (te : BitVec 5), s.Inv → s.Issues →
    let w := (s.here.rs a).toNat
    let limit := if te = 31#5 then none else some (s.cycle + 2 ^ te.toNat)
    (∀ row ∈ ([(.acqRead d a scope, false, false, false, none), (.acqWrite d a scope te, false, true, false, limit),
        (.rel d a scope, true, false, false, none), (.relYield d a scope, true, false, true, none)] :
        List (Instr × Bool × Bool × Bool × Option Nat)),
      (bits w 63 44 = 0 → Completes row.1 s fun t =>
        (∃ o, Started s t 1 o ∧ o.sync = true ∧ o.left = 1 ∧ o.s = [(d, 0)] ∧ o.deadline = row.2.2.2.2) ∧
        Sent s t (.sync ⟨row.2.1, row.2.2.1, row.2.2.2.1, w % 4096, bits w 27 12, bits w 43 28, scope.toNat, false, 0, 0⟩) ∧
        s.Kept t ∧ s.Apart t) ∧
      (s.CanTrap → bits w 63 44 ≠ 0 → Completes row.1 s fun t => Trapped s t 1 (wordZero row.1) 1 ∧ s.Elsewhere t)) ∧
    Completes (.fence scope) s fun t =>
      (t.slotOf s.cur).pc = s.here.pc + 4#64 ∧ s.Kept t ∧ s.Released t scope.toNat

/-- R159 to R161, R164, R167, Tables 8.1 and 8.3: what a request does at its object. An object that its handle does not
name is BADH, a malformed one DENIED. An ACQ that asks for no token returns RELS and drops the region's lines from L1;
one that asks for a free token becomes its holder, the range recorded in its slot; one by the holder itself returns
RELS; one whose token another thread holds waits; one of a core that holds eight tokens is DENIED, also where one of
them is this object's. R159, R162 to R166: a REL whose earlier stages are done adds one to RELS, in one step with its
look at the holder, and returns the RELS before it. A yielding one by the holder gives the token to the thread that has
waited longest, where its core may still take it, or to nobody; by another thread it is DENIED and leaves the holder.
R146, R169: a halo push writes its bytes to its target core's scratchpad, as far as that reaches, and sets their words
full; no byte of memory changes. What it says of the following is the model's own choice: TROW and TCOL on regions that
are not HALO (log 21); words 1 to 7 of a synchronisation object (log 22); a waiter's second check (log 95). -/
def Obligations.ObjectsGrantAndReleaseTokens : Prop :=
  (∀ (s : State) (k : Flight) (o : Op) (r : SReg) (q : SyncReq) (look : Option Region), s.Delivers k o r →
    k.pk = .sync q → s.late k = false → q.halt = false → q.rel = false → q.stage = 0 →
    (∃ fill, s.lookRegion k.tid.vf k.tid.core q.handle = .region look fill) →
    let reg := look.filter fun g => g.fits (s.coreAt k.tid.vf k.tid.core)
    let answers (p : State → Prop) : Prop := Completes .syncOpAtObject s p
    (objectOf q reg = none → answers fun t => Answered t k r 10 ∧ s.SameMemory t) ∧
    ∀ g va pa v, objectOf q reg = some (g, va) → (s.looked k.tid q.handle).objectAt k.tid va pa →
      s.vdAt k.tid.vf = some v →
      let w := leNat (readBytes s.mem pa 8)
      let me := s.holderOfTid k.tid
      let c := s.coreAt k.tid.vf k.tid.core
      let token := q.write = true ∧ (g.kind = 1 ∨ g.kind = 2)
      let held := (List.range 4).flatMap fun j => (c.slotAt j).tokens
      let word (t : State) := leNat (readBytes t.mem pa 8)
      let ok (t : State) : Prop := Answered t k r (BitVec.ofNat 64 (w % 2 ^ 32 * 2 ^ 32))
      let dropped (t : State) : Prop := q.scope ≠ 0 → (t.coreAt k.tid.vf k.tid.core).fetched = [] ∧
        (s.atTable k.tid.vf (.dram pa 0 false false none) ((List.range 8).map fun i => (i, 0)) = false →
          (t.coreAt k.tid.vf k.tid.core).l1 = c.l1.filter fun l => !v.l1In k.tid.core g.base (g.base + g.size) l)
      (w / 2 ^ 61 ≠ 0 → answers fun t => Answered t k r 12 ∧ s.SameMemory t) ∧
      (w / 2 ^ 61 = 0 → ¬token → answers fun t => ok t ∧ dropped t ∧ word t = w) ∧
      (w / 2 ^ 61 = 0 → token → w.testBit 32 = false → held.length < 8 → g.kind = 1 → answers fun t =>
        ok t ∧ dropped t ∧ holderOf (word t) = some (me.1 % 1024, me.2.1 % 4, me.2.2) ∧ word t % 2 ^ 32 = w % 2 ^ 32 ∧
        ∃ tk ∈ (t.slotOf k.tid).tokens, tk.lo = g.base ∧ tk.hi = g.base + g.size ∧ tk.object = va ∧ tk.scope = g.scope) ∧
      (w / 2 ^ 61 = 0 → token → w.testBit 32 = true → holderOf w ≠ some me → held.length < 8 → g.kind = 1 → answers fun t =>
        (∃ o' ∈ (t.slotOf k.tid).ops, o'.seq = k.seq ∧ o'.wait = .token { q with object := va }) ∧ (∀ j ∈ t.flights, j.id ≠ k.id) ∧
        s.SameMemory t ∧ ∃ v', t.vdAt k.tid.vf = some v' ∧
          ∃ l tk, lookup v'.waiters va = some l ∧ ⟨k.tid, k.seq, q, tk⟩ ∈ l ∧ tk.lo = g.base ∧ tk.hi = g.base + g.size ∧
            tk.object = va) ∧
      (w / 2 ^ 61 = 0 → token → holderOf w = some me → answers fun t => ok t ∧ dropped t ∧ word t = w) ∧
      (w / 2 ^ 61 = 0 → token → holderOf w ≠ some me → 8 ≤ held.length → answers fun t =>
        Answered t k r 12 ∧ s.SameMemory t)) ∧
  (∀ (s : State) (k : Flight) (o : Op) (r : SReg) (q : SyncReq) (g : Region) (va pa : Nat), s.Delivers k o r →
    k.pk = .sync q → s.late k = false → q.halt = false → q.rel = true → q.stage = 2 →
    (∃ fill, s.lookRegion k.tid.vf k.tid.core q.handle = .region (some g) fill) →
    g.fits (s.coreAt k.tid.vf k.tid.core) = true → objectOf q (some g) = some (g, va) →
    (s.looked k.tid q.handle).objectAt k.tid va pa →
    (∀ f ∈ s.flights, ∀ h l m e b c off bs, f.pk ≠ .partialSum h l m e b ∧ f.pk ≠ .halo c off bs) →
    let w := leNat (readBytes s.mem pa 8)
    let me := s.holderOfTid k.tid
    let word (t : State) := leNat (readBytes t.mem pa 8)
    let counted (t : State) : Prop := word t % 2 ^ 32 = (w + 1) % 2 ^ 32
    let rels := w % 2 ^ 32 * 2 ^ 32
    let waiting := (s.vdAt k.tid.vf).bind fun v => lookup v.waiters va
    let answers (p : State → Prop) : Prop := Completes .syncOpAtObject s p
    w / 2 ^ 61 = 0 →
    (q.yield = false → answers fun t => Answered t k r (BitVec.ofNat 64 rels) ∧ counted t ∧
      holderOf (word t) = holderOf w ∧ s.KeptAround t k.tid pa 8) ∧
    (q.yield = true → holderOf w ≠ some me → answers fun t => Answered t k r 12 ∧ counted t ∧
      holderOf (word t) = holderOf w) ∧
    (q.yield = true → holderOf w = some me → waiting = none → answers fun t =>
      Answered t k r (BitVec.ofNat 64 rels) ∧ counted t ∧ holderOf (word t) = none ∧
        ∀ tk ∈ (t.slotOf k.tid).tokens, tk.object ≠ va) ∧
    (∀ x rest, q.yield = true → holderOf w = some me → waiting = some (x :: rest) → k.tid.Other x.tid →
      x.tid.vf = k.tid.vf → x.token.object = va → 
      tokenDenied ((s.coreAt x.tid.vf x.tid.core).tokens.filter (·.object != x.token.object)) x.token = false →
        answers fun t => Answered t k r (BitVec.ofNat 64 rels) ∧ counted t ∧
        holderOf (word t) = some (x.tid.core % 1024, x.tid.slot % 4, (s.slotOf x.tid).gen.toNat) ∧
        (∀ tk ∈ (t.slotOf k.tid).tokens, tk.object ≠ va) ∧ ∃ tk ∈ (t.slotOf x.tid).tokens, tk.object = va)) ∧
  (∀ (s : State) (k : Flight) (core off : Nat) (bs : List Byte), s.Inv → s.delivering = some k →
    k.pk = .halo core off bs → (s.vdAt k.tid.vf).isSome = true →
    let c := s.coreAt k.tid.vf core
    Memory.wf c.sram = true → c.sramFull.Pairwise (· < ·) → off + bs.length ≤ c.spSize →
    Completes .haloPush s fun t =>
      let c' := t.coreAt k.tid.vf core
      (∀ j (h : j < bs.length), readCell c'.sram (off + j) = bs[j] ∧ setMem c'.sramFull ((off + j) / 8) = true) ∧
      (∀ b, b < off ∨ off + bs.length ≤ b → readCell c'.sram b = readCell c.sram b) ∧ c'.l1 = c.l1 ∧ c'.slots = c.slots ∧
      s.SameMemory t ∧ ∀ j ∈ t.flights, j.id ≠ k.id)

/-! ### Maps, windows, translations and bounded sums (R145, R149, R181 to R209, R349 to R361) -/

/-- R349 to R358: a map or window instruction leaves as one request to its home, or, in a batched form, one for each
active lane, and with no lane active one that names none; its results are outstanding until all have been answered, and
nothing else has changed. R204 to R206, R208, R351, R359 to R361: BADD traps TAG on a register of another type; on a
handle that is no BSUM region of its type it is BADH and on an element beyond the region DENIED; a line that the core
holds with a grant takes its amounts into its sums. BLOAD sends the sums that the core withholds of its line, where
nothing will stop it, and stays outstanding; BDRAIN sends every line, or those of one region, returns their grants and
waits for them, and on a handle of another kind is BADH. No byte of memory changes at issue. What it says of the
following is the model's own choice: a batched map form with no active lane (log 25). -/
def Obligations.MapWindowAndSumInstructionsIssue : Prop :=
  (∀ (s : State) (f : LM), s.Issues →
    let x := s.here
    let h := (x.rs f.sa).toNat
    let b := (x.rs f.sb).toNat
    let k16 : Bool := f.fn.toNat % 2 == 1
    let key := b + if k16 = true then (x.rs (f.sb + 1)).toNat * 2 ^ 64 else 0
    let data := (x.rv f.v).data.toNat
    let op := f.fn.toNat / 2 % 8
    let sends (i : Instr) (pk : Packet) (p : Op → Prop) : Prop := Completes i s fun t =>
      (∃ o, Started s t (LM.words f) o ∧ o.ta = f.ta.toNat ∧ o.left = 1 ∧ p o) ∧ Sent s t pk ∧ s.Kept t ∧ s.Apart t
    (∀ row ∈ ([(.mprobe f, 0), (.mins f, 1), (.mset f, 2), (.mrem f, 3)] : List (Instr × Nat)),
      sends row.1 (.map ⟨row.2, h, b, key, k16, false, data, op, none, false⟩) fun o =>
        o.s = [(f.sc, 0)] ∧ o.v.map (·.1) = [f.v]) ∧
    sends (.mstat f) (.map ⟨4, h, b, b, false, false, data, op, none, false⟩) (fun o =>
      o.s = [(f.sc, 0)] ∧ o.v.map (·.1) = [f.v]) ∧
    sends (.miter f) (.map ⟨5, h, 4096, key, k16, f.fn.toNat / 2 % 2 == 1, data, op, none, false⟩) (fun o =>
      o.s.map (·.1) = f.sc :: f.sb :: (if k16 = true then [f.sb + 1] else []) ∧ o.v.map (·.1) = [f.v]) ∧
    (∀ row ∈ ([(.mprobev f, 0), (.msetv f, 2)] : List (Instr × Nat)),
      let lanes := (List.range 32).filter fun j => (lmGuard x f).getLsbD (8 * j)
      Completes row.1 s fun t =>
        (∃ o, Started s t (LM.words f) o ∧ o.ta = f.ta.toNat ∧ o.left = max 1 lanes.length ∧ o.s = [(f.sc, 0)] ∧
          o.v.map (·.1) = [f.v + 1]) ∧ s.Kept t ∧ s.Apart t ∧
        (lanes = [] → Sent s t (.map ⟨row.2, h, b, b, false, false, data, op, some 64, false⟩)) ∧
        ∀ j ∈ lanes, Sent s t (.map ⟨row.2, h, b, elem 64 data j, false, false,
          elem 64 (x.rv (f.v + 1)).data.toNat j, op, some j, false⟩)) ∧
    ∀ row ∈ ([(.wfeed f, 0), (.wread f, 1), (.wlen f, 2)] : List (Instr × Nat)),
      sends row.1 (.window ⟨row.2, h, data, b⟩) fun o =>
        o.s = [(f.sc, 0)] ∧ o.v.map (·.1) = if row.2 = 1 then [f.v] else []) ∧
  (∀ (s : State) (f : LM), s.Inv → s.Issues →
    let x := s.here
    let y := x.rv f.v
    let h := (x.rs f.sa).toNat
    let first := (x.rs f.sb).toNat
    let c := s.coreAt s.cur.vf s.cur.core
    let m := lmGuard x f
    let on (j : Nat) : Prop := j < 64 ∧ m.getLsbD (4 * j) = true
    let moved (t : State) : Prop := (t.slotOf s.cur).pc = x.after (LM.words f) ∧ (t.slotOf s.cur).seq = x.seq + 1 ∧
      s.SameMemory t ∧ s.Kept t
    let status (t : State) (w : Word) : Prop := ∃ o ∈ (t.slotOf s.cur).ops, o.seq = x.seq ∧ o.left = 0 ∧ o.s = [(f.sc, w)]
    let region (look : Option Region) : Prop := ∃ fill, s.lookRegion s.cur.vf s.cur.core h = .region look fill
    (∀ o ∈ x.ops, o.seq ≠ x.seq) →
    (y.tag ≠ f.fmt → s.CanTrap → Completes (.badd f) s fun t =>
      Trapped s t 4 (BitVec.ofNat 64 (f.v.toNat + 256 * y.tag.toNat)) (LM.words f) ∧ s.Elsewhere t) ∧
    (∀ look, y.tag = f.fmt → region look →
      (sumRegion f.fmt.toNat look = none → Completes (.badd f) s fun t => moved t ∧ status t 10) ∧
      (∀ g v, sumRegion f.fmt.toNat look = some g → s.vdAt s.cur.vf = some v → bits v.vdlim.toNat 15 0 ≠ 0 →
        ((∃ j, on j ∧ g.size / 4 ≤ first + j) → Completes (.badd f) s fun t => moved t ∧ status t 12) ∧
        ((∀ j, on j → first + j < g.size / 4) → Completes (.badd f) s moved) ∧
        (∀ l, f.fmt = 4#5 → first % 32 = 0 → (∀ j, on j → j < 32 ∧ first + j < g.size / 4) → (∃ j, on j) →
          c.sums.find? (isLine h (first / 32)) = some l → l.handle = h → l.line = first / 32 → l.float = false →
          l.grant ≠ 0 → l.p.length = 32 → l.t.length = 32 →
          (∀ j, on j → l.t.getD j 0 + (toSigned 32 (elem 32 y.data.toNat j)).natAbs ≤ l.grant) →
          Completes (.badd f) s fun t => moved t ∧ status t 0 ∧
            ∃ l' ∈ (t.coreAt s.cur.vf s.cur.core).sums, l'.handle = h ∧ l'.line = first / 32 ∧
              ∀ j < 32, l'.p.getD j 0 = if m.getLsbD (4 * j) = true
                then (l.p.getD j 0 + elem 32 y.data.toNat j) % 2 ^ 32 else l.p.getD j 0))) ∧
    (∀ look, region look → Completes (.bload f) s fun t => moved t ∧
      (∃ o, Started s t (LM.words f) o ∧ o.ta = f.ta.toNat ∧ o.left = 1 ∧ o.s = [(f.sc, 0)] ∧ o.v = [(f.v, ⟨0, 0, f.fmt⟩)]) ∧
      Sent s t (.bload h (bits first 31 0 / 32) (some (bits first 31 0 % 32)) (bits first 63 32) (f.fmt == 8)) ∧
      ∀ g v, sumRegion f.fmt.toNat look = some g → s.vdAt s.cur.vf = some v →
        bloadStops v g (bits first 31 0) (bits first 63 32) (f.fmt == 8) = none →
        ∀ l ∈ c.sums, isLine h (bits first 31 0 / 32) l = true → l.lanes ≠ [] →
          ∃ j ∈ t.flights, j.tid = s.sumTid s.cur ∧ j.pk = .partialSum l.handle l.line l.lanes l.float false) ∧
    (∀ g, f.fn.toNat % 2 = 0 → region (some g) → g.kind = 3 → Completes (.bdrain f) s fun t => moved t ∧
      (t.coreAt s.cur.vf s.cur.core).sums = c.sums.filter (fun l => !(l.handle == h)) ∧
      let ls := c.sums.filter fun l => l.handle == h
      (∃ o, Started s t (LM.words f) o ∧ o.left = ls.length ∧ o.s = [(f.sc, BitVec.ofNat 64 (ls.length * 256))]) ∧
      ∀ l ∈ ls, Sent s t (.partialSum l.handle l.line l.lanes l.float true)) ∧
    (∀ look, f.fn.toNat % 2 = 0 → region look → (∀ g, look = some g → g.kind ≠ 3) → Completes (.bdrain f) s fun t =>
      moved t ∧ status t 10 ∧ (t.coreAt s.cur.vf s.cur.core).sums = c.sums) ∧
    (f.fn.toNat % 2 = 1 → Completes (.bdrain f) s fun t => moved t ∧ (t.coreAt s.cur.vf s.cur.core).sums = [] ∧
      (∃ o, Started s t (LM.words f) o ∧ o.left = c.sums.length ∧ o.s = [(f.sc, BitVec.ofNat 64 (c.sums.length * 256))]) ∧
      ∀ l ∈ c.sums, Sent s t (.partialSum l.handle l.line l.lanes l.float true)))

/-- R185 to R190, R351, R354, Table 9.2: a key operation at its shard is one step. A present key is read (MPROBE, MINS),
combined (MSET) or removed (MREM); an absent one is missed, or inserted with the operand's value while the map is below
its maximum, and else NOCAP. The status names the outcome, the shard and its entries; no other key's value changes, and
what an operation leaves as it was is not written at all. R191, R198 to R202, R351, R357, Tables 10.2 and 10.3: a
request whose handle names no fitting region is BADH. MSTAT of a shard that the map does not have is DENIED, or NOCAP
while WAYMASK is zero, and then a window's request is NOCAP too. WFEED and WREAD on a window answer OK with the number
of contributions, WREAD with the lanes of the window's combination; WLEN within the window's maximum sets its length,
and beyond it is DENIED and changes nothing. What it says of the following is the model's own choice: private storage of
maps and windows (log 15); the pages of a slab that an operation touches (log 24). -/
def Obligations.MapsAndWindowsAnswer : Prop :=
  (∀ (s : State) (k : Flight) (o : Op) (r : SReg) (d : VReg) (y : VVal) (q : MapReq) (g : Region) (v : VD)
    (backs : List (Nat × Nat × Nat)) (es : List Eff),
    s.Delivers k o r → k.pk = .map q → o.v = [(d, y)] → q.lane = none → q.code < 4 → q.handle ≠ 0 →
    (∃ fill, s.lookRegion k.tid.vf k.tid.core q.handle = .region (some g) fill) → g.kind = 4 →
    (mapOf g.kindf).k16 = q.k16 →
    s.vdAt k.tid.vf = some v → bits v.vdlim.toNat 15 0 ≠ 0 →
    let m := mapOf g.kindf
    let i := m.shard (m.hash q.key)
    let size := g.size / 2 ^ m.shlog
    s.slab k.tid q.handle (g.base + i * size) size = .at backs es →
    let was := s.shardAt v backs size g.kindf m
    let sh := was.migrate
    let u := q.operand % 2 ^ (64 * m.vsz)
    let gives (code : Nat) (value : Option Nat) (final : Option Nat) : Prop := Completes .mapOpAtHome s fun t =>
      ∃ v' sh', t.vdAt k.tid.vf = some v' ∧ (sh' ∈ v'.shards ∨ sh' = was ∧ v'.shards = v.shards) ∧ sh'.backs = sh.backs ∧
        findEntry sh'.entries q.key = final ∧ (∀ key, key ≠ q.key → findEntry sh'.entries key = findEntry sh.entries key) ∧
        s.SameMemory t ∧ Performed t k fun o' =>
          (∃ w : Word, o'.s = [(r, w)] ∧ w.extractLsb' 0 8 = BitVec.ofNat 8 code ∧
            w.extractLsb' 16 16 = BitVec.ofNat 16 i ∧ w.extractLsb' 32 32 = BitVec.ofNat 32 sh'.entries.length) ∧
          o'.v = (value.toList.map fun n => (d, { y with data := BitVec.ofNat 2048 n }))
    (∀ n, findEntry sh.entries q.key = some n →
      (q.code < 2 → gives 3 (some n) (some n)) ∧
      (q.code = 2 → gives 5 (some (mapCombine q.combine m.vsz n u)) (some (mapCombine q.combine m.vsz n u))) ∧
      (q.code = 3 → gives 6 (some n) none)) ∧
    (findEntry sh.entries q.key = none →
      (q.code = 0 ∨ q.code = 3 → gives 2 (some 0) none) ∧
      (q.code = 1 ∨ q.code = 2 → sh.entries.length ≠ 2 ^ m.cmax → gives 4 (some u) (some u)) ∧
      (q.code = 1 ∨ q.code = 2 → sh.entries.length = 2 ^ m.cmax → gives 9 none none))) ∧
  (∀ (s : State) (k : Flight) (o : Op) (r : SReg) (look : Option Region), s.Delivers k o r →
    let found (h : Nat) := ∃ fill, s.lookRegion k.tid.vf k.tid.core h = .region look fill
    (∀ q : MapReq, k.pk = .map q → found q.handle → mapRegion q look = none → Completes .mapOpAtHome s fun t =>
      Performed t k (fun o' => o'.s = [(r, 10)] ∧ o'.v = []) ∧ s.SameMemory t) ∧
    (∀ (q : MapReq) (g : Region) (v : VD), k.pk = .map q → found q.handle → q.code = 4 → q.lane = none → look = some g →
      g.kind = 4 → 2 ^ (mapOf g.kindf).shlog ≤ q.shard → s.vdAt k.tid.vf = some v → Completes .mapOpAtHome s fun t =>
        Performed t k (fun o' => o'.s = [(r, if bits v.vdlim.toNat 15 0 = 0 then 9 else 12)] ∧ o'.v = []) ∧
          s.SameMemory t) ∧
    (∀ q : WinReq, k.pk = .window q → found q.handle → (∀ g, look = some g → g.kind ≠ 5) →
      Completes .windowOpAtHome s fun t => Performed t k (fun o' => o'.s = [(r, 10)] ∧ o'.v = []) ∧ s.SameMemory t) ∧
    (∀ (q : WinReq) (g : Region) (v : VD), k.pk = .window q → found q.handle → look = some g → g.kind = 5 →
      s.vdAt k.tid.vf = some v → bits v.vdlim.toNat 15 0 = 0 →
      Completes .windowOpAtHome s fun t => Performed t k (fun o' => o'.s = [(r, 9)] ∧ o'.v = []) ∧ s.SameMemory t) ∧
    ∀ (q : WinReq) (g : Region) (v : VD) (backs : List (Nat × Nat × Nat)) (es : List Eff), k.pk = .window q →
      found q.handle → look = some g → g.kind = 5 →
      s.vdAt k.tid.vf = some v → bits v.vdlim.toNat 15 0 ≠ 0 → s.slab k.tid q.handle g.base g.size = .at backs es →
      let d := winOf g.kindf
      let w := s.winAt v backs g.size g.kindf d
      let wide := if d.lw = true then 64 else 32
      let unwritten (t : State) : Prop := (t.vdAt k.tid.vf).map (·.wins) = some v.wins
      let holds (t : State) (w' : Win) : Prop := w' = w ∧ unwritten t ∨ ∃ v', t.vdAt k.tid.vf = some v' ∧ ∃ z ∈ v'.wins,
        z.backs = w'.backs ∧ z.w = w'.w ∧ z.front = w'.front ∧ z.back = w'.back
      (q.code = 0 → let fed := w.feed d ((List.range (d.lanes + 1)).map (elem wide q.data))
        Completes .windowOpAtHome s fun t => Answered t k r (BitVec.ofNat 64 (fed.2 * 2 ^ 16 + fed.1.count * 2 ^ 32)) ∧
          holds t fed.1 ∧ s.SameMemory t) ∧
      (∀ (x : VReg) (y : VVal), q.code = 1 → o.v = [(x, y)] → Completes .windowOpAtHome s fun t =>
        Performed t k (fun o' => o'.s = [(r, BitVec.ofNat 64 (w.count * 2 ^ 32))] ∧
          o'.v = [(x, ⟨BitVec.ofNat 2048 (packElems wide (w.read d)), 0, BitVec.ofNat 5 (winTag d)⟩)]) ∧
        unwritten t ∧ s.SameMemory t) ∧
      (∀ new flip, q.code = 2 → w.setLength d q.length = some (new, flip) → Completes .windowOpAtHome s fun t =>
        Answered t k r (BitVec.ofNat 64 (flip * 2 ^ 16 + new.count * 2 ^ 32)) ∧ holds t new ∧ s.SameMemory t) ∧
      (q.code = 2 → q.length = 0 ∨ d.wmax < q.length → Completes .windowOpAtHome s fun t =>
        Answered t k r (BitVec.ofNat 64 (12 + w.count * 2 ^ 32)) ∧ unwritten t ∧ s.SameMemory t))

/-- R120, R143, R149, R286: an invalidation at a core removes the key's translation; once the accesses that were then on
their way to the key's page have returned and no forward is left, it writes the core's dirty lines back, under whatever
address they were filled, and counts as performed, and until then it waits for those accesses. An access to PAGER or
RGNTAB at the fault slice returns the value it held and then writes the bits that the register has; for a write of
RGNTAB the lines that L1 must not hold any more leave. -/
def Obligations.InvalidationsAndSliceRegistersComplete : Prop :=
  ∀ (s : State) (k : Flight) (o : Op) (r : SReg), s.Delivers k o r →
    (∀ key big c old, k.pk = .inval key big c old → (∀ x ∈ s.onTheirWay k.tid.vf c key, ∃ l, old = some l ∧ x ∉ l) →
      s.forwarding k.tid.vf = false →
      let ls := (s.coreAt k.tid.vf c).l1
      Completes .tlbInvalidation s fun t => Performed t k (fun _ => True) ∧
        s.WroteBack t ls ∧
        (∀ e ∈ (t.coreAt k.tid.vf c).tlb, e.key ≠ key) ∧
        (t.coreAt k.tid.vf c).l1 = ls.map fun l => { l with dirty := 0 }) ∧
    (∀ key big c, k.pk = .inval key big c none → s.onTheirWay k.tid.vf c key ≠ [] ∨ s.forwarding k.tid.vf = true →
      Completes .tlbInvalidation s fun t => (∀ e ∈ (t.coreAt k.tid.vf c).tlb, e.key ≠ key) ∧ s.SameMemory t ∧
        ∃ j ∈ t.flights, j.tid = k.tid ∧ j.seq = k.seq ∧
          j.pk = .inval key big c (some (s.onTheirWay k.tid.vf c key))) ∧
    (∀ (pager : Bool) (w : Option Word) (v : VD), k.pk = .csr pager w → s.vdAt k.tid.vf = some v →
      (∀ g ∈ s.flights, g.id < k.id → g.tid.vf ≠ k.tid.vf ∨ ∀ w', g.pk ≠ .csr pager w') →
      Completes .faultSliceCsrAccess s fun t =>
        Answered t k r (if pager = true then v.pager else v.rgntab) ∧ (pager = true ∨ w = none → s.SameMemory t) ∧
        (∀ b, readCell t.mem b = readCell s.mem b ∨ ∃ c, s.CameHome t k.tid.vf c b) ∧ s.SameHost t ∧ ∃ v', t.vdAt k.tid.vf = some v' ∧
          v'.pager = (match pager, w with | true, some x => x &&& 0x1FFFFFFF#64 | _, _ => v.pager) ∧
          v'.rgntab = (match pager, w with | false, some x => x &&& 0x00FFFFFFFFFC0000#64 | _, _ => v.rgntab))

/-- R205, R207 to R209: a first use of a line takes a grant while fewer than 16 cores hold one and no load waits; sums
are added to their elements at the home, each once, and a returned grant ends there; a load whose bound holds is
answered with the line and the bound, and otherwise asks holders for their sums; a core that is asked sends all of its
line and gives its grant up, and one that holds the line no more gives the grant up alone. -/
def Obligations.BoundedSumsMeetAtTheirHome : Prop :=
  ∀ (s : State) (k : Flight) (handle line : Nat) (float : Bool) (g : Region) (v : VD), s.Inv → s.delivering = some k →
    s.vdAt k.tid.vf = some v → (∃ fill, s.lookRegion k.tid.vf k.tid.core handle = .region (some g) fill) → g.kind = 3 →
    (sumOf g.kindf).float = float →
    (∀ f ∈ s.flights, f.id ≠ k.id → (∀ h l m e b, f.pk ≠ .partialSum h l m e b) ∧ ∀ h l c, f.pk ≠ .drain h l c) →
    let va := g.base + 128 * line
    let gr := v.grantsOf handle line
    let size := (sumOf g.kindf).grant
    let gone (t : State) : Prop := ∀ j ∈ t.flights, j.id ≠ k.id
    let after (t : State) (p : Grants → Prop) : Prop := ∃ v', t.vdAt k.tid.vf = some v' ∧ p (v'.grantsOf handle line)
    let place (pa : Nat) (kind : AccKind) : Prop := (∃ cls cmp bs es, s.linePlaces k.tid va kind =
        .ok ((.dram pa cls cmp bs none, .dram (pa + 64) cls cmp bs none), es)) ∧
      (∀ a ∈ [pa, pa + 64], ∀ tpa, tenantOf v.grants a = some tpa → v.inSlab tpa = false) ∧
      s.atTable k.tid.vf (.dram pa 0 false false none) ((List.range 128).map fun i => (i, 0)) = false
    (∀ amounts o pl es, k.pk = .grant handle line amounts [] float → (s.slotOf k.tid).opOf k.seq = some o →
      bits v.vdlim.toNat 15 0 ≠ 0 → s.linePlaces k.tid va .write = .ok (pl, es) → Completes .grantRequestAtHome s fun t => gone t ∧
      s.SameMemory t ∧ (∃ l ∈ (t.coreAt k.tid.vf k.tid.core).sums, l.handle = handle ∧ l.line = line) ∧
      (float = false → size ≠ 0 → gr.holders.length < 16 → gr.waiting = [] →
        (∀ l ∈ (s.coreAt k.tid.vf k.tid.core).sums, isLine handle line l = false) → after t fun gr' =>
        lookup gr'.holders k.tid.core = some size)) ∧
    (∀ lanes returned pa, k.pk = .partialSum handle line lanes float returned → place pa .write →
      (lanes.map (·.1)).Nodup → (∀ e ∈ lanes, e.1 < 32) → Completes .partialSumAtHome s fun t => gone t ∧
        (∀ e ∈ lanes, leNat (readBytes t.mem (pa + 4 * e.1) 4) =
          sumAdd float 0 (leNat (readBytes s.mem (pa + 4 * e.1) 4)) e.2 % 2 ^ 32) ∧
        (∀ b, (∀ e ∈ lanes, b < pa + 4 * e.1 ∨ pa + 4 * e.1 + 4 ≤ b) → readCell t.mem b = readCell s.mem b) ∧
        s.SameHost t ∧ (returned = true → Keyed gr.holders → after t fun gr' => lookup gr'.holders k.tid.core = none)) ∧
    (∀ (lane : Nat) (eps : Nat) (o : Op) (r : SReg) (d : VReg) (y : VVal) (w0 : Word),
      k.pk = .bload handle line (some lane) eps float → float = false → bits v.vdlim.toNat 15 0 ≠ 0 →
      32 * line + lane < g.size / 4 → (s.slotOf k.tid).ops.find? (·.seq == k.seq) = some o → o.left = 1 →
      o.s = [(r, w0)] → o.v = [(d, y)] →
      (∀ pa, gr.total ≤ eps → place pa .read → Completes .bloadAtHome s fun t => s.SameMemory t ∧
        Performed t k fun o' => o'.s = [(r, BitVec.ofNat 64 (o.note % 65536 * 2 ^ 16 + gr.total % 2 ^ 32 * 2 ^ 32))] ∧
          o'.v = [(d, { y with data := BitVec.ofNat 2048 (leNat (readBytes s.mem pa 128)) })]) ∧
      (eps < gr.total → Completes .bloadAtHome s fun t => s.SameMemory t ∧ (∃ j ∈ t.flights, j.id = k.id) ∧
        (after t fun gr' => k.id ∈ gr'.waiting) ∧ ∃ c ∈ gr.holders.map (·.1), ∃ j ∈ t.flights, j.pk = .drain handle line c)) ∧
    (∀ core, k.pk = .drain handle line core → Completes .forcedDrainRequest s fun t => gone t ∧ s.SameMemory t ∧
      (t.coreAt k.tid.vf core).sums = (s.coreAt k.tid.vf core).sums.filter (fun l => !isLine handle line l) ∧
      ∀ l ∈ (s.coreAt k.tid.vf core).sums, isLine handle line l = true →
        ∃ j ∈ t.flights, j.pk = .partialSum handle line l.lanes l.float true ∧ j.tid.core = core) ∧
    (∀ core, k.pk = .drain handle line core → (∀ l ∈ (s.coreAt k.tid.vf core).sums, isLine handle line l = false) →
      Completes .forcedDrainRequest s fun t =>
        ∃ j ∈ t.flights, j.pk = .partialSum handle line [] false true ∧ j.tid.core = core)

/-! ### The matrix unit and the copy engines (R92, R172, R362 to R401) -/

/-- R362 to R365: a matrix instruction of the slot that holds the claim, whose operands pass the checks, enters the
queue with the shapes it was issued under, no byte of memory changed, and the slot moves on; without the claim it traps
CLAIM (8), and a check that fails traps with its cause. TZERO and MSYNC pass with the claim alone. -/
def Obligations.MatrixInstructionsEnterTheQueue : Prop :=
  ∀ (s : State) (f : LM), s.Inv → s.Issues →
    let x := s.here
    let c := s.coreAt s.cur.vf s.cur.core
    ∀ row ∈ ([(.tld f, .tld), (.tst f, .tst), (.tzero f, .tzero), (.mma f, .mma), (.mmas f, .mmas), (.mmar f, .mmar),
        (.adrain f, .adrain), (.ald f, .ald), (.msync f, .msync)] : List (Instr × MatKind)),
      let o := matOpOf row.2 f x
      let enters : Prop := Completes row.1 s fun t =>
        (t.coreAt s.cur.vf s.cur.core).queue = c.queue ++ [{ o with slot := s.cur.slot }] ∧
          (t.slotOf s.cur).pc = x.after (LM.words f) ∧ s.Kept t ∧ s.SameMemory t
      (o.check s s.cur x.claim = none → enters) ∧
      (x.claim = true → row.2 = .tzero ∨ row.2 = .msync → enters) ∧
      (s.CanTrap → (x.claim = false → Completes row.1 s fun t => Trapped s t 8 0 (LM.words f) ∧ s.Elsewhere t) ∧
        (∀ cause val, o.check s s.cur x.claim = some (cause, val) → Completes row.1 s fun t =>
          Trapped s t cause (BitVec.ofNat 64 val) (LM.words f) ∧ s.Elsewhere t) ∧
        (x.claim = true → row.2 = .mma ∨ row.2 = .mmas ∨ row.2 = .mmar → c.queue = [] →
          (c.tile f.sb.toNat).tag ≠ f.fmt → Completes row.1 s fun t =>
            Trapped s t 4 (BitVec.ofNat 64 (f.sb.toNat + 256 * (c.tile f.sb.toNat).tag.toNat)) (LM.words f) ∧
            s.Elsewhere t))

/-- R366 to R378, R172: the oldest operation starts when it waits for nothing, its thread's earlier accesses have been
performed and, for a product, the ramp limiter allows it. TZERO clears its register and no other. An I8 product adds to
each element of its shape the sum of the products along k, modulo 2^32, and leaves the others: MMA and MMAR of A's
elements as they stand, MMAS of those that its metadata keeps, N of every 24. MMAR then begins its exchange: both
operand tiles leave, A's for the neighbour's LA and B's for the neighbour's LB. A TLD or an ALD whose bytes can all be
read takes them in (the core's dirty bytes written back before), its register tagged with its format, and each element
of its shape is its bytes in memory (TLD: of a plain format loaded whole, as it stands). A TST of whole bytes writes the
elements of its tile's shape, row by row, words set full. An ADRAIN of integers as they stand writes each element of its
shape to the core's scratchpad, words set full, and clears what it drained, or nothing. Each of these operations but
MMAR is then done. R366, R375, R379, R381: the operation that is done leaves the queue, its flags go to its slot and its
signal to its semaphore, or, refused, not; an MMAR whose tiles have left and whose landing buffers are full takes what
has landed, each tile under its own tag, and leaves the queue too; a neighbour's tile fills an empty landing buffer; an
exchange that outlasts its limit takes what has landed, sets ROTTO and is done. What it says of the following is the
model's own choice: which accepted matrix operation starts (log 35); flags of a conversion to an integer that clamps
(log 90); the sign of a group sum that is zero (log 133). -/
def Obligations.MatrixOperationsRunAndComplete : Prop :=
  (∀ (s : State) (vf core : Nat) (o : MatOp) (rest : List MatOp),
    let c := s.coreAt vf core
    (s.vdAt vf).isSome = true → c.halted = false → c.queue = o :: rest → o.done = false → o.fault = none → o.frame = none →
    o.exchange = none → (o.kind ≠ .msync → o.moved = 0 → s.readsLater ⟨vf, core, o.slot⟩ o.seq = false) →
    (o.kind.product = true → s.rampOk (isleOf (s.coreNo vf core)) o.count = true) →
    let s1 := if o.moved = 0 then applyAll (s.release ⟨vf, core, o.slot⟩ 4 none) s else s
    let d := o.td o.f.v.toNat
    let w := tagWidth o.f.fmt.toNat
    let ad := o.ad o.f.v.toNat
    let t0 : Tid := ⟨vf, core, o.slot⟩
    let all (tag : Nat) := (o.pieces (o.layout tag)).map (·.2)
    let runs (p : Core → Prop) : Prop := Completes (.matrixOpStart vf core) s fun t => p (t.coreAt vf core)
    let done (c' : Core) : Prop := (c'.queue.head?.map (·.done)) = some true ∧ c'.queue.drop 1 = rest
    runs (fun c' => c'.queue.length = c.queue.length) ∧
    (o.kind = .msync → runs done) ∧
    (o.kind = .tzero → o.f.fn.toNat % 2 = 0 → Keyed c.tiles → runs fun c' => done c' ∧
      c'.tile o.f.v.toNat = ⟨0, 0, 0⟩ ∧ ∀ n, n ≠ o.f.v.toNat → c'.tile n = c.tile n) ∧
    (o.kind = .tzero → o.f.fn.toNat % 2 = 1 → Keyed c.accs → runs fun c' => done c' ∧
      c'.acc o.f.v.toNat = ⟨0, 0⟩ ∧ ∀ n, n ≠ o.f.v.toNat → c'.acc n = c.acc n) ∧
    (o.kind = .mma ∨ o.kind = .mmas ∨ o.kind = .mmar → o.f.fmt = 1#5 →
      let a := c.tile o.f.sb.toNat
      let b := c.tile o.f.sc.toNat
      let kept := c.tile o.f.v.toNat
      let n := match o.f.fn.toNat % 4 with | 0 => 4 | 1 => 6 | 2 => 8 | _ => 12
      let old := c.acc o.f.sa.toNat
      let len := tCols (o.td o.f.sb.toNat)
      let ad := o.ad o.f.sa.toNat
      let ael (i k : Nat) : Int :=
        if o.kind = .mmas then
          ((List.range n).map fun m => let p := k / 24 * n + m
            if kept.index i p = k % 24 then intVal 1 (a.el 8 i p) else 0).sum
        else intVal 1 (a.el 8 i k)
      Completes (.matrixOpStart vf core) s fun t =>
        let c' := t.coreAt vf core
        (c'.acc o.f.sa.toNat).tag = 4#5 ∧
        (∀ i < 64, ∀ j < 64, (c'.acc o.f.sa.toNat).el i j =
          if i < aRows ad ∧ j < aCols ad then
            (((old.el i j : Int) + ((List.range len).map fun k => ael i k * intVal 1 (b.el 8 j k)).sum) % 2 ^ 32).toNat
          else old.el i j) ∧
        (o.kind ≠ .mmar → done c') ∧
        (o.kind = .mmar → (c'.queue.head?.map (·.exchange)) = some (some s.cycle) ∧
          let size := match s.vdAt vf with | some v => atollSize v.node | none => 16
          (∃ f ∈ t.flights, f.tid = t0 ∧ f.seq = o.seq ∧ f.pk = .tile (westOf core) true a.data a.side) ∧
          ∃ f ∈ t.flights, f.tid = t0 ∧ f.seq = o.seq ∧ f.pk = .tile (northOf size core) false b.data b.side)) ∧
    (∀ b es, o.kind = .ald → s1.moveIn vf core o.priv ((all 0).drop o.moved) = (b, es, none) →
      runs fun c' => done c' ∧ (c'.acc o.f.v.toNat).tag = o.f.fmt ∧
        (o.got = [] → aRows ad ≤ 64 → aCols ad ≤ 64 → b.length = aRows ad * (4 * aCols ad) →
          ∀ i < 64, ∀ j < 64, (c'.acc o.f.v.toNat).el i j =
            if i < aRows ad ∧ j < aCols ad then leNat ((b.drop (i * (4 * aCols ad) + 4 * j)).take 4) else 0)) ∧
    (∀ bs es, o.kind = .tst → o.moved = 0 → isBlock (c.tile o.f.v.toNat).tag.toNat = false → tWidth d ∈ [8, 16] →
      tRows d ≤ 64 → tCols d * tWidth d ≤ 768 →
      let e := tWidth d / 8
      bs.length = tRows d * (tCols d * e) →
      (∀ r < tRows d, ∀ k < tCols d, leNat ((bs.drop (r * (tCols d * e) + k * e)).take e) =
        (c.tile o.f.v.toNat).el (tWidth d) r k) →
      s1.moveOut t0 o.priv true [] (layOn (all (c.tile o.f.v.toNat).tag.toNat) bs) = (es, none) →
      Completes (.matrixOpStart vf core) s fun t => done (t.coreAt vf core) ∧ (applyAll es s1).SameMemory t ∧
        ∀ u k, (t.coreAt u k).sram = ((applyAll es s1).coreAt u k).sram) ∧
    (∀ off : Nat → Nat, o.kind = .adrain → o.f.fmt = 4#5 → o.f.fn.toNat % 4 = 0 → (c.acc o.f.v.toNat).tag = 4#5 →
      aSm ad = false → aShift ad = 0 → aRows ad ≤ 64 → aCols ad ≤ 64 → Memory.wf c.sram = true →
      c.sramFull.Pairwise (· < ·) →
      (∀ i < aRows ad, off i + 4 * aCols ad ≤ c.spSize ∧
        (windowOf (o.raw (i * aStride ad)) (s.coreNo vf core)).map (·.2) = some (off i) ∧
        ∀ j < aRows ad, j ≠ i → off i + 4 * aCols ad ≤ off j ∨ off j + 4 * aCols ad ≤ off i) →
      runs fun c' => done c' ∧
        (∀ i < aRows ad, ∀ j < aCols ad, leNat (readBytes c'.sram (off i + 4 * j) 4) = (c.acc o.f.v.toNat).el i j ∧
          setMem c'.sramFull ((off i + 4 * j) / 8) = true) ∧
        (∀ b, (∀ i < aRows ad, b < off i ∨ off i + 4 * aCols ad ≤ b) → readCell c'.sram b = readCell c.sram b) ∧
        (bit o.f.fn.toNat 2 = false → c'.accs = c.accs) ∧
        (bit o.f.fn.toNat 2 = true → ∀ i < 64, ∀ j < 64, (c'.acc o.f.v.toNat).el i j =
          if i < aRows ad ∧ j < aCols ad then 0 else (c.acc o.f.v.toNat).el i j)) ∧
    (∀ b es, o.kind = .tld → s1.moveIn vf core o.priv ((all (c.tile o.f.v.toNat).tag.toNat).drop o.moved) = (b, es, none) →
      runs fun c' => done c' ∧ (∃ o', c'.queue.head? = some o' ∧ o'.got = o.got ++ b) ∧
        (c'.tile o.f.v.toNat).tag = (if tldMeta o.f = true then 15#5 else o.f.fmt) ∧
        (tldMeta o.f = false → tldT o.f = false → Machine.tldSource o.f = o.f.fmt.toNat → w ∈ [8, 16, 32, 64] → tRows d ≤ 64 →
          tCols d * w ≤ 768 → o.got = [] → b.length = tRows d * (tCols d * w / 8) → ∀ r < tRows d, ∀ k < tCols d,
          (c'.tile o.f.v.toNat).el w r k = leNat ((b.drop (r * (tCols d * w / 8) + k * (w / 8))).take (w / 8))))) ∧
  (∀ (s : State) (vf core : Nat) (o : MatOp) (rest : List MatOp) (k : Flight),
    let c := s.coreAt vf core
    let t0 : Tid := ⟨vf, core, o.slot⟩
    (∀ v, s.vdAt vf = some v → c.halted = false → c.queue = o :: rest → o.done = true → o.exchange = none →
      Completes (.matrixOpComplete vf core) s fun t =>
        let c' := t.coreAt vf core
        c'.queue = rest ∧ (t.slotOf t0).fpflags = (s.slotOf t0).fpflags ||| o.flags ∧ s.SameMemory t ∧
        (o.refused = false → o.f.gv ≠ 0 → c'.sem o.f.gq.toNat = min 65535 (c.sem o.f.gq.toNat + o.f.gv.toNat)) ∧
        (o.refused = true ∨ o.f.gv = 0 → c'.sems = c.sems)) ∧
    (∀ v since a b, s.vdAt vf = some v → c.halted = false → c.queue = o :: rest → o.exchange = some since →
      s.unsent vf core o = [] → c.la = some a → c.lb = some b → o.f.sb ≠ o.f.sc →
      Completes (.matrixOpComplete vf core) s fun t =>
        let c' := t.coreAt vf core
        c'.queue = rest ∧ c'.la = none ∧ c'.lb = none ∧ s.SameMemory t ∧
        c'.tile o.f.sb.toNat = ⟨a.1, a.2, (c.tile o.f.sb.toNat).tag⟩ ∧
        c'.tile o.f.sc.toNat = ⟨b.1, b.2, (c.tile o.f.sc.toNat).tag⟩) ∧
    (∀ v since, s.vdAt vf = some v → c.halted = false → c.queue = o :: rest → o.exchange = some since → o.te ≠ 31 →
      since + 2 ^ o.te ≤ s.cycle → c.la = none → Completes (.mmarExchangeTimeout vf core) s fun t =>
        let c' := t.coreAt vf core
        c'.rotto = true ∧ c'.lb = none ∧ (c'.queue.head?.map fun q => (q.done, q.exchange)) = some (true, none) ∧
        s.SameMemory t) ∧
    (∀ toLa data side, s.delivering = some k → k.pk = .tile core toLa data side → (s.vdAt k.tid.vf).isSome = true →
      (s.coreAt k.tid.vf core).halted = false →
      (if toLa = true then (s.coreAt k.tid.vf core).la else (s.coreAt k.tid.vf core).lb) = none →
      Completes .mmarLanding s fun t =>
        let c' := t.coreAt k.tid.vf core
        (if toLa = true then c'.la else c'.lb) = some (data, side) ∧
        (if toLa = true then c'.lb = (s.coreAt k.tid.vf core).lb else c'.la = (s.coreAt k.tid.vf core).la) ∧
        (∀ j ∈ t.flights, j.id ≠ k.id) ∧ s.SameMemory t))

/-- R384 to R386, Table 21.1: a command whose registers are aligned and whose length its form allows creates a job,
which waits in its isle's queue behind those there, and returns OK with the job's id, which is not zero and no other
job's; with the queue full it is BUSY, and with a length it does not allow DENIED, without a job. A command with a
descriptor reads it once the core's dirty bytes have reached their homes (R172). The page form is for S mode. A
misaligned register traps MISALIGN. R387, R401, Table 21.8: CPOLL answers with the word of the job that s[sa] names,
CWPOS with its write position; a word that names none is STALE, position 0. CWAIT of a job that has ended answers at
once, of a live one when it ends or the limit expires. CCANCEL ends a live job ABORTED, at once where it is queued,
parked, or stands at a delivery boundary; otherwise the job goes on to its next boundary, and the CCANCEL stays
outstanding until JOB_END answers it. What it says of the following is the model's own choice: checks of an engine
command that trap at issue (log 28); destinations of CWPOS (log 41); entries of the copy unit (log 88); delivery
boundaries of an engine inside a unit (log 113). -/
def Obligations.JobsAreCreatedAndControlled : Prop :=
  (∀ (s : State) (f : LM) (v : VD), s.Inv → s.Issues → s.vdAt s.cur.vf = some v → s.here.took = none →
    let x := s.here
    let a := (x.rs f.sa).toNat
    let b := (x.rs f.sb).toNat
    let d := x.rs (f.v.setWidth 5)
    let len := match f.lit with | some l => l.toNat | none => d.toNat
    let w := max 1 (tagWidth f.fmt.toNat / 8)
    let n := s.isleNo s.cur.vf s.cur.core
    let jobs (t : State) := (t.isleAt n).jobs
    let s1 := applyAll (s.release s.cur 4 none) s
    let live := ((jobs s).filter fun j => j.live && j.vf == s.cur.vf).length
    let full := queueSize v.node ≤ live
    let answers (t : State) (w : Word) : Prop := (t.slotOf s.cur).pc = x.after (LM.words f) ∧
      (f.sc ≠ 0 → (t.slotOf s.cur).rs f.sc = w) ∧ (∀ r, r ≠ f.sc → (t.slotOf s.cur).rs r = x.rs r) ∧
      x.sameTrap (t.slotOf s.cur) ∧ ∀ u, s.cur.Other u → t.slotOf u = s.slotOf u
    let creates (i : Instr) (k : JobKind) : Prop :=
      (¬full → (jobs s).length < 65535 → Completes i s fun t => ∃ j, jobs t = jobs s ++ [j] ∧ j.kind = k ∧ j.state = .queued ∧
        j.dst = a ∧ j.src = b ∧ j.len = len ∧ j.issuer = s.cur ∧ j.seq = x.seq ∧ j.age = s.cycle ∧ j.f = f ∧ j.wpos = 0 ∧
        j.id ≠ 0 ∧ j.id < 65536 ∧ (∀ q ∈ jobs s, q.id ≠ j.id) ∧ answers t (BitVec.ofNat 64 (j.id * 65536))) ∧
      (full → Completes i s fun t => jobs t = jobs s ∧ answers t 11)
    let refused (i : Instr) (p : State → Prop) : Prop := Completes i s fun t => jobs t = jobs s ∧ answers t 12 ∧ p t
    let denied (i : Instr) : Prop := refused i s.SameMemory
    let misaligned (i : Instr) (r : Word) : Prop := s.CanTrap → Completes i s fun t =>
      Trapped s t 3 r (LM.words f) ∧ s.Elsewhere t
    (∀ row ∈ ([(.cpy f, .cpy, 1), (.cpyBrdx f, .brdx, 128), (.cpyBrdc f, .brdc, 128), (.cfill f, .cfill, 1)] :
        List (Instr × JobKind × Nat)),
      (len < 2 ^ 32 → len % row.2.2 = 0 → creates row.1 row.2.1) ∧
      (2 ^ 32 ≤ len ∨ len % row.2.2 ≠ 0 → denied row.1)) ∧
    (a % w = 0 → b % w = 0 → (len < 2 ^ 32 → len % w = 0 → creates (.cred f) .cred) ∧
      (2 ^ 32 ≤ len ∨ len % w ≠ 0 → denied (.cred f))) ∧
    (a % w ≠ 0 → misaligned (.cred f) (x.rs f.sa)) ∧
    (a % 64 = 0 → len < 2 ^ 32 → len % 64 = 0 → (s.scratchRange s.cur a len).isSome = true → creates (.bxf f) .bxf) ∧
    (a % 64 = 0 → 2 ^ 32 ≤ len ∨ len % 64 ≠ 0 ∨ s.scratchRange s.cur a len = none → denied (.bxf f)) ∧
    (a % 64 ≠ 0 → misaligned (.bxf f) (x.rs f.sa)) ∧
    (∀ row ∈ ([(.cpy2 f, .cpy2), (.cgath f, .cgath), (.cscat f, .cscat)] : List (Instr × JobKind)),
      (d.toNat % 64 ≠ 0 → misaligned row.1 d) ∧
      ∀ bs es, d.toNat % 64 = 0 → s1.readVirt s.cur.vf s.cur.core d.toNat 64 x.priv = .ok (bs, es) →
        let desc := descOf (BitVec.ofNat 512 (leNat bs))
        (desc.illegal = false → desc.denied row.2 a b = false → creates row.1 row.2) ∧
        (desc.illegal = false → desc.denied row.2 a b = true → refused row.1 (s.Released · 4))) ∧
    (∀ bs es, a % 64 = 0 → d.toNat % 64 = 0 → s1.readVirt s.cur.vf s.cur.core d.toNat 64 x.priv = .ok (bs, es) →
      let desc := decDescOf (BitVec.ofNat 512 (leNat bs))
      (desc.bad = false → creates (.cdec f) .cdec) ∧ (desc.bad = true → refused (.cdec f) (s.Released · 4))) ∧
    (x.priv = false → s.CanTrap → Completes (.cpyMig f) s fun t =>
      Trapped s t 2 (wordZero (.cpyMig f)) (LM.words f) ∧ s.Elsewhere t) ∧
    (x.priv = true → len ≠ 0 ∨ 2 ^ 56 ≤ a → denied (.cpyMig f)) ∧
    (∀ p es, x.priv = true → len = 0 → a < 2 ^ 56 → inFixedWindow a = false →
      (s.coreAt s.cur.vf s.cur.core).table ≠ 0 → s.walk s.cur.vf s.cur.core a = (.entry p, es) →
      (p.val.testBit 9 = true → creates (.cpyMig f) .mig) ∧ (p.val.testBit 9 = false → denied (.cpyMig f)))) ∧
  (∀ (s : State) (f : LM), s.Issues →
    let x := s.here
    let w := (x.rs f.sa).toNat
    let id := w / 65536 % 65536
    let job := s.namedJob s.cur (x.rs f.sa)
    let word (st state pos : Nat) : Word := BitVec.ofNat 64 (st + state * 256 + id * 65536 + pos % 2 ^ 32 * 2 ^ 32)
    let answers (i : Instr) (v : Word) (p : State → Prop) : Prop := Completes i s fun t =>
      (∃ o, Started s t (LM.words f) o ∧ o.ta = f.ta.toNat ∧ o.s = [(f.sc, v)]) ∧ s.Kept t ∧ s.SameMemory t ∧ p t ∧
        ∃ k ∈ t.flights, k.tid = s.cur ∧ k.seq = x.seq ∧ k.pk = .vreply ∧ k.notBefore = s.cycle + 12
    (job = none → answers (.cpoll f) (word 7 4 0) s.Apart ∧ answers (.cwpos f) 0 s.Apart ∧
      answers (.cwait f) (word 7 4 0) s.Apart ∧ answers (.ccancel f) (word 7 4 0) s.Apart) ∧
    (∀ j, job = some j →
      answers (.cwpos f) (BitVec.ofNat 64 j.wpos) s.Apart ∧
      (∀ st, j.state = .ended st → answers (.cpoll f) (word st 3 j.wpos) s.Apart ∧
        answers (.cwait f) (word st 3 j.wpos) s.Apart ∧ answers (.ccancel f) (word st 3 j.wpos) s.Apart) ∧
      (j.state = .queued → answers (.cpoll f) (word 11 0 j.wpos) s.Apart) ∧
      (∀ e, j.state = .running e → answers (.cpoll f) (word 11 1 j.wpos) s.Apart) ∧
      (j.state = .parked → answers (.cpoll f) (word 11 2 j.wpos) s.Apart) ∧
      (j.live = true →
        (Completes (.cwait f) s fun t => (∃ o, Started s t (LM.words f) o ∧ o.wait = .job id ∧ o.s = [(f.sc, 0)] ∧
          o.deadline = if f.fn.toNat % 32 = 31 then none else some (s.cycle + 2 ^ (f.fn.toNat % 32))) ∧ s.Kept t ∧
          s.Elsewhere t) ∧
        (let jobs (t : State) := (t.isleAt (s.isleNo s.cur.vf s.cur.core)).jobs
         let between : Prop := (∃ e, j.state = .running e) ∧
          if j.kind = .mig then s.forwardsOf j.tid ≠ [] else j.uneven = true
         (¬between → Completes (.ccancel f) s fun t =>
          (∃ o, Started s t (LM.words f) o ∧ o.ta = f.ta.toNat ∧ o.s = [(f.sc, word 13 3 j.wpos)]) ∧
          x.sameRegs (t.slotOf s.cur) ∧ s.SameMemory t ∧ (j.cancels = [] → s.Kept t) ∧
          (∃ k ∈ t.flights, k.tid = s.cur ∧ k.seq = x.seq ∧ k.pk = .vreply ∧ k.notBefore = s.cycle + 12) ∧
          (∀ q ∈ jobs t, q.key = j.key → q.state = .ended 13) ∧
          ∀ g ∈ t.flights, g.tid = j.tid → ∀ i d e n, g.pk ≠ .bxf i d e n) ∧
         (between → Completes (.ccancel f) s fun t =>
          (∃ o, Started s t (LM.words f) o ∧ o.ta = f.ta.toNat ∧ o.s = [(f.sc, 0)] ∧ o.left = 1) ∧ s.Kept t ∧ s.SameMemory t ∧ t.flights = s.flights ∧
          ∃ q ∈ jobs t, q.key = j.key ∧ q.state = j.state ∧ q.wpos = j.wpos ∧
            q.cancels = j.cancels ++ [(s.cur.slot, x.gen.toNat, x.seq)])))))

/-- R59, R172, R382, R387, R388, R391, R400, R401: a free engine takes, of the queued jobs of the virtual devices it
serves, one of the highest priority, among equals the oldest, and a decoder that is ready takes the queued decode job of
its die of the best service class, among equals the oldest. It begins once the accesses of the job's thread before the
command have been performed; the dirty bytes of the issuing core are then written back, and until then no byte changes.
A fill delivers 64 bytes of its pattern, each word of them set full; a chunk of a bank transform is transformed in
place, element by element, its words set full. A job that has delivered all of its bytes ends OK and signals its
semaphore. A job that a CCANCEL waits for ends ABORTED at its next boundary, and the CCANCEL is answered with its word.
What it says of the following is the model's own choice: delivery boundaries of an engine inside a unit (log 113). -/
def Obligations.EnginesRunTheirJobs : Prop :=
  ∀ (s : State) (isle engine : Nat) (j : Job) (k : Flight), s.Inv →
    let slots (t : State) : Prop := ∀ u, t.slotOf u = s.slotOf u
    let older (q : Job) (before same : Prop) : Prop := before ∨ same ∧ j.age ≤ q.age
    -- what taking the job leaves of memory
    let begins (t : State) (q : Option Job) : Prop :=
      if s.readsLater j.issuer j.seq = false ∧ j.begun = false then
        s.WroteBack t (s.coreAt j.vf j.core).l1 ∧ q.map (·.begun) = some true
      else s.SameMemory t
    (s.engineJob isle engine = some j → j.state = .queued → j.cancels = [] → (s.isleAt isle).job? j.key = some j →
      Completes (.engineTakeJob isle engine 0) s fun t => begins t ((t.isleAt isle).job? j.key) ∧ slots t ∧
        ((t.isleAt isle).job? j.key).map (·.state) = some (.running engine) ∧
        ∀ q ∈ (s.isleAt isle).jobs, q.kind ≠ .cdec → q.state ≠ .running engine ∧
          (q.state = .queued → (∃ v, s.vdAt q.vf = some v ∧ v.servedBy isle engine = true) →
            older q (q.prio < j.prio) (q.prio = j.prio))) ∧
    (∀ die dec i, die < 4 → dec < 4 → s.module.ready.getLsbD (34 + die * 4 + dec) = true →
      s.decoderJob die dec = some (i, j) → j.state = .queued → j.cancels = [] → j.staged = [] →
      (s.isleAt i).job? j.key = some j →
      let cls (q : Job) : Nat := match s.vdAt q.vf with | some v => v.cls | none => 3
      Completes (.decoderTakeJob die dec 0) s fun t => begins t ((t.isleAt i).job? j.key) ∧ slots t ∧
        ((t.isleAt i).job? j.key).map (fun q => (q.state, q.decoder)) =
          some (.running (4 + die * 4 + dec), some (die * 4 + dec)) ∧
        (j.decoder = none → ∀ x ∈ s.decodeJobs die, x.2.state = .queued → x.2.decoder = none →
          older x.2 (cls j < cls x.2) (cls j = cls x.2))) ∧
    (∀ pa cls cmp bs g es v, s.engineJob isle engine = some j → j.state = .running engine →
      (s.isleAt isle).job? j.key = some j → j.kind = .cfill → j.begun = true → j.cancels = [] → j.wpos = 0 →
      j.pos = 0 → j.staged = [] → 64 ≤ j.len → j.dst % 64 = 0 →
      j.dst < 2 ^ 56 → inFixedWindow j.dst = false → s.vdAt j.vf = some v →
      s.reach j.vf j.core j.dst 64 .write j.priv = (.at (.dram pa cls cmp bs none) g, es) → pa % 64 = 0 →
      Completes (.engineTakeJob isle engine 1) s fun t =>
        (s.atTable j.vf (.dram pa 0 false false none) ((List.range 64).map fun i => (i, 0)) = false →
          ∀ i < 64, readCell t.mem (pa + i) = byteAt j.src (i % 8)) ∧
        (∀ i < 64, setMem t.full ((pa + i) / 8) = true) ∧ s.KeptAround t j.issuer pa 64 ∧
        (∀ b, b < pa ∨ pa + 64 ≤ b → setMem t.full (b / 8) = setMem s.full (b / 8)) ∧
        s.SameHost t ∧ slots t ∧ ((t.isleAt isle).job? j.key).map (·.wpos) = some 64) ∧
    (∀ id core off, s.delivering = some k → k.pk = .bxf isle id core off → (s.vdAt k.tid.vf).isSome = true →
      (∀ g ∈ s.flights, g.id < k.id → ∀ i' d' o', g.pk ≠ .bxf i' d' core o') → (s.isleAt isle).job? id = some j →
      off % 64 = 0 → off + 64 ≤ (s.coreAt k.tid.vf core).spSize → Memory.wf (s.coreAt k.tid.vf core).sram = true →
      let c := s.coreAt k.tid.vf core
      let w := tagWidth j.f.fmt.toNat
      let m := ffmt j.f.fmt.toNat
      let op := j.f.fn.toNat / 8 % 4
      Completes .bxfChunkAtBank s fun t =>
        let c' := t.coreAt k.tid.vf core
        let el (c : Core) (e : Nat) : Nat := leNat (readBytes c.sram (off + e * (w / 8)) (w / 8))
        (op = 0 → ∀ i < 64, readCell c'.sram (off + i) = 0) ∧
        (op ≠ 0 → w ∈ [8, 16, 32, 64] → ∀ e < 512 / w, el c' e = bxfElem j.f j.rmode j.src (el c e) % 2 ^ w ∧
          (op = 2 → (unpackF m (el c e)).isNaN = false →
            el c' e = if (unpackF m (el c e)).neg = true then 0 else el c e)) ∧
        (∀ i < 64, setMem c'.sramFull ((off + i) / 8) = true) ∧
        (∀ b, b < off ∨ off + 64 ≤ b → readCell c'.sram b = readCell c.sram b) ∧
        ((t.isleAt isle).job? id).map (·.wpos) = some (j.wpos + 64) ∧ s.SameMemory t ∧ slots t) ∧
    (∀ e, (s.isleAt isle).job? j.key = some j → j.state = .running e → j.cancels = [] →
      j.next s = .done ∨ j.staged = [] ∧ ((j.kind ∈ [.cpy, .cfill, .cred, .brdx, .brdc, .bxf] ∧ j.len ≤ j.pos) ∨
        j.kind = .mig ∧ j.spos = 1) →
      (∀ g ∈ s.flights, g.tid ≠ j.tid) → (s.vdAt j.vf).isSome = true →
      Completes (.jobEnd isle j.key) s fun t => s.SameMemory t ∧
        ((t.isleAt isle).job? j.key).map (·.state) = some (.ended 0) ∧ (j.f.gv = 0 → slots t) ∧
        (j.f.gv ≠ 0 → (t.coreAt j.vf j.core).sem j.f.gq.toNat =
          min 65535 ((s.coreAt j.vf j.core).sem j.f.gq.toNat + j.f.gv.toNat))) ∧
    ((s.isleAt isle).job? j.key = some j → j.live = true → j.cancels ≠ [] →
      ((∃ e, j.state = .running e) → if j.kind = .mig then s.forwardsOf j.tid = [] else j.uneven = false) →
      Completes (.jobEnd isle j.key) s fun t => s.SameMemory t ∧
        ((t.isleAt isle).job? j.key).map (·.state) = some (.ended 13) ∧
        (∀ g ∈ t.flights, g.tid = j.tid → ∀ i d e n, g.pk ≠ .bxf i d e n) ∧
        ∀ slot gen seq o r w0, j.cancels = [(slot, gen, seq)] → (s.slotOf ⟨j.vf, j.core, slot⟩).gen.toNat = gen →
          (s.slotOf ⟨j.vf, j.core, slot⟩).ops.find? (·.seq == seq) = some o → o.left = 1 → o.s = [(r, w0)] →
          (∃ o' ∈ (t.slotOf ⟨j.vf, j.core, slot⟩).ops, o'.seq = seq ∧ o'.left = 0 ∧
            o'.s = [(r, BitVec.ofNat 64 (13 + 3 * 256 + j.id * 65536 + j.wpos % 2 ^ 32 * 2 ^ 32))]) ∧
          ∃ g ∈ t.flights, g.tid = ⟨j.vf, j.core, slot⟩ ∧ g.seq = seq ∧ (g.pk = .sreply ∨ g.pk = .vreply))

/-- R174, R388 to R396, R152: what copy jobs write. A write of an engine to device memory leaves its bytes there, or for
a reduction what its operation makes of the bytes it finds, with its words set full. CPY delivers the source's bytes,
CRED its element combined by its operator; CPY2 a row as it stands, or BF16 elements as F32; CGATH the row that its
entry names, or zeros beyond the bounds; CSCAT its row to where the entry names, or nowhere; `.brdc` a line coded and
`.brdx` a line decoded, and decoding undoes coding. What it says of the following is the model's own choice: delivery
boundaries of an engine inside a unit (log 113). -/
def Obligations.CopyJobsWriteTheirBytes : Prop :=
  ∀ (s : State) (isle engine : Nat) (j : Job), s.Inv →
    let d := descOf j.desc
    let moves (s : State) (a n : Nat) (b : List Byte) (es : List Eff) : Prop :=
      s.moveIn j.vf j.core j.priv (piecesOf a (upToUnit a n)) = (b, es, none) ∧ b.length = upToUnit a n
    let units (s : State) (a n : Nat) (b : List Byte) (es : List Eff) : Prop := a % 8 = 0 ∧ a + 64 ≤ 2 ^ 64 ∧
      s.moveIn j.vf j.core j.priv ((List.range ((n + 7) / 8)).map fun i => (a + 8 * i, 8)) = (b, es, none) ∧
      b.length = (n + 7) / 8 * 8
    let delivers (s1 : State) (us : List Put) : Prop :=
      Completes (.engineTakeJob isle engine 1) s fun t => s1.Delivered t isle j us
    let run (a : Nat) (b : List Byte) : List Put := (Put.bytes a b).pieces
    let w := tagWidth d.dt
    let row := d.cols * (w / 8)
    let plain : Prop := d.rows = 1 ∧ 0 < d.cols ∧ d.red = 0 ∧ d.t = false ∧ d.sm = false ∧ d.st = d.dt ∧ isBlock d.dt = false ∧
      w ∈ [8, 16, 32, 64] ∧ row ≤ 64 ∧ d.nl = 1 ∧ d.lform = false
    (∀ (u : Put) pa cls cmp bs g es, 0 < u.size →
      s.reach j.vf j.core u.va u.size .write j.priv = (.at (.dram pa cls cmp bs none) g, es) →
      (applyAll es s).slabAt j.vf (.dram pa cls cmp bs none) = false →
      ∃ es', s.putAll j.tid j.priv [u] = (es', u.count, none) ∧
        (∀ i < u.size, setMem (applyAll es' s).full ((pa + i) / 8) = true ∧
          (s.atTable j.vf (.dram pa 0 false false none) ((List.range u.size).map fun n => (n, 0)) = false →
            readCell (applyAll es' s).mem (pa + i) = (u.over (readBytes s.mem pa u.size)).getD i 0)) ∧
        s.KeptAround (applyAll es' s) j.tid pa u.size) ∧
    (∀ a x old, (Put.combine a 32 0 x).over old = leBytes 4 ((leNat old + x) % 2 ^ 32) ∧
      (Put.combine a 64 7 x).over old = leBytes 8 (max (leNat old) x) ∧
      (Put.combine a 64 4 x).over old =
        leBytes 8 (if toSigned 64 (leNat old) ≤ toSigned 64 x then leNat old else x) ∧
      (Put.combine a 32 9 x).over old = leBytes 4 (arithF .add 8 0 (leNat old) x).1 ∧
      (Put.combine a 32 16 x).over old = leBytes 4 (minMaxF false 8 (leNat old) x).1) ∧
    (∀ line : List Byte, line.length = 128 → brdDecode (brdEncode line) = line) ∧
    (s.Runs isle engine j →
      (∀ b es, j.kind = .cpy → 0 < j.len → j.len ≤ 64 → j.src < 2 ^ 64 → j.dst + 64 ≤ 2 ^ 64 → moves s j.src j.len b es →
        delivers (applyAll es s) (run j.dst (b.take j.len))) ∧
      (∀ b es, j.kind = .cred → j.len = elemBytes j.f → j.src < 2 ^ 64 → j.dst < 2 ^ 64 → j.dst % j.len = 0 →
        moves s j.src j.len b es →
        let op := j.f.fn.toNat / 8
        delivers (applyAll es s) [.combine j.dst (8 * j.len)
          (if j.f.fmt = 8 then (if op = 4 then 16 else if op = 5 then 17 else 9) else op) (leNat (b.take j.len))]) ∧
      (∀ b es, j.kind = .cpy2 → plain → j.dst + 64 ≤ 2 ^ 64 → units s j.src row b es →
        delivers (applyAll es s) (run j.dst (b.take row))) ∧
      (∀ b es, j.kind = .cpy2 → d.rows = 1 → 0 < d.cols → d.cols ≤ 16 → d.red = 0 → d.t = false → d.sm = false → d.st = 7 →
        d.dt = 8 → j.dst + 64 ≤ 2 ^ 64 → units s j.src (d.cols * 2) b es →
        delivers (applyAll es s) (run j.dst ((List.range d.cols).flatMap fun k =>
          leBytes 4 (rneF32 (unpackF (ffmt 7) (leNat ((b.drop (2 * k)).take 2))))))) ∧
      (∀ e es, (j.kind = .cgath ∨ j.kind = .cscat) → plain → j.dst + 64 ≤ 2 ^ 64 →
        s.moveIn j.vf j.core j.priv [(d.list % 2 ^ 64, 4)] = (e, es, none) →
        let v := leNat e
        let s1 := applyAll es s
        (j.kind = .cgath → d.sh ≤ v → delivers s1 (run j.dst (zeroBytes row))) ∧
        (j.kind = .cscat → d.sh ≤ v → delivers s1 [.skip row]) ∧
        (∀ b es', j.kind = .cgath → v < d.sh → units s1 (wrap64 (j.src + v * d.sst)) row b es' →
          delivers (applyAll es' s1) (run j.dst (b.take row))) ∧
        (∀ b es', j.kind = .cscat → v < d.sh → wrap64 (j.dst + v * d.dst) + 64 ≤ 2 ^ 64 → units s1 j.src row b es' →
          delivers (applyAll es' s1) (run (wrap64 (j.dst + v * d.dst)) (b.take row)))) ∧
      (j.src < 2 ^ 64 → j.dst % 8 = 0 → j.dst + 136 ≤ 2 ^ 64 → inVregs j.dst = false → inVregs (j.dst + 128) = false →
        (∀ b es, j.kind = .brdc → j.len = 128 → moves s j.src 128 b es →
          let c := brdEncode (b.take 128)
          delivers (applyAll es s) (run j.dst (c.take (if c.length < 64 then c.length else c.length / 8 * 8)))) ∧
        (∀ b es b' es', j.kind = .brdx → 128 ≤ j.len → moves s j.src 4 b es →
          let s1 := applyAll es s
          let n := upToUnit j.src (4 + brdPayload (leNat (b.take 4)))
          s1.moveIn j.vf j.core j.priv (unread (piecesOf j.src n) b.length) = (b', es', none) → b.length + b'.length = n →
          delivers (applyAll es' s1) (run j.dst (brdDecode (b ++ b'))))))

/-- R153, R397 to R399: what migrations and decodes write. A migration sends the lines of its page, each word with its
full/empty bit, to the same offsets of the entry's destination; when every line has arrived it writes the entry with the
destination in its FRAME and DEV fields and MIG cleared, nothing else in it changed, and sends each core the
invalidation of the page. A decode of one U8 patch writes its table entry and its pixels, rows first, each channel of a
pixel in turn, PAD where the image has none; one whose stream is not sound so far ends DENIED with nothing written. What
it says of the following is the model's own choice: what the image decoders make of a stream (log 7); a page that
changes under a migration (log 42); CMP at the switch of a migrated page (log 96); coefficients of JFIF (log 112); the
low bits of MTFN of a 2 MiB page (log 131). -/
def Obligations.MigrationsAndDecodesWriteTheirBytes : Prop :=
  ∀ (s : State) (isle engine : Nat) (j : Job) (v : VD) (p : Pte) (es : List Eff), s.Inv →
    let s1 := applyAll es s
    let x := p.val
    (s.engineJob isle engine = some j → j.state = .running engine → (s.isleAt isle).job? j.key = some j → j.kind = .mig →
      j.begun = true → j.cancels = [] → j.staged = [] → j.spos = 0 → s.migEntry j = (.entry p, es) → bit x 9 = true → s1.vdAt j.vf = some v →
      (∀ pa cls cmp bs m g, j.pos = 0 → bits x 104 100 = s.ownDev →
        let va := j.dst / j.pageSize * j.pageSize
        s1.placePte v ⟨x ||| 1, p.big⟩ (p.tpa va) va .read true = .at (.dram pa cls cmp bs m) g →
        Completes (.engineTakeJob isle engine 1) s fun t => s1.SameMemory t ∧
          ((t.isleAt isle).job? j.key).map (·.pos) = some 128 ∧
          ∀ i < 16, ∃ f ∈ t.flights, f.tid = j.tid ∧ f.seq = 8 * i ∧ f.pk = .forward (va + 8 * i) (pa + 8 * i) s.ownDev
            (bits x 99 64 * 2 ^ 16 + 8 * i) (readBytes s1.mem (pa + 8 * i) 8) (some (setMem s1.full (pa / 8 + i)))) ∧
      (∀ r0 r q m, j.pageSize ≤ j.pos → s.forwardsOf j.tid = [] → s.lookRegion j.vf j.core 0 = .region r0 q →
        pageMap r0 = some (r, m) →
        let key := if p.big = true then j.dst / 2 ^ 21 % 2 ^ 35 * 2 + 1 else j.dst / 2 ^ 16 % 2 ^ 40 * 2
        let at' := pageShard r m key
        let sh := s1.shardAt v (v.frameBacks at'.1 at'.2) at'.2 r.kindf m
        Completes (.engineTakeJob isle engine 1) s fun t => s1.SameMemory t ∧
          ((t.isleAt isle).job? j.key).map (·.spos) = some 1 ∧
          (∀ c ∈ v.cores, ∃ f ∈ t.flights, f.tid = j.tid ∧ f.pk = .inval key p.big c.1 none) ∧
          ∃ y, (bits y 51 16 = bits x 99 64 ∧ bits y 60 56 = bits x 104 100 ∧ bit y 9 = false ∧
              ∀ k, k ≠ 9 → ¬(16 ≤ k ∧ k ≤ 51) → ¬(56 ≤ k ∧ k ≤ 60) → y.testBit k = x.testBit k) ∧
            ∃ old new, t.vdAt j.vf = some ((v.putShard (sh.exec m 2 key y 0).shard).moveBacks old j.pageSize new))) ∧
    (∀ die dec b h w pix, ∀ pix' : Nat → Nat → Nat → Nat, die < 4 → dec < 4 → s.module.ready.getLsbD (34 + die * 4 + dec) = true →
      s.decoderJob die dec = some (isle, j) → j.state = .running engine → j.Fresh → (s.isleAt isle).job? j.key = some j →
      let d := decDescOf j.desc
      j.kind = .cdec → j.f.fmt ≠ 7 → s.moveIn j.vf j.core j.priv (piecesOf j.src d.slen) = (b, es, none) → b.length = d.slen →
      imageOf d b = some (h, w, false, pix) → 0 < h → h ≤ d.patch → 0 < w → w ≤ d.patch → 1 ≤ d.maxp → d.ch ≤ 3 →
      d.ptab % 8 = 0 → d.ptab + 8 ≤ 2 ^ 64 → j.dst + d.patch * d.patch * d.ch ≤ 2 ^ 64 →
      Completes (.decoderTakeJob die dec 2) s fun t =>
        ((∀ k < d.ch, ∀ y < h, ∀ x < w, pix k y x = some (pix' k y x)) →
          ∃ out : List Byte, out.length = d.patch * d.patch * d.ch ∧
            (∀ y < d.patch, ∀ x < d.patch, ∀ k < d.ch, out.getD ((y * d.patch + x) * d.ch + k) 0 =
              BitVec.ofNat 8 (if y < h ∧ x < w then pix' k y x else d.pad.getD k 0)) ∧
            s1.Delivered t isle j ((Put.side d.ptab (leBytes 4 0)).pieces ++ (Put.bytes j.dst out).pieces)) ∧
        ((∃ k < d.ch, ∃ y < h, ∃ x < w, pix k y x = none) → s1.SameMemory t ∧
          ((t.isleAt isle).job? j.key).map (·.state) = some (.ended 12)))

/-! ### Faults on their way, wakes and waits (R17, R49, R106, R107, R118 to R130) -/

/-- R119, R120: a fault message merges with the outstanding fault of its page, whose count rises, or opens a new one
under an id that no outstanding fault has; the record of a fault goes to the pager's inbox with its fields, into an
entry that has held no message or else the one freed first, and without a live pager the fault is refused; FWAKE ends
the fault that it names, with a wake to each requester, and is STALE for any other. What it says of the following is the
model's own choice: the inbox entry a message takes (log 20); the number of a fault (log 44). -/
def Obligations.FaultsReachThePager : Prop :=
  ∀ (s : State) (k : Flight) (vf : Nat) (v : VD) (x : SliceFault), s.vdAt vf = some v → v.vf = vf →
    let woken (t : State) (refuse : Bool) : Prop :=
      (∃ v', t.vdAt vf = some v' ∧ ∀ y ∈ v'.faults, y.fid ≠ x.fid) ∧
      (∀ q ∈ x.threads, ∃ f ∈ t.flights, f.tid = q ∧ f.pk = .wake x.page refuse [q] [] [] []) ∧
      (∀ q ∈ x.jobs, ∃ f ∈ t.flights, f.pk = .wake x.page refuse [] [q] [] []) ∧
      (∀ q ∈ x.launches, ∃ f ∈ t.flights, f.pk = .wake x.page refuse [] [] [q] []) ∧
      ∀ q ∈ x.matrix, ∃ f ∈ t.flights, f.pk = .wake x.page refuse [] [] [] [q]
    (∀ page va cause kind engine isle job launch, s.delivering = some k → k.tid.vf = vf →
      k.pk = .fault page va cause kind engine isle job launch →
      ((∃ y ∈ v.faults, y.page = page) → Completes .faultMessageAtSlice s fun t =>
        (∀ j ∈ t.flights, j.id ≠ k.id) ∧ s.SameMemory t ∧ ∃ v', t.vdAt vf = some v' ∧
          v'.faults.length = v.faults.length ∧ ∀ (j : Nat) (y : SliceFault), v.faults[j]? = some y →
            ∃ y', v'.faults[j]? = some y' ∧ (y.page ≠ page → y' = y) ∧ (y.page = page → y'.fid = y.fid ∧ y'.va = y.va ∧
              y'.cause = y.cause ∧ y'.merged = min (2 ^ 64 - 1) (y.merged + 1) ∧
              (launch = none → engine = false → y'.threads = y.threads ++ [k.tid]))) ∧
      ((∀ y ∈ v.faults, y.page ≠ page) → v.faults.length < 1024 → v.node ≠ 0 → Completes .faultMessageAtSlice s fun t =>
        (∀ j ∈ t.flights, j.id ≠ k.id) ∧ s.SameMemory t ∧ ∃ v' y, t.vdAt vf = some v' ∧ v'.faults = v.faults ++ [y] ∧
          y.page = page ∧ y.va = va ∧ y.cause = cause ∧ y.kind = kind ∧ y.engine = engine ∧ y.merged = 1 ∧
          y.sent = false ∧ y.fid < 65536 ∧ ∀ z ∈ v.faults, z.fid ≠ y.fid)) ∧
    (v.node ≠ 0 → v.faults.find? (fun y => y.fid == x.fid && !y.sent) = some x →
      let p := v.pager.toNat
      let slot := bits p 11 10
      let place := if bit p 28 = true then v.offset? (bits p 9 0) else none
      (place = none → Completes (.faultRecordDelivery vf x.fid) s fun t => woken t true) ∧
      (∀ core, place = some core → s.narrowLost (dieOf (v.coreNo 0)) (dieOf (v.coreNo core)) = false →
        let c := v.coreAt core
        let alive := (c.slotAt slot).live = true ∧ (c.slotAt slot).gen = BitVec.ofNat 16 (bits p 27 12)
        let used (e : Nat) : Prop := ∃ m ∈ c.inbox ++ c.taken, m.entry = e
        let room (e : Nat) : Prop := (e < 64 ∧ ¬used e ∧ ∀ e' < e, used e') ∨
          ((∀ e' < 64, used e') ∧ (c.taken.head?.map (·.entry)) = some e)
        (¬alive → Completes (.faultRecordDelivery vf x.fid) s fun t => woken t true) ∧
        (∀ e, alive → room e →
          x.first < 2 ^ 28 → x.cause < 16 → x.fid < 65536 → x.merged < 2 ^ 64 →
          Completes (.faultRecordDelivery vf x.fid) s fun t => ∃ m v', t.vdAt vf = some v' ∧
            (v'.coreAt core).inbox = c.inbox ++ [m] ∧ m.entry = e ∧ m.header.extractLsb' 0 28 = BitVec.ofNat 28 x.first ∧
            m.header.extractLsb' 28 2 = BitVec.ofNat 2 slot ∧ m.header.extractLsb' 30 3 = 3#3 ∧
            m.payload.extractLsb' 0 4 = BitVec.ofNat 4 x.cause ∧ m.payload.extractLsb' 4 2 = BitVec.ofNat 2 x.kind.code ∧
            m.payload.getLsbD 6 = x.engine ∧ m.payload.extractLsb' 32 16 = BitVec.ofNat 16 x.fid ∧
            m.payload.extractLsb' 64 64 = BitVec.ofNat 64 x.va ∧ m.payload.extractLsb' 128 64 = BitVec.ofNat 64 x.merged ∧
            ((v'.coreAt core).slotAt slot).latch = true ∧ ∀ y ∈ v'.faults, y.fid = x.fid → y.sent = true))) ∧
    (∀ o r fid refuse, s.Delivers k o r → k.tid.vf = vf → k.pk = .fwake fid refuse →
      (v.faults.find? (·.fid == fid) = some x → Completes .fwakeAtSlice s fun t => Answered t k r 0 ∧ woken t refuse) ∧
      ((∀ y ∈ v.faults, y.fid ≠ fid) → Completes .fwakeAtSlice s fun t => Answered t k r 7 ∧
        (t.vdAt vf).map (·.faults) = some v.faults))

/-- R17, R49, R121 to R124, R130: a wake ends what its slot holds of its page: refused accesses and instructions that
try again leave the mailbox, and in a saved slot they are noted; a job re-enters its queue or ends FAULTED (14). An
access that has waited 10 µs for a strait is held with cause LINK (3), and what has waited 10 ms for a frame holds it no
longer, an operation on the page map apart; a tenant command then fails in its turn. What it says of the following is
the model's own choice: waiting for a strait (log 36); retries (log 45); the level of a retried access (log 124); when
the 10 ms of a missing frame begin (log 125). -/
def Obligations.WakesAndExpiriesEndWaits : Prop :=
  ∀ (s : State) (k : Flight) (page : Nat) (refuse : Bool), s.Inv →
    let woken (q : Tid) (t : State) : Prop := ∀ h ∈ (t.slotOf q).held, h.cause ≠ 0 → pageOf h.va = page → h.woken = true
    (∀ q, s.delivering = some k → k.pk = .wake page refuse [q] [] [] [] →
      (refuse = true ∨ (s.coreAt q.vf q.core).halted = true ∨
        ∀ h ∈ (s.slotOf q).held, h.cause ≠ 0 → pageOf h.va = page → h.part = none) →
      Completes .wakeArrival s fun t => s.SameMemory t ∧ (∀ j ∈ t.flights, j.id ≠ k.id) ∧ woken q t) ∧
    (∀ i key j, s.delivering = some k → k.pk = .wake page refuse [] [(i, key)] [] [] → (s.isleAt i).job? key = some j →
      j.faultPage = some page →
      (refuse = false → j.saved = false → Completes .wakeArrival s fun t =>
        ∃ j', (t.isleAt i).job? key = some j' ∧ j'.state = .queued ∧ j'.faultPage = none ∧ s.SameMemory t) ∧
      (refuse = true → Completes .wakeArrival s fun t => s.SameMemory t ∧
        ∀ j', (t.isleAt i).job? key = some j' → j'.state = .ended 14)) ∧
    (∀ dev p pl, s.flightAt s.turn = some k → k.pk = .route dev p pl → k.notBefore + 17000 ≤ s.cycle →
      s.routeReady dev = false → s.isPager k.tid = false → (s.slotOf k.tid).held = [] → (s.slotOf k.tid).refusal = none →
      (s.vdAt k.tid.vf).isSome = true → Completes .routeWaitExpiry s fun t => s.SameMemory t ∧
        (∀ j ∈ t.flights, j.id ≠ k.id) ∧
        (∃ h, (t.slotOf k.tid).held = [h] ∧ h.va = p.va ∧ h.cause = 3 ∧ h.part = some p) ∧ (t.slotOf k.tid).mailbox = 1 ∧
        ∃ f ∈ t.flights, f.tid = k.tid ∧ f.pk = .fault (p.va / 65536) p.va 3 p.kind false 0 0 none) ∧
    (∀ vf n v, s.vdAt vf = some v → v.vf = vf → (∃ w ∈ v.frameWaits, w.1 = n ∧ w.2 + 17000000 ≤ s.cycle) →
      (∀ off j, ∀ h ∈ ((v.coreAt off).slotAt j).held, h.frame = n → ∀ f r, h.flight.bind s.flightAt = some f →
        f.pk = .map r → r.handle ≠ 0) → Completes (.frameWaitExpiry vf n) s fun t => ∃ v', t.vdAt vf = some v' ∧
        v'.frameWaits = v.frameWaits.filter (·.1 != n) ∧
        (∀ off j, ∀ h ∈ ((v'.coreAt off).slotAt j).held, h.cause = 0 → h.frame = n → h.woken = true) ∧
        ∀ tr, v.transfer = some tr → tr.frame = some n → v'.transfer = some { tr with frame := none, failed := true })

/-- R106, R107, R294, R296, R340, R344, R109, R401: on a running core a waiting instruction ends when its condition
holds before its timeout expires (the wake latch is cleared, the claim granted, the amount subtracted, the oldest entry
taken, the phase has flipped, the job has ended), with the result that it then has; once its timeout has expired it ends
TIMEOUT (1), which is all it writes, also where its request is still on its way, an arrival at a barrier and an acquire
that waits for no token apart. A SLEEP still wakes in the cycle in which it expires. A wait of a semaphore field that
expires abandons its instruction, which writes TIMEOUT to its status register alone; in a gang the member only gives up
its wait. What it says of the following is the model's own choice: timeouts of operations that are held (log 43); a
timeout before a request has reached its home (log 115). -/
def Obligations.WaitsEndWhenMetOrExpired : Prop :=
  ∀ (s : State) (vf core slot seq : Nat),
    let id : Tid := ⟨vf, core, slot⟩
    let x := s.slotOf id
    let c := s.coreAt vf core
    (s.vdAt vf).isSome = true →
    (∀ (o : Op) (r : SReg) (w : Word), x.opOf seq = some o → o.left = 1 → o.s = [(r, w)] →
      let ends (t : State) (p : Op → Prop) : Prop :=
        (∃ o' ∈ (t.slotOf id).ops, o'.seq = seq ∧ o'.left = 0 ∧ o'.wait = .none ∧ p o') ∧
        ∃ f ∈ t.flights, f.tid = id ∧ f.seq = seq ∧ (f.pk = .vreply ∨ f.pk = .sreply)
      let gives (t : State) (n : Nat) : Prop := ends t fun o' => o'.s = [(r, BitVec.ofNat 64 n)]
      let met (p : State → Prop) : Prop := c.halted = false →
        (∀ d, o.deadline = some d → s.cycle < d ∨ (o.wait = .latch ∧ s.cycle = d)) →
        Completes (.waitConditionMet vf core slot seq) s p
      (o.wait = .latch → x.latch = true → met fun t => ends t (fun o' => o'.s = o.s) ∧ (t.slotOf id).latch = false) ∧
      (o.wait = .claim → (∀ j < 4, (c.slotAt j).claim = false) → c.claims.head? = some (slot, seq) →
        met fun t => ends t (fun o' => o'.s = o.s) ∧ (t.slotOf id).claim = true ∧ (t.coreAt vf core).fault = false ∧
          (t.coreAt vf core).rotto = false) ∧
      (∀ q n, o.wait = .sem q n → n ≤ c.sem q → Keyed c.sems →
        (∀ u ∈ s.semWaiters vf core, u.2.1 = q → u.2.2.1 ≤ c.sem q →
          if u.2.2.2.1 = slot then seq ≤ u.2.2.2.2 else o.issued ≤ u.1) →
        met fun t => gives t ((c.sem q - n) * 65536) ∧ (t.coreAt vf core).sem q = c.sem q - n) ∧
      (∀ v m, o.wait = .inbox v → c.inbox.find? (fun m => bits m.header.toNat 29 28 == slot) = some m → c.spill = [] →
        (∀ p ∈ x.ops, (∃ v', p.wait = .inbox v') → seq ≤ p.seq) →
        met fun t => ends t (fun o' => o'.s = [(r, BitVec.ofNat 64 (m.header.toNat % 2 ^ 35 * 256))] ∧
            o'.v = [(v, ⟨m.payload.setWidth 2048, 0, 0⟩)]) ∧
          (t.coreAt vf core).inbox = c.inbox.filter (·.entry != m.entry) ∧
          (t.coreAt vf core).taken = c.taken ++ [⟨m.entry, m.header &&& ~~~(1#64 <<< 33), m.payload⟩]) ∧
      (∀ va p counted scope pa, o.wait = .phase va p counted scope → s.objectAt id va pa →
        let b := leNat (readBytes s.mem pa 8)
        b % 65536 ≠ 0 → b / 2 ^ 33 = 0 → b.testBit 32 ≠ p → met fun t => gives t (if p = true then 0 else 256)) ∧
      (∀ n j st, o.wait = .job n → j.state = .ended st → (s.isleAt (s.isleNo vf core)).jobs.find?
          (fun j => j.id == n && j.vf == vf && j.core == core) = some j →
        met fun t => gives t (st + 768 + n * 65536 + j.wpos % 2 ^ 32 * 2 ^ 32)) ∧
      (∀ d, o.deadline = some d → d ≤ s.cycle → (o.wait = .latch → d < s.cycle) → c.halted = false →
        (∀ h ∈ x.held, h.seq ≠ seq) → (∀ f ∈ s.flights, f.tid = id → f.seq = seq → s.unlimited f = false) → Completes (.waitTimeout vf core slot seq) s fun t =>
          ends t (fun o' => (∃ w', o'.s = [(r, w')] ∧ w'.toNat % 256 = 1 ∧
              ∀ q n, o.wait = .sem q n → w' = BitVec.ofNat 64 (1 + c.sem q * 65536)) ∧
            o'.v = [] ∧ o'.p = [] ∧ o'.flags = 0 ∧ o'.gv = 0) ∧ s.SameMemory t)) ∧
    (∀ i q n since, x.opOf x.seq = none → s.instrAt id = some i → semField i = some (q, n) → x.semWait = some since →
      x.live = true → x.lapsed = false → x.waitlim ≠ 31#5 → since + 2 ^ x.waitlim.toNat ≤ s.cycle →
      s.semMet vf core q n since slot x.seq = false → Completes (.waitTimeout vf core slot x.seq) s fun t =>
        let y := t.slotOf id
        ((∃ ref, x.team = some ref ∧ ref.gang = true) → y = { x with lapsed := true } ∧ s.SameMemory t) ∧
        ((∀ ref, x.team = some ref → ref.gang = false) →
        y.pc = x.after (match lmOf i with | some f => LM.words f | none => 1) ∧ y.seq = x.seq + 1 ∧
          (∀ r, statusReg i = some r → r ≠ 0 → y.rs r = 1#64) ∧ (∀ j, statusReg i ≠ some j → y.rs j = x.rs j) ∧
          y.v = x.v ∧ y.p = x.p ∧ y.fpflags = x.fpflags ∧ (t.coreAt vf core).sem q = c.sem q ∧ s.SameMemory t ∧
          t.flights = s.flights))

/-! ### Graphs, turns and the ramp limiter (R78 to R91, R125 to R130) -/

/-- R78 to R81: a dispatcher places the first node of its pool that has a placement and that no hold stops, on free
slots of cores that it then reserves, and no node of higher effective priority that could be placed is left behind; a
node that has waited 20 µs may go to another die's pool, its holds with it; each 100 µs of waiting raises a node's
effective priority by one, up to 3; a node that has waited 100 µs without a placement begins a hold. What it says of the
following is the model's own choice: effective priority (log 47); choices of the placement (log 48). -/
def Obligations.DispatchersPlaceReadyNodes : Prop :=
  ∀ (s : State) (v : VD) (die : BitVec 2), s.vdAt v.vf = some v →
    (∀ p q, s.vds.findSome? (fun x => (s.placeable x.2 die.toNat).map fun r => (x.2, r)) = some (v, p, q) →
      Completes (.nodePlace die) s fun t => (∃ v', t.vdAt v.vf = some v' ∧ (∃ g ∈ v'.graphs, g.id = p.graph ∧
          ∃ n, g.nodes[p.idx]? = some n ∧ n.state = .placed die.toNat ∧ n.place = q) ∧
          ∀ h ∈ v'.holds, h.2 ≠ (p.graph, p.idx)) ∧
        (∀ x ∈ q, x.2.length = p.node.slots ∧ ∀ k ∈ x.2, k < 4 ∧ v.liveOn x.1 k = false ∧ v.reserved x.1 k = false) ∧
        (∀ m ∈ v.pool die.toNat, p.node.eff < m.node.eff → v.stopped die.toNat m = true ∨
          s.placement v m.node die.toNat = none) ∧ s.SameMemory t) ∧
    (∀ p, s.vds.findSome? (fun x => (s.holdNow x.2 die.toNat).map fun p => (x.2, p)) = some (v, p) →
      Completes (.holdBegin die) s fun t => p.node.ready + 170000 ≤ s.cycle ∧
        s.placement v p.node die.toNat = none ∧ ∃ v', t.vdAt v.vf = some v' ∧
          v'.holds = v.holds ++ (if p.node.wide = true then v.dies else [die.toNat]).map fun d => (d, p.graph, p.idx)) ∧
    (∀ (g i d : Nat) (n : Node), v.nodeAt g i = some n → n.state = .pooled d →
      let r : NodeRef := ⟨v.vf, g, i⟩
      let after (t : State) (p : VD → Node → Prop) : Prop :=
        ∃ v' n', t.vdAt v.vf = some v' ∧ v'.nodeAt g i = some n' ∧ p v' n'
      (n.prio + n.aged < 3 → n.ready + 170000 * (n.aged + 1) ≤ s.cycle → Completes (.priorityAging r) s fun t =>
        after t fun _ n' => n'.aged = n.aged + 1 ∧ n'.prio = n.prio ∧ n'.state = .pooled d) ∧
      (v.state = .running → v.turnStart.isSome = true → die.toNat ∈ v.dies → die.toNat ≠ d → n.wide = false →
        n.ready + 34000 ≤ s.cycle → v.stopped die.toNat ⟨g, i, n⟩ = false → (s.placement v n die.toNat).isSome = true →
        Completes (.nodeSteal die r) s fun t => after t fun v' n' => n'.state = .pooled die.toNat ∧
          n'.ready = n.ready ∧ ∀ h ∈ v'.holds, h.2 = (g, i) → h.1 = die.toNat))

/-- R77, R83 to R86, R294, Table 4.8: the launch of a placed node writes the team's barrier, the team's size and zeros,
to the 64 bytes at ARGS and starts a thread on each of its seats, with ARGS, rank, team size, core and slot in s1 to s5
and the wake latch clear, and on no other slot, the dirty bytes of its cores' L1 written back before and their lines
gone; where ARGS lies beyond 56 bits or in a fixed window none starts and the node completes ABORTED. A node whose
threads have ended and whose stores and matrix operations have arrived is done, its cores' dirty bytes written back:
successors that waited for it alone are ready and its event is raised, its semaphore and its notice; with its last node
a graph is complete, its event raised, and no longer live. What it says of the following is the model's own choice: the
barrier that a launch writes (log 59); ARGS with bits [63:56] not zero (log 102). -/
def Obligations.TeamsLaunchAndComplete : Prop :=
  ∀ (s : State) (v : VD) (g i : Nat) (n : Node), s.Inv → s.vdAt v.vf = some v → v.nodeAt g i = some n →
    let r : NodeRef := ⟨v.vf, g, i⟩
    let after (t : State) (j : Nat) (p : Node → Prop) : Prop := ∃ v' m, t.vdAt v.vf = some v' ∧ v'.nodeAt g j = some m ∧ p m
    let signals (t : State) (e : Nat) : Prop := bits e 25 18 ≠ 0 → (t.coreAt v.vf (bits e 9 0)).sem (bits e 17 10) =
      min 65535 ((s.coreAt v.vf (bits e 9 0)).sem (bits e 17 10) + bits e 25 18)
    let tells (t : State) (e user ix : Nat) (aborted : Bool) : Prop := e.testBit 26 = true → ∃ v', t.vdAt v.vf = some v' ∧
      completion 0 (if aborted = true then 13 else 0) 0 (BitVec.ofNat 64 user) (BitVec.ofNat 64 (g + ix * 65536)) ∈
        v'.channel.notices
    let drained (t : State) (b : Nat) : Prop := readCell t.mem b = readCell s.mem b ∨ ∃ x ∈ n.place,
      ∃ l ∈ (s.coreAt v.vf x.1).l1, b / 128 = l.line ∧ l.dirty.getLsbD (b % 128) = true ∧
        readCell t.mem b = byteAt l.data.toNat (b % 128)
    let drains (t : State) : Prop := s.SameHost t ∧ ∀ b, drained t b
    (∀ d, n.state = .placed d → v.state = .running → v.turnStart.isSome = true → n.faulted = none → n.frame = none →
      s.launchHeld v d n = false →
      (2 ^ 56 ≤ n.args ∨ inFixedWindow n.args = true → Completes (.nodeLaunch r) s fun t =>
        after t i (fun m => m.state = .draining true ∧ m.aborted = true ∧ m.count = 0) ∧ s.SameMemory t) ∧
      (∀ es, n.args < 2 ^ 56 → n.args % 64 = 0 → inFixedWindow n.args = false →
        s.writeVirt ⟨v.vf, 4096, 0⟩ n.args (leBytes 8 n.ranks.length ++ List.replicate 56 0) true false = .ok es →
        (n.ranks.map fun x => (x.1, x.2 % 4)).Nodup → Completes (.nodeLaunch r) s fun t =>
          after t i (fun m => m.state = .running ∧ m.count = n.ranks.length) ∧
          (∀ pa cls cmp bs gd es', s.reach v.vf 4096 n.args 64 .write true = (.at (.dram pa cls cmp bs none) gd, es') →
            let table := s.atTable v.vf (.dram pa cls cmp bs none) ((List.range 64).map fun j => (j, 0))
            (pa % 64 = 0 → (∀ c, ((∃ x ∈ n.place, x.1 = c) ∨ table = true) → ∀ l ∈ (s.coreAt v.vf c).l1, l.line ≠ pa / 128) →
              readBytes t.mem pa 64 = leBytes 8 n.ranks.length ++ List.replicate 56 0) ∧
            s.SameHost t ∧ ∀ b, b < pa ∨ pa + 64 ≤ b → drained t b ∨ table = true ∧ ∃ c, s.CameHome t v.vf c b) ∧
          (∀ x ∈ n.place, (t.coreAt v.vf x.1).l1 = []) ∧
          (∀ off k, (∀ x ∈ n.ranks, x.1 ≠ off ∨ x.2 % 4 ≠ k % 4) →
            t.slotOf ⟨v.vf, off, k⟩ = s.slotOf ⟨v.vf, off, k⟩) ∧
          ∀ (j off k : Nat), n.ranks[j]? = some (off, k) →
            let x := s.slotOf ⟨v.vf, off, k⟩
            let y := t.slotOf ⟨v.vf, off, k⟩
            y.live = true ∧ y.pc = BitVec.ofNat 64 n.entry ∧ y.priv = false ∧ y.gen = x.gen + 1 ∧
              y.rs 1 = BitVec.ofNat 64 n.args ∧ y.rs 2 = BitVec.ofNat 64 j ∧ y.rs 3 = BitVec.ofNat 64 n.ranks.length ∧
              y.rs 4 = BitVec.ofNat 64 (v.coreNo off) ∧ y.rs 5 = BitVec.ofNat 64 k ∧
              y.rank = BitVec.ofNat 12 j ∧ y.tsize = BitVec.ofNat 13 n.ranks.length ∧ y.tags = 0 ∧ y.claim = false ∧
              y.fpflags = 0 ∧ y.rmode = 0 ∧ y.waitlim = 31#5 ∧ y.latch = false ∧ (∀ q, 5 < q → y.rs q = 0) ∧
              (∀ q, y.rv q = VVal.zero) ∧ ∀ q, q ≠ 0 → y.rp q = 0)) ∧
    (∀ a gr, n.state = .draining a → n.count = 0 → s.onItsWay v.vf n = false → s.eventHeld v g i n = false → v.graphs.find? (·.id == g) = some gr →
      ((∃ (j : Nat) (m : Node), gr.nodes[j]? = some m ∧ j ≠ i ∧ m.state ≠ .done) → Completes (.nodeComplete r) s fun t =>
        after t i (fun m => m.state = .done) ∧ drains t ∧
        (∀ (j : Nat) (m : Node), gr.nodes[j]? = some m → j ≠ i → m.state = .waiting → j ∈ n.succ →
          m.preds = n.succ.count j → after t j fun m' => ∃ die, m'.state = .pooled die) ∧
        signals t n.evt ∧ tells t n.evt gr.user i n.aborted) ∧
      ((∀ (j : Nat) (m : Node), gr.nodes[j]? = some m → j ≠ i → m.state = .done) →
        Completes (.nodeComplete r) s fun t => ∃ v', t.vdAt v.vf = some v' ∧ (∀ h ∈ v'.graphs, h.id ≠ g) ∧
          v'.graphsDone = v.graphsDone + 1 ∧ drains t ∧ (bits n.evt 25 18 = 0 → signals t gr.evt) ∧
          tells t n.evt gr.user i n.aborted ∧ tells t gr.evt gr.user 0xFFFF (gr.aborted || n.aborted)))

/-- R87, R88, R125 to R130: a turn ends once its slice is spent and another virtual device is eligible, and its cores
are asked to halt; a core that is asked stops, and its withheld sums leave for their homes, as do those of a grant that
comes after that; once nothing of it is on its way its save writes L1's dirty bytes back and leaves no cached copy; the
atoll's next turn is restored on its cores, their registers as they were. R89 to R91: at the end of a window of an isle
dummies of 8 units fill its count up to 3,400 below the window before, on matrix units with that much idle time, the
lowest core first, which RAMPDUMMY of each core counts, and the next window begins. What it says of the following is the
model's own choice: virtual time (log 49); dummy operations of the ramp limiter (log 51); the end of a turn (log 52);
from when SLICE.SET applies (log 127). -/
def Obligations.TurnsEndAreSavedAndResume : Prop :=
  (∀ (s : State) (v : VD), s.Inv → s.vdAt v.vf = some v →
    let kept (t : State) (off : Nat) : Prop := ∀ k < 4,
      ((s.coreAt v.vf off).slotAt k).sameRegs ((t.coreAt v.vf off).slotAt k)
    (∀ node c u, s.resident node = some v → v.turnStart = some c → c + 1700 * v.sliceUs ≤ s.cycle → u ∈ s.onAtoll node →
      u.eligible = true → u.vf ≠ v.vf → Completes (.sliceExpiry node) s fun t => s.SameMemory t ∧
        ∃ v', t.vdAt v.vf = some v' ∧ v'.turnStart = none ∧ v'.saving = v.cores.map (·.1) ∧ v'.cores = v.cores ∧
          v'.busy = v.busy + (s.cycle - c) ∧ v'.vtime = v.vtime + (s.cycle - c) * 256 / max 1 v.weight ∧
          ∀ h ∈ v'.graphs, ∀ n ∈ h.nodes, ∀ d, n.state ≠ .placed d) ∧
    (∀ off, off ∈ v.saving → (v.coreAt off).halted = false ∨ (v.coreAt off).sums ≠ [] → Completes (.preemptRequest v.vf off) s fun t =>
      (t.coreAt v.vf off).halted = true ∧ (t.coreAt v.vf off).sums = [] ∧ kept t off ∧ s.SameMemory t ∧
      ∀ l ∈ (v.coreAt off).sums, ∃ f ∈ t.flights, f.tid.vf = v.vf ∧ f.tid.core = off ∧
        f.pk = .partialSum l.handle l.line l.lanes l.float true) ∧
    (∀ off, off ∈ v.saving → (v.coreAt off).halted = true → (v.coreAt off).sums = [] → s.queueRests v.vf off = true →
      (applyAll (s.stopSlots v.vf off) s).coreRests v.vf off = true → s.jobsRest v.vf off = true → Completes (.contextSaveComplete v.vf off) s fun t =>
        let c' := t.coreAt v.vf off
        c'.l1 = [] ∧ c'.tlb = [] ∧ c'.regions = [] ∧ c'.fetched = [] ∧ kept t off ∧ s.WroteBack t (v.coreAt off).l1 ∧
        (t.vdAt v.vf).map (·.saving) = some (v.saving.filter (· != off))) ∧
    (v.node ≠ 0 → s.atollFree v.node = true → (s.nextTurn v.node).map (·.vf) = some v.vf →
      Completes (.resume v.vf) s fun t => (t.vdAt v.vf).map (·.turnStart) = some (some s.cycle) ∧
        ∀ off c, lookup v.cores off = some c → off < atollSize v.node →
          (t.coreAt v.vf off).halted = false ∧ (t.coreAt v.vf off).l1 = [] ∧ kept t off)) ∧
  (∀ (s : State) (isle : Nat), s.Inv → isle < 64 → (s.isleAt isle).window < s.cycle / 1700 →
    Completes (.rampWindow isle) s fun t =>
      let x := s.isleAt isle
      let y := t.isleAt isle
      let room (p : Nat) : Nat := (1700 - p) / 8
      y.sNow = 0 ∧ (x.sPrev ≤ x.sNow + 3400 + 8 * (x.per.map room).sum → x.sPrev ≤ y.sPrev + 3400) ∧
        (∀ (j p vf off : Nat), x.per[j]? = some p → s.residentOn (16 * isle + j) = some (vf, off) →
          (t.coreAt vf off).rampdummy = (s.coreAt vf off).rampdummy +
            8 * min (x.dummies - ((x.per.take j).map room).sum) (room p)) ∧
        y.per = List.replicate 16 0 ∧ (x.sPrev ≤ x.sNow + 3400 → y.sPrev = x.sNow) ∧ y.sPrev < max x.sNow (x.sPrev - 3400) + 8 ∧
        y.window ≤ s.cycle / 1700 ∧ x.window < y.window ∧ y.jobs = x.jobs ∧ s.SameMemory t)

/-! ### The module: boot, readiness, links, heat, power and ownership (R12, R13, R22 to R30, R52, R53) -/

/-- R24 to R30, R53: power-on verifies the flash image and blows the fuses up to its version, or enters recovery; the
recovery window takes eight bytes of the owner, and an image that passes starts; a failed self-check and an
uncorrectable error halt the Holm, and every READY bit falls; a module reset loses every virtual device and packet and
begins COUNT again at 0; a function is ready once what it needs is, a stack scrubbed; with a die its functions fall and
the virtual devices that stand on it fail. What it says of the following is the model's own choice: cryptography,
identities and layouts of signed data (log 6); power-on after a shutdown or a halt (log 63); the security version (log
64); recovery-window writes that do not count (log 65); notices to the masters (log 82). -/
def Obligations.TheModuleBootsRecoversAndFails : Prop :=
  ∀ (s : State) (oob passed : Bool) (off : BitVec 20) (value : Word) (bit : BitVec 6), s.Inv →
    let m := s.module
    let b := bit.toNat
    let up := m.ready.getLsbD 0 = true ∧ m.halted = false
    let bootable (image : List Byte) : Prop :=
      Config.sm2Verifies Config.fusedKey (Config.sm3 image) (Config.imageSignature image) = true ∧
        s.fused ≤ Config.imageVersion image
    let started (t : State) (image : List Byte) : Prop := t.module.booted = true ∧ t.module.recovery = false ∧
      t.module.ready.getLsbD 0 = true ∧ t.module.flash = image ∧ t.fused = max s.fused (min 64 (Config.imageVersion image))
    let halted (t : State) : Prop := t.module.halted = true ∧ ∀ j < 50, t.module.ready.getLsbD j = false
    let lost (t : State) : Prop := t.vds = [] ∧ t.flights = [] ∧ t.cycle = 0 ∧ t.powers = s.powers + 1 ∧
      t.serials = s.serials + 1
    (m.halted = true ∨ m.booted = false ∧ m.recovery = false →
      (bootable m.flash → Completes .powerOnBoot s fun t => started t m.flash ∧ (m.halted = true → lost t)) ∧
      (¬bootable m.flash → Completes .powerOnBoot s fun t => t.module.recovery = true ∧ t.module.booted = false ∧
        t.fused = s.fused ∧ (m.halted = true → lost t))) ∧
    (m.recovery = true → m.holder = (if oob = true then 2 else 1) → Completes (.recoveryWindowWrite oob off value) s fun t =>
      (∀ i < 8, off.toNat + i < 2 ^ 20 → t.module.image[off.toNat + i]? = some (value.extractLsb' (8 * i) 8)) ∧
      ∀ j < m.image.length, j < 2 ^ 20 → j < off.toNat ∨ off.toNat + 8 ≤ j → t.module.image[j]? = m.image[j]?) ∧
    (m.recovery = false ∨ m.holder ≠ (if oob = true then 2 else 1) →
      Completes (.recoveryWindowWrite oob off value) s fun t => t = s) ∧
    (m.recovery = true → (bootable m.image → Completes .recoveryImageCheck s fun t => started t m.image) ∧
      (¬bootable m.image → Completes .recoveryImageCheck s fun t => t = s)) ∧
    (up → m.checkedAt + 17000000 ≤ s.cycle → Completes (.holmSelfCheck passed) s fun t => t.module.checkedAt = s.cycle ∧
      (passed = true → t.module.ready = m.ready ∧ t.vds = s.vds) ∧ (passed = false → halted t)) ∧
    (up → Completes .holmUncorrectableError s halted) ∧
    (m.resetDue.isSome = true → Completes .moduleResetTakesEffect s fun t => lost t ∧ t.module.ready = 0 ∧
      t.module.booted = false ∧ t.module.halted = false ∧ t.module.flash = m.flash ∧ t.fused = s.fused) ∧
    (up → m.ready.getLsbD b = false → 1 ≤ b → b < 50 → (5 ≤ b → b ≤ 16 → m.ready.getLsbD (1 + (b - 5) / 3) = true) →
      (b = 17 → m.hostFlit = true ∧ (m.hostLanes = 16 ∨ m.hostLanes = 8)) →
      (18 ≤ b → b ≤ 33 → m.dev.isSome = true ∧ m.route ≠ []) →
      (34 ≤ b → m.ready.getLsbD (1 + (b - 34) / 4) = true) → Completes (.functionReady bit) s fun t =>
        (∀ j, t.module.ready.getLsbD j = (m.ready.getLsbD j || decide (j = b))) ∧
        (5 ≤ b → b ≤ 16 → (∀ a, a / 2 ^ 36 = b - 5 → readCell t.mem a = 0) ∧
          (∀ w, 8 * w / 2 ^ 36 = b - 5 → setMem t.full w = false) ∧
          ∀ a, a / 2 ^ 36 ≠ b - 5 → readCell t.mem a = readCell s.mem a) ∧
        (b < 5 ∨ 16 < b → s.SameMemory t)) ∧
    (b ≤ 49 → m.ready.getLsbD b = true → Completes (.functionFailure bit) s fun t =>
      t.module.ready.getLsbD b = false ∧ (1, b) ∈ t.module.events ∧ (b = 0 → halted t) ∧
      (5 ≤ b → ∀ j, j ≠ b → t.module.ready.getLsbD j = m.ready.getLsbD j) ∧
      (1 ≤ b → b ≤ 4 → (∀ j < 3, t.module.ready.getLsbD (5 + 3 * (b - 1) + j) = false) ∧
        (∀ j < 4, t.module.ready.getLsbD (34 + 4 * (b - 1) + j) = false) ∧
        ∀ vf v, s.vdAt vf = some v → v.vf = vf → v.node ≠ 0 → b - 1 ∈ atollDies v.node →
          ∃ v', t.vdAt vf = some v' ∧ v'.state = .failed))

/-- R12, R13, R22, R23: a narrow goes down, comes back within 100 µs of retraining, or fails with its two dies; the host
link trains at ×16 or ×8 in FLIT mode; each 100 µs a die's ceiling steps down above 105 °C, up below 100 °C, and is held
between, and the power ceiling steps likewise about the cap; a junction at 115 °C shuts the module down. What it says of
the following is the model's own choice: the power ceiling's ends (log 57); narrow failures and readiness (log 66);
notices to the masters (log 82); the reading that a thermal step looks at (log 97). -/
def Obligations.NarrowsLinksHeatAndPower : Prop :=
  ∀ (s : State) (di dj die : BitVec 2) (lanes tenths watts : Nat),
    let m := s.module
    let up := m.ready.getLsbD 0 = true ∧ m.halted = false
    (∀ n, s.narrow di dj = some n →
      (n.up = true → Completes (.narrowTrainingLoss di dj) s fun t =>
        (t.narrow di dj).map (fun x => (x.up, x.since)) = some (false, s.cycle) ∧ t.module.ready = m.ready) ∧
      (n.up = false → s.cycle ≤ n.since + 170000 → Completes (.narrowRetrainComplete di dj) s fun t =>
        (t.narrow di dj).map (·.up) = some true ∧ t.module.ready = m.ready) ∧
      (n.up = false → Completes (.narrowRetrainFailure di dj) s fun t =>
        t.module.ready.getLsbD (1 + di.toNat) = false ∧ t.module.ready.getLsbD (1 + dj.toNat) = false ∧
        t.module.events.getLast? = some (3, 4 * min di.toNat dj.toNat + max di.toNat dj.toNat))) ∧
    (up → lanes = 16 ∨ lanes = 8 → Completes (.hostLinkTraining lanes true) s fun t =>
      t.module.hostLanes = lanes ∧ t.module.hostFlit = true ∧ t.module.ready.getLsbD 17 = true ∧ s.SameMemory t) ∧
    (Completes (.thermalSensorRead die tenths) s fun t =>
      (die.toNat < m.temp.length → t.module.temp[die.toNat]? = some tenths) ∧
      (∀ j, j ≠ die.toNat → t.module.temp[j]? = m.temp[j]?) ∧ (1150 ≤ tenths → t.module.hotSince.isSome = true) ∧
      (tenths < 1150 → t.module.hotSince = m.hotSince)) ∧
    (m.thermalAt + 170000 ≤ s.cycle → Completes .thermalStep s fun t =>
      ∀ (j c x : Nat), m.thermalCeil[j]? = some c → m.temp[j]? = some x → t.module.thermalCeil[j]? =
        some (if 1050 < x then max 1 (c - 1) else if x < 1000 then min 8 (c + 1) else c)) ∧
    (m.hotSince.isSome = true → m.halted = false → Completes .thermalShutdown s fun t => t.module.halted = true ∧
      t.module.log = m.log ++ [s.cycle] ∧ ∀ j < 50, t.module.ready.getLsbD j = false) ∧
    (m.powerAt + 170000 ≤ s.cycle → Completes (.powerMeasurement watts) s fun t => t.module.measured = watts ∧
      (∀ cap, m.powerCap = some cap → t.module.powerCeil = if cap < watts then max 1 (m.powerCeil - 1)
        else if watts < cap then min 8 (m.powerCeil + 1) else m.powerCeil) ∧
      (m.powerCap = none → t.module.powerCeil = 8))

/-- R52, R53: a claim wins when nobody owns management; the owner's heartbeat within a second renews it, and a gap of
more than a second vacates it and is told to both masters; the owner offers management to the other master, who accepts
within a second, after which the offer lapses. An MCTP message carries the four commands of an owner and no other. What
it says of the following is the model's own choice: notices to the masters (log 82). -/
def Obligations.ManagementHasOneOwner : Prop :=
  ∀ (s : State) (who : Nat) (beat claim offer accept : Instr) (entry : BitVec 512),
    (who, beat, claim, offer, accept) ∈
      ([(1, .heartbeat, .ownerClaim, .ownerHandover, .ownerAccept), (2, .mctpHeartbeat, .mctpClaim, .mctpHandover, .mctpAccept)]
        : List (Nat × Instr × Instr × Instr × Instr)) →
    let m := s.module
    let second := 1700000000
    (m.holder = who → s.cycle ≤ m.heartbeatAt + second → Completes beat s fun t => t.module.holder = who ∧
      t.module.heartbeatAt = s.cycle) ∧
    (m.holder ≠ who ∨ m.heartbeatAt + second < s.cycle → Completes beat s fun t => t = s) ∧
    (m.holder = 0 → Completes claim s fun t => t.module.holder = who ∧ t.module.heartbeatAt = s.cycle ∧
      t.module.pending = false) ∧
    (m.holder ≠ 0 → Completes claim s fun t => t = s) ∧
    (m.holder = who → Completes offer s fun t => t.module.holder = who ∧ t.module.pending = true ∧
      t.module.offered = 3 - who ∧ t.module.offerAt = s.cycle) ∧
    (m.holder ≠ who → Completes offer s fun t => t = s) ∧
    (m.pending = true → m.offered = who → s.cycle ≤ m.offerAt + second → Completes accept s fun t =>
      t.module.holder = who ∧ t.module.pending = false ∧ t.module.heartbeatAt = s.cycle) ∧
    (m.pending = false ∨ m.offered ≠ who ∨ m.offerAt + second < s.cycle → Completes accept s fun t => t = s) ∧
    (m.holder ≠ 0 → m.heartbeatAt + second < s.cycle → Completes .heartbeatGapExpiry s fun t => t.module.holder = 0 ∧
      t.module.pending = false ∧ t.module.events = m.events ++ [(2, 1), (2, 2)]) ∧
    (m.pending = true → m.offerAt + second < s.cycle → Completes .handoverTimeout s fun t => t.module.pending = false ∧
      t.module.holder = m.holder) ∧
    (m.ready.getLsbD 0 = true → m.halted = false → m.resetDue = none →
      let code := entry.toNat % 65536
      (code = 0x0E ∨ code = 0x10 ∨ code = 0x11 ∨ code = 0x12 → Completes (.mctpCommand entry) s fun t =>
        (∃ n, t.module.oob = m.oob ++ [(n, entry)] ∧ (m.control.enabled = false → n = 0)) ∧ t.module.replies = m.replies) ∧
      (code ≠ 0x0E → code ≠ 0x10 → code ≠ 0x11 → code ≠ 0x12 → Completes (.mctpCommand entry) s fun t =>
        t.module.oob = m.oob ∧
        t.module.replies = m.replies ++ [completion (entry.toNat / 2 ^ 32 % 2 ^ 32) 12 7 0 0]))

/-- R6, R36, R38, R52, Tables 2.4 and 2.9: a channel's registers and OWNER read as they stand, reserved and write-only
bits zero; writing QTAIL and CHEAD stores the index within its ring; ENABLE starts the channel at the head of both rings
with phase 1 and does nothing while it is set; the bases and sizes are written while it is 0. -/
def Obligations.ChannelRegistersAreWritten : Prop :=
  ∀ (s : State) (fn : Nat) (off : BitVec 16) (value : Word) (c : Channel),
    let chan (t : State) : Option Channel := if fn = 0 then some t.module.control else (t.vdAt fn).map (·.channel)
    let n := value.toNat
    let writes (i : Instr) (c' : Channel) : Prop := Completes i s fun t => chan t = some c' ∧ s.SameMemory t
    chan s = some c → (fn ≠ 0 → s.ghostOf fn = none) →
    (s.hostRead fn 0x1000 = c.qbase ∧ s.hostRead fn 0x1008 = c.qsize ∧ s.hostRead fn 0x1010 = c.qtail ∧
      s.hostRead fn 0x1018 = c.qhead ∧ s.hostRead fn 0x1020 = c.cbase ∧ s.hostRead fn 0x1028 = c.csize ∧
      s.hostRead fn 0x1030 = c.chead ∧
      s.hostRead fn 0x1038 = (if c.enabled = true then 1 else 0) + (if c.idle = true then 2 else 0) ∧
      (s.hostRead 0 0x1040) / 4 % 8 = 0 ∧ (s.hostRead 0 0x1040) % 4 = s.module.holder % 4 ∧
      (s.hostRead 0 0x1040).testBit 5 = s.module.pending ∧ s.hostRead 0 0x1040 < 64) ∧
    writes (.qtailDoorbell fn value) { c with qtail := n % 65536 % 2 ^ c.qsize } ∧
    writes (.cheadWrite fn value) { c with chead := n % 65536 % 2 ^ c.csize } ∧
    (c.enabled = true → writes (.channelEnable fn) c ∧ writes (.channelRegisterWrite fn off value) c) ∧
    (c.enabled = false → writes (.channelEnable fn)
        { c with enabled := true, qhead := 0, qtail := 0, chead := 0, ci := 0, phase := true } ∧
      (off = 0x1000#16 → writes (.channelRegisterWrite fn off value) { c with qbase := n / 4096 * 4096 }) ∧
      (off = 0x1008#16 → writes (.channelRegisterWrite fn off value) { c with qsize := n % 16 }) ∧
      (off = 0x1020#16 → writes (.channelRegisterWrite fn off value) { c with cbase := n / 4096 * 4096 }) ∧
      (off = 0x1028#16 → writes (.channelRegisterWrite fn off value) { c with csize := n % 16 })) ∧
    writes (.channelDisable fn) { c with enabled := false }

/-! ### The control channel's commands (R41 to R62, R127; Table 2.7) -/

/-- R26, R41, R43 to R50, R127, Table 2.7: a command that names no virtual device is BADH (10). VD.CREATE makes one on
its atoll, CREATED, with a zeroed save area; VD.DESTROY ends it; VD.RESET zeroes its frames and leaves it locked,
without threads; VD.PAUSE stops its turn, VD.RESUME starts it again; VD.EVICT stops it, destroys its memory key and
releases its atoll and frames, VD.RESTORE puts an image that opens on an atoll. Each refusal leaves its status and
reason, in the order of the table. What it says of the following is the model's own choice: eviction images (log 9);
frames and stacks (log 50); handles after RESTORE (log 54); VD.RESTORE (log 67); records of VD.PAUSE and VD.EVICT (log
68); an image of another module (log 110). -/
def Obligations.VirtualDevicesAreMadeStoppedAndMoved : Prop :=
  ∀ (s : State) (v : VD) (node : Nat), s.Inv → s.controlReady = true →
    let c := s.cmd
    let answers (i : Instr) (status reason : Nat) (r0 : Word) (p : State → Prop) : Prop :=
      Completes i s fun t => s.Recorded t status reason r0 0 ∧ p t
    let denies (i : Instr) (reason : Nat) : Prop := answers i 12 reason 0 fun t => t.vds = s.vds ∧ t.mem = s.mem
    let after (t : State) (p : VD → Prop) : Prop := ∃ v', t.vdAt v.vf = some v' ∧ p v'
    (s.vdOf c.p0 = none → ∀ i ∈ ([.vdDestroy, .vdPause, .vdResume, .vdEvict, .vdRestore, .vdReset] : List Instr),
      answers i 10 7 0 fun t => t.vds = s.vds) ∧
    (s.atollOf c.p0 = none → answers .vdCreate 10 7 0 fun t => t.vds = s.vds) ∧
    (s.atollOf c.p0 = some node →
      let vf := c.p1.toNat
      (vf = 0 ∨ 256 < vf → denies .vdCreate 7) ∧
      (vf ≠ 0 → vf ≤ 256 → (s.vdAt vf).isSome = true ∨ 8 ≤ (s.onAtoll node).length → denies .vdCreate 4) ∧
      (vf ≠ 0 → vf ≤ 256 → s.vdAt vf = none → (s.onAtoll node).length < 8 →
        s.pickFrames s.stacksReady (saveCount node) = none → denies .vdCreate 4) ∧
      (∀ fs, vf ≠ 0 → vf ≤ 256 → s.vdAt vf = none → (s.onAtoll node).length < 8 →
        s.pickFrames s.stacksReady (saveCount node) = some fs →
        (s.dieDown node = true → denies .vdCreate 3) ∧
        (s.dieDown node = false → answers .vdCreate 0 0 (s.handle s.serials) fun t => t.serials = s.serials + 1 ∧
          (∀ a, frameOf a ∈ fs → readCell t.mem a = 0) ∧
          ∃ v', t.vdAt vf = some v' ∧ v'.vf = vf ∧ v'.node = node ∧ v'.state = .created ∧ v'.serial = s.serials ∧
            v'.saveFrames = fs ∧ v'.grants = [] ∧ v'.cores = [] ∧ v'.sliceUs = 1000 ∧ v'.weight = 16))) ∧
    (s.vdOf c.p0 = some v →
      (answers .vdDestroy 0 0 0 fun t => t.vdAt v.vf = none ∧ (∀ f ∈ t.flights, f.tid.vf ≠ v.vf) ∧
        ∀ i, ∀ j ∈ (t.isleAt i).jobs, j.vf ≠ v.vf) ∧
      (v.state = .created ∨ v.state = .evicted → denies .vdReset 1) ∧
      (v.state ≠ .created → v.state ≠ .evicted →
        (s.dieDown v.node = true → denies .vdReset 3) ∧
        (s.dieDown v.node = false → answers .vdReset 0 0 0 fun t =>
          (∀ a, frameOf a ∈ v.grants.flatMap (·.frames) ++ v.saveFrames → readCell t.mem a = 0) ∧
          after t fun v' => v'.state = .locked ∧ v'.tdisp = 1 ∧ v'.cores = [] ∧ v'.graphs = [] ∧ v'.entries = [] ∧
            v'.faults = [] ∧ v'.grants = v.grants ∧ v'.policy = v.policy ∧ v'.turnStart = none)) ∧
      (s.module.serving ≠ 2 →
        (v.state ≠ .running → denies .vdPause 1) ∧ (v.state = .running → v.pauseOk = false → denies .vdPause 2) ∧
        (v.state = .running → v.pauseOk = true → Completes .vdPause s fun t => after t fun v' => v'.state = .paused ∧
          v'.paused = some s.cycle ∧ v'.turnStart = none ∧ (v'.saving = [] → s.Recorded t 0 0 0 0) ∧
          (v'.saving ≠ [] → t.module.serving = 2)) ∧
        (c.p1.toNat % 4096 ≠ 0 → denies .vdEvict 7) ∧
        (c.p1.toNat % 4096 = 0 →
          (v.state ≠ .running → v.state ≠ .paused → denies .vdEvict 1) ∧
          (v.state = .running ∨ v.state = .paused →
            (v.evictOk = false → denies .vdEvict 2) ∧
            (v.evictOk = true → c.p2.toNat < v.imageLen → denies .vdEvict 4) ∧
            (v.evictOk = true → v.imageLen ≤ c.p2.toNat → Completes .vdEvict s fun t => after t fun v' =>
              v'.turnStart = none ∧ (v'.state = .paused ∧ t.module.serving = 2 ∨ v'.state = .evicted ∧
                s.Recorded t 0 0 (BitVec.ofNat 64 v.imageLen) 0))))) ∧
      (s.module.serving = 2 → v.saving = [] → v.state = .paused →
        (answers .vdPause 0 0 0 fun t => t.vds = s.vds) ∧
        (s.vdQuiet v.vf = true → answers .vdEvict 0 0 (BitVec.ofNat 64 v.imageLen) fun t => after t fun v' =>
          v'.state = .evicted ∧ v'.grants = [] ∧ v'.saveFrames = [] ∧ v'.node = 0 ∧ v'.joins = [] ∧
            v'.evictions = v.evictions + 1 ∧ v'.image.isSome = true ∧ v'.cores = v.cores ∧ v'.memKey = none ∧
            v'.channel.idle = true)) ∧
      (v.state ≠ .paused → denies .vdResume 1) ∧
      (v.state = .paused → answers .vdResume 0 0 0 fun t => after t fun v' => v'.state = .running ∧ v'.paused = none ∧
        v'.reclaimed = [] ∧ v'.channel.notices.length = v.channel.notices.length + v.reclaimed.length)) ∧
    (s.vdOf c.p0 = some v → s.atollOf c.p1 = some node →
      let opened := s.opened v (readBytes s.host c.p2.toNat c.p3.toNat)
      let s' := (Eff.vd v.vf fun v => { v with grants := [], saveFrames := [], node := 0 }).apply s
      (v.state ≠ .evicted → v.state ≠ .created → denies .vdRestore 1) ∧
      (v.state = .evicted ∨ v.state = .created →
        (∀ r, opened = .error r → denies .vdRestore r) ∧
        (∀ w g, opened = .ok (w, g) →
          (atollLevel node < w.pol 0x50 1 ∨ w.pol 0x51 1 < atollLevel node → denies .vdRestore 2) ∧
          (w.pol 0x50 1 ≤ atollLevel node → atollLevel node ≤ w.pol 0x51 1 →
            (8 ≤ (s'.onAtoll node).length ∨ s.dieDown node = true → denies .vdRestore 4) ∧
            ((s'.onAtoll node).length < 8 → s.dieDown node = false →
              (s'.pickFrames s.stacksReady (saveCount node + (g.serials.map (·.2.2)).sum) = none → denies .vdRestore 4) ∧
              (∀ fs, s'.pickFrames s.stacksReady (saveCount node + (g.serials.map (·.2.2)).sum) = some fs →
                answers .vdRestore 0 0 0 fun t => after t fun v' => v'.state = .running ∧ v'.node = node ∧
                  v'.evictions = v.evictions + 1 ∧ v'.image = none ∧ v'.approval = none ∧
                  v'.saveFrames = fs.take (saveCount node) ∧
                  v'.grants.map (fun x => (x.serial, x.first, x.frames.length)) = g.serials))))))

/-- R41, R48, R56 to R61, R65, R87, Table 2.7: FRAME.GRANT adds zeroed frames of the stacks named, FRAME.RECLAIM takes a
grant back, SLICE.SET stores slice and weight, ATOLL.SPLIT and ATOLL.MERGE replace nodes by their halves and back,
WAYS.SET stores VDLIM, at once or, when ways leave a virtual device that runs or is paused, after the slices have
flushed them and remasked. What it says of the following is the model's own choice: frames and stacks (log 50). -/
def Obligations.FramesAtollsSlicesAndWaysAreSet : Prop :=
  ∀ (s : State) (v : VD) (g : Grant) (a b vf : Nat), s.Inv → s.controlReady = true →
    let c := s.cmd
    let answers (i : Instr) (status reason : Nat) (r0 r1 : Word) (p : State → Prop) : Prop :=
      Completes i s fun t => s.Recorded t status reason r0 r1 ∧ p t
    let denies (i : Instr) (reason : Nat) : Prop := answers i 12 reason 0 0 fun t => t.vds = s.vds ∧
      t.module.atolls = s.module.atolls
    let after (t : State) (p : VD → Prop) : Prop := ∃ v', t.vdAt v.vf = some v' ∧ p v'
    (s.vdOf c.p0 = none → answers .frameGrant 10 7 0 0 (fun t => t.vds = s.vds) ∧
      answers .sliceSet 10 7 0 0 (fun t => t.vds = s.vds) ∧
      (s.module.serving ≠ 2 → answers .waysSet 10 7 0 0 fun t => t.vds = s.vds)) ∧
    (s.vdOf c.p0 = some v →
      let first := c.p1.toNat
      let n := c.p2.toNat
      let places := (List.range 12).filter (bit c.p3.toNat)
      let x := first + n * 2 ^ 16
      let stored := BitVec.ofNat 64 x
      (n = 0 ∨ 4096 < n ∨ 4096 ≤ c.p3.toNat → denies .frameGrant 7) ∧
      (1 ≤ n → n ≤ 4096 → c.p3.toNat < 4096 →
        (v.state = .evicted ∨ v.state = .failed → denies .frameGrant 1) ∧
        (v.state ≠ .evicted → v.state ≠ .failed →
          ((∃ k ∈ places, s.module.ready.getLsbD (5 + k) = false) → denies .frameGrant 3) ∧
          ((∀ k ∈ places, s.module.ready.getLsbD (5 + k) = true) →
            (s.pickFrames places n = none → denies .frameGrant 4) ∧
            (∀ fs, s.pickFrames places n = some fs →
              ((∃ h ∈ v.grants, first < h.first + h.frames.length ∧ h.first < first + n) → denies .frameGrant 7) ∧
              ((∀ h ∈ v.grants, h.first + h.frames.length ≤ first ∨ first + n ≤ h.first) →
                answers .frameGrant 0 0 (s.handle s.serials) 0 fun t => t.serials = s.serials + 1 ∧ fs.length = n ∧
                  (∀ f ∈ fs, f / 2 ^ 15 ∈ places ∧ f ∉ s.usedFrames) ∧ (∀ p, frameOf p ∈ fs → readCell t.mem p = 0) ∧
                  after t fun v' => v'.grants = v.grants ++ [⟨s.serials, first, fs⟩]))))) ∧
      (first < 50 ∨ 10000 < first ∨ n < 1 ∨ 255 < n → denies .sliceSet 7) ∧
      (50 ≤ first → first ≤ 10000 → 1 ≤ n → n ≤ 255 → (v.state = .evicted → denies .sliceSet 1) ∧
        (v.state ≠ .evicted → answers .sliceSet 0 0 0 0 fun t => after t fun v' =>
          v'.sliceUs = first ∧ v'.weight = n ∧ v'.state = v.state ∧ v'.cores = v.cores)) ∧
      (s.module.serving ≠ 2 → (vdlimBad c.p1 c.p2 = true → denies .waysSet 7) ∧
        (vdlimBad c.p1 c.p2 = false →
          let leaves := bits v.vdlim.toNat 15 0 &&& (65535 - bits x 15 0) ≠ 0
          (v.state = .running ∨ v.state = .paused → leaves → Completes .waysSet s fun t => t.module.serving = 2 ∧
            after t fun v' => v'.remask = some stored ∧ v'.vdlim = v.vdlim) ∧
          (v.state ≠ .running ∧ v.state ≠ .paused ∨ ¬leaves → answers .waysSet 0 0 0 0 fun t => after t fun v' =>
            v'.vdlim = stored ∧ v'.remask = none)))) ∧
    (∀ x, s.vdAt vf = some v → v.remask = some x → s.module.serving = 2 → answers (.waysSetComplete vf) 0 0 0 0 fun t =>
      after t fun v' => v'.vdlim = x ∧ v'.remask = none ∧ v'.visitors = v.visitors.filter fun l => bit x.toNat l.way) ∧
    (s.grantOf c.p0 = none → answers .frameReclaim 10 7 0 0 fun t => t.vds = s.vds) ∧
    (s.grantOf c.p0 = some (v, g) → (v.state = .running → denies .frameReclaim 1) ∧
      (v.state ≠ .running → answers .frameReclaim 0 0 0 0 fun t => after t fun v' =>
        v'.grants = v.grants.filter (·.serial != g.serial) ∧
        v'.reclaimed = v.reclaimed ++ [(g.first, g.frames.length)])) ∧
    (s.atollOf c.p0 = none → answers .atollSplit 10 7 0 0 (fun t => t.module.atolls = s.module.atolls) ∧
      answers .atollMerge 10 7 0 0 fun t => t.module.atolls = s.module.atolls) ∧
    (s.atollOf c.p0 = some a →
      (256 ≤ a → denies .atollSplit 7) ∧
      (a < 256 → (s.onAtoll a ≠ [] → denies .atollSplit 1) ∧
        (s.onAtoll a = [] → (s.dieDown a = true → denies .atollSplit 3) ∧
          (s.dieDown a = false → answers .atollSplit 0 0 (s.handle s.serials) (s.handle (s.serials + 1)) fun t =>
            t.serials = s.serials + 2 ∧ lookup t.module.atolls (2 * a) = some s.serials ∧
            lookup t.module.atolls (2 * a + 1) = some (s.serials + 1) ∧
            (a ≠ 0 → Keyed s.module.atolls → lookup t.module.atolls a = none)))) ∧
      (s.atollOf c.p1 = some b →
        (a / 2 ≠ b / 2 ∨ a = b ∨ a = 1 → denies .atollMerge 7) ∧
        (a / 2 = b / 2 → a ≠ b → a ≠ 1 → (s.onAtoll a ≠ [] ∨ s.onAtoll b ≠ [] → denies .atollMerge 1) ∧
          (s.onAtoll a = [] → s.onAtoll b = [] → answers .atollMerge 0 0 (s.handle s.serials) 0 fun t =>
            t.serials = s.serials + 1 ∧ lookup t.module.atolls (a / 2) = some s.serials))))

/-- R16, R23, R39, R41, R53, R54, Table 2.7: a master that does not own management is denied OWNER (8); POWER.CAP,
DOMAIN.SET, ROUTE.SET and MODULE.RESET store what they say within its range; QUERY answers its five items; VD.JOIN ends
a join, or asks the other module and joins when every condition holds; an unknown command or flag is denied RANGE (7).
What it says of the following is the model's own choice: what another module answers or holds (log 10); frames and
stacks (log 50); VD.JOIN to the own number, and hops without a route (log 74); commands that follow MODULE.RESET (log
81); the telemetry of QUERY item 3 (log 83); the order of reasons in HOST.WINDOW and VD.JOIN (log 120). -/
def Obligations.ModuleCommandsAreAnswered : Prop :=
  ∀ (s : State) (v : VD), s.Inv → s.controlReady = true →
    let c := s.cmd
    let m := s.module
    let x := c.p0.toNat
    let answers (i : Instr) (status reason : Nat) (r0 r1 : Word) (p : State → Prop) : Prop :=
      Completes i s fun t => s.Recorded t status reason r0 r1 ∧ p t
    let tells (i : Instr) (status reason : Nat) (r0 r1 : Word) : Prop :=
      answers i status reason r0 r1 fun t => t.vds = s.vds ∧ t.mem = s.mem ∧ t.module.powerCap = m.powerCap ∧
        t.module.dev = m.dev ∧ t.module.route = m.route ∧ t.module.resetDue = m.resetDue
    let owner := m.holder = if c.oob = true then 2 else 1
    (¬owner → ∀ i ∈ ([.powerCap, .domainSet, .routeSet, .moduleReset] : List Instr), tells i 12 8 0 0) ∧
    (owner → (x < 800 ∨ 2000 < x → tells .powerCap 12 7 0 0) ∧
      (800 ≤ x → x ≤ 2000 → answers .powerCap 0 0 0 0 fun t => t.module.powerCap = some x) ∧
      (31 < x → tells .domainSet 12 7 0 0) ∧ (x ≤ 31 → bits m.ready.toNat 33 18 ≠ 0 → tells .domainSet 12 1 0 0) ∧
      (x ≤ 31 → bits m.ready.toNat 33 18 = 0 → answers .domainSet 0 0 0 0 fun t => t.module.dev = some x) ∧
      (x % 64 ≠ 0 ∨ s.routeTable x = none → tells .routeSet 12 7 0 0) ∧
      (∀ l, x % 64 = 0 → s.routeTable x = some l → answers .routeSet 0 0 0 0 fun t => t.module.route = l ∧
        ∀ n < 32, lookup l n = some (leNat (readBytes s.host (x + 2 * n) 2))) ∧
      (answers .moduleReset 0 0 0 0 fun t => t.module.resetDue = some (s.cycle + 1700000))) ∧
    tells .controlEntryRefused 12 7 0 0 ∧
    (x = 0 → tells .query 0 0 m.ready 0) ∧
    (∀ serial, x = 1 → lookup m.atolls 1 = some serial → tells .query 0 0 (s.handle serial) 0) ∧
    (x = 1 → lookup m.atolls 1 = none → tells .query 0 0 0 0) ∧
    (x = 2 → 12 ≤ c.p1.toNat → tells .query 12 7 0 0) ∧
    (x = 2 → c.p1.toNat < 12 → tells .query 0 0 (BitVec.ofNat 64 (s.freeOn c.p1.toNat).length) 0) ∧
    (x = 3 ∨ x = 4 → s.vdOf c.p1 = none → tells .query 10 7 0 0) ∧
    (s.vdOf c.p1 = some v → (x = 3 → tells .query 0 0 (BitVec.ofNat 64 v.state.code) (BitVec.ofNat 64 (s.telemetry v))) ∧
      (x = 4 → tells .query 0 0 (BitVec.ofNat 64 v.imageLen) 0)) ∧
    (4 < x → tells .query 12 7 0 0) ∧
    (s.vdOf c.p0 = none → tells .vdJoin 10 7 0 0) ∧
    (s.vdOf c.p0 = some v → m.serving = 1 →
      let dev := c.p1.toNat
      let w := c.p2.toNat
      let after (t : State) (p : VD → Prop) : Prop := ∃ v', t.vdAt v.vf = some v' ∧ p v'
      (31 < dev ∨ 256 < w → tells .vdJoin 12 7 0 0) ∧
      (dev ≤ 31 → w = 0 → s.usesJoin v.vf dev = false →
        answers .vdJoin 0 0 0 0 fun t => after t fun v' => v'.joins = v.joins.filter (·.1 != dev)) ∧
      (dev ≤ 31 → w = 0 → s.usesJoin v.vf dev = true → Completes .vdJoin s fun t =>
        t.module.serving = 2 ∧ t.flights = s.flights ∧ after t fun v' => v'.joins = v.joins.filter (·.1 != dev)) ∧
      (dev ≤ 31 → w ≠ 0 → w ≤ 256 →
        (v.state.joinable = false → tells .vdJoin 12 1 0 0) ∧
        (v.state.joinable = true → (v.joinOk = false → tells .vdJoin 12 2 0 0) ∧
          (v.joinOk = true → (s.routeReady dev = false → tells .vdJoin 12 3 0 0) ∧
            (s.routeReady dev = true → s.usesJoin v.vf dev = false → Completes .vdJoin s fun t =>
              s.Recorded t 0 0 0 0 ∧ after t (fun v' => v'.joins = v.joins.filter (·.1 != dev) ++ [(dev, w)]) ∨
              ∃ reason ∈ [1, 2, 5], s.Recorded t 12 reason 0 0 ∧ after t fun v' => v'.joins = v.joins))))) ∧
    (s.vdOf c.p0 = some v → m.serving = 2 → s.usesJoin v.vf c.p1.toNat = false → c.p2 = 0 ∨ v.state.joinable = true →
      answers .vdJoin 0 0 0 0 fun t => ∃ v', t.vdAt v.vf = some v' ∧
        v'.joins = if c.p2 = 0 then v.joins else v.joins.filter (·.1 != c.p1.toNat) ++ [(c.p1.toNat, c.p2.toNat)])

/-! ### Tenants' channels, SPDM, TDISP and other modules (R32 to R46, R53, R54; Tables 2.2, 2.3, 2.8) -/

/-- R37, R40, R42, R50, R74, Table 2.8: a tenant command is denied STATE (1) unless its virtual device runs, and RANGE
(7) with an unknown flag; PROG.LOAD, MEM.WRITE and MEM.READ check their ranges and host windows and begin their
transfer; HOST.WINDOW opens or closes a slot within the policy; ATTEST writes its report, signed by the alias key;
GRAPH.SUBMIT submits. An entry whose tag fails, whose SEQ is wrong, or that names no command is refused with 5, 6 or 7,
and only the last takes its SEQ. What it says of the following is the model's own choice: cryptography, identities and
layouts of signed data (log 6); ATTEST's buffer (log 61); HOST.WINDOW and MEM.* at their edges (log 70); the order of
the Holm's service (log 76); P4 of HOST.WINDOW (log 101); the order of reasons in HOST.WINDOW and VD.JOIN (log 120);
entries and records of a device without a session (log 126). -/
def Obligations.TenantCommandsAreAnswered : Prop :=
  ∀ (s : State) (v : VD), s.Inv → s.vdAt s.tcmd.vf = some v → s.holmServes = true →
    v.channel.idle = false → v.state ≠ .paused → v.channel.sizeOk = true → 0 < v.channel.room →
    let c := s.tcmd
    let a := c.p0.toNat
    let n := c.p2.toNat
    let after (t : State) (p : VD → Prop) : Prop := ∃ v', t.vdAt v.vf = some v' ∧ p v'
    let answers (i : Instr) (status reason : Nat) (r0 : Word) (p : State → Prop) : Prop :=
      Completes i s fun t => t.Answers v c status reason r0 0 ∧ p t
    let denies (i : Instr) (reason : Nat) : Prop := answers i 12 reason 0 fun t => t.mem = s.mem ∧
      after t fun v' => v'.windows = v.windows ∧ v'.graphs = v.graphs ∧ v'.cores = v.cores
    let begins (i : Instr) : Prop := Completes i s fun t => t.mem = s.mem ∧ t.host = s.host ∧ after t fun v' =>
      v'.channel.idle = false ∧ ∃ tr, v'.transfer = some tr ∧ tr.cmd = c ∧ tr.pos = 0
    let others : List Instr := [.progLoad, .memWrite, .memRead, .hostWindow, .attest]
    (v.state ≠ .running → (∀ i ∈ others, denies i 1) ∧ (v.transfer = none → denies .graphSubmit 1)) ∧
    (v.state = .running → 2 ≤ c.flags.toNat → (∀ i ∈ others, denies i 7) ∧ (v.transfer = none → denies .graphSubmit 7)) ∧
    (v.state = .running → c.flags.toNat < 2 →
      let wrong := a % 65536 ≠ 0 ∨ n = 0 ∨ 2 ^ 26 < n ∨ inFixedWindow a = true ∨ inFixedWindow (a + n - 1) = true
      (wrong → denies .progLoad 7) ∧
      (¬wrong → (v.windowAllows c.p1.toNat n 1 = false → denies .progLoad 2) ∧
        (v.windowAllows c.p1.toNat n 1 = true → begins .progLoad)) ∧
      (∀ row ∈ ([(.memWrite, 1), (.memRead, 2)] : List (Instr × Nat)), (n % 64 ≠ 0 ∨ 2 ^ 30 < n → denies row.1 7) ∧
        (n % 64 = 0 → n ≤ 2 ^ 30 → (v.windowAllows c.p1.toNat n row.2 = false → denies row.1 2) ∧
          (v.windowAllows c.p1.toNat n row.2 = true → begins row.1))) ∧
      (let host := c.p1.toNat
        let perm := c.p3.toNat
        let va := c.p4.toNat
        let others := v.windows.filter (·.slot != a)
        let bad := 16 ≤ a ∨ 4 ≤ perm ∨ (perm = 0 ∧ n ≠ 0) ∨ host % 65536 ≠ 0 ∨ n % 65536 ≠ 0 ∨ va % 65536 ≠ 0
        let meets := ∃ w ∈ others, va < w.va + w.size ∧ w.va < va + n
        (bad → denies .hostWindow 7) ∧
        (¬bad → n = 0 → answers .hostWindow 0 0 0 fun t => after t fun v' => v'.windows = others) ∧
        (¬bad → n ≠ 0 → meets → denies .hostWindow 7) ∧
        (¬bad → n ≠ 0 → ¬meets → (v.windowAllows host n perm = false → denies .hostWindow 2) ∧
          (v.windowAllows host n perm = true → answers .hostWindow 0 0 0 fun t => after t fun v' =>
            v'.windows = others ++ [⟨a, va, host, n, perm⟩]))) ∧
      (answers .attest 0 0 0 fun t =>
        let report := s.attested (Config.attestReport (s.blocks (some v))
          (leBytes 8 a ++ leBytes 8 c.p1.toNat ++ leBytes 8 n ++ leBytes 8 c.p3.toNat))
        let record := v.channel.cbase + 64 * v.channel.ci
        ∀ (j : Nat) (b : Byte), report[j]? = some b → c.p4.toNat + j < record ∨ record + 64 ≤ c.p4.toNat + j →
          readCell t.host (c.p4.toNat + j) = b) ∧
      (v.transfer = none →
        (∀ st r es, s.submit v 4096 a 12 = (.deny st r, es) → answers .graphSubmit st r 0 fun t =>
          after t fun v' => v'.graphs = v.graphs) ∧
        (∀ g es, s.submit v 4096 a 12 = (.accept g, es) → answers .graphSubmit 0 0 (BitVec.ofNat 64 g.id) fun t =>
          after t fun v' => v'.lastGraph = g.id ∧ ∃ h ∈ v'.graphs, h.id = g.id ∧ h.nodes.length = g.nodes.length))) ∧
    (∀ entry : BitVec 1024,
      let b := leBytes 128 entry.toNat
      let refused (p : State → Prop) : Prop := Completes (.tenantEntryRefused v.vf entry) s p
      (v.opened b = none → refused fun t => ∃ c', c'.seq = BitVec.ofNat 64 (entrySeq b) ∧ t.Answers v c' 12 5 0 0 ∧
        after t fun v' => v'.seqNo = v.seqNo) ∧
      (∀ x, v.opened b = some x → entrySeq b ≠ v.seqNo → refused fun t =>
        t.Answers v (tenantCmd v.vf (entrySeq b) x) 12 6 0 0 ∧ after t fun v' => v'.seqNo = v.seqNo) ∧
      (∀ x, v.opened b = some x → entrySeq b = v.seqNo → refused fun t =>
        t.Answers v (tenantCmd v.vf (entrySeq b) x) 12 (if v.state = .running then 7 else 1) 0 0 ∧
          after t fun v' => v'.seqNo = v.seqNo + 1))

/-- R37, R40, R42, R44, R49, R50: each piece of a transfer moves at most 64 KiB between host and device memory, after
the state and the windows have been looked at again; the last completes its command, PROG.LOAD's with the index of the
digest that it finds in PROGS, or, with none, the range zeroed; memory that cannot be reached is FAULTED (14), a missing
frame is waited for. A notice is written once the ring has room, and a pause that has lasted PAUSEMAX ends. What it says
of the following is the model's own choice: records (log 60); a strait in a command (log 62); full bits of words that
the Holm and the scheduler write (log 69); a refused PROG.LOAD's zeroing (log 109); entries and records of a device
without a session (log 126). -/
def Obligations.TransfersNoticesAndPausesGoOn : Prop :=
  ∀ (s : State) (v : VD) (vf : Nat), s.Inv → s.vdAt vf = some v → s.holmServes = true →
    let after (t : State) (p : VD → Prop) : Prop := ∃ v', t.vdAt v.vf = some v' ∧ p v'
    (∀ tr, v.transfer = some tr → tr.cmd.code ≠ 0x43#16 → tr.frame = none → v.state ≠ .paused → v.state ≠ .evicted →
      0 < v.channel.room →
      let c := tr.cmd
      let n := min 65536 (c.p2.toNat - tr.pos)
      let dev := c.p0.toNat + tr.pos
      let host := c.p1.toNat + tr.pos
      let allowed := v.windowAllows c.p1.toNat c.p2.toNat (if c.code = 0x42#16 then 2 else 1) = true
      let moves (p : State → Prop) : Prop := Completes (.hostTransferPiece vf) s p
      let goesOn (t : State) : Prop := after t fun v' => ∃ tr', v'.transfer = some tr' ∧ tr'.cmd = c ∧ tr'.pos = tr.pos + n
      let stops (w : Where) : Prop := (∀ k, w = .fault k → moves fun t => t.Answers v c 14 7 0 0) ∧
        (∀ k, w = .frame k → moves fun t => after t fun v' => ∃ tr', v'.transfer = some tr' ∧ tr'.frame = some k ∧
          tr'.pos = tr.pos)
      let image := tr.data ++ readBytes s.host host n
      (tr.failed = true → moves fun t => t.Answers v c 14 7 0 0 ∧ t.mem = s.mem) ∧
      (tr.failed = false →
      (v.state ≠ .running → moves fun t => t.Answers v c 12 1 0 0 ∧ t.mem = s.mem) ∧
      (v.state = .running → ¬allowed → moves fun t => t.Answers v c 12 2 0 0 ∧ t.mem = s.mem) ∧
      (v.state = .running → allowed → n ≠ 0 →
        (c.code = 0x42#16 →
          (∀ b es, s.readVirt v.vf 4096 dev n true = .ok (b, es) →
            (tr.pos + n < c.p2.toNat → moves fun t => goesOn t ∧ readBytes t.host host b.length = b) ∧
            (c.p2.toNat ≤ tr.pos + n → moves fun t => t.Answers v c 0 0 0 0)) ∧
          (∀ w x, s.readVirt v.vf 4096 dev n true = .error (w, x) → stops w)) ∧
        (c.code ≠ 0x42#16 →
          (∀ es, s.writeVirt ⟨v.vf, 4096, 0⟩ dev (readBytes s.host host n) true true = .ok es →
            (tr.pos + n < c.p2.toNat → moves fun t => goesOn t ∧ t.mem = (applyAll es s).mem) ∧
            (c.p2.toNat ≤ tr.pos + n → (c.code = 0x41#16 → moves fun t => t.Answers v c 0 0 0 0) ∧
              (∀ pol, c.code = 0x40#16 → v.policy = some pol →
                (∀ k, (polProgs pol).findIdx? (· == Config.sm3 image) = some k → moves fun t =>
                  t.Answers v c 0 0 (BitVec.ofNat 64 k) 0 ∧
                  after t fun v' => v'.entries = v.entries ++ [(c.p0.toNat, image.length, k)]) ∧
                ((polProgs pol).findIdx? (· == Config.sm3 image) = none → moves fun t => t.Answers v c 12 2 0 0 ∧
                  (∀ es', (applyAll es s).writeVirt ⟨v.vf, 4096, 0⟩ c.p0.toNat (zeroBytes image.length) true true = .ok es' →
                    image.length ≤ 65536 → t.mem = (applyAll es' (applyAll es s)).mem) ∧
                  after t fun v' => v'.entries = v.entries)))) ∧
          (∀ w x, s.writeVirt ⟨v.vf, 4096, 0⟩ dev (readBytes s.host host n) true true = .error (w, x) → stops w))))) ∧
    (∀ r rest, vf ≠ 0 → s.ghostOf vf = none → v.channel.notices = r :: rest → v.channel.runs = true →
      (if v.channel.idle = true then 0 else 1) < v.channel.room → Completes (.noticePost vf) s fun t =>
        readBytes t.host (v.channel.cbase + 64 * v.channel.ci) 64 = v.record (2 ^ 63 + v.noticeNo)
          (setByte (spliceBytes r 0 (leBytes 4 v.noticeNo)) 6 (if v.channel.phase = true then 1 else 0)) ∧
        after t fun v' => v'.noticeNo = v.noticeNo + 1 ∧ v'.channel.notices = rest ∧
          v'.channel.ci = (v.channel.ci + 1) % 2 ^ v.channel.csize) ∧
    (∀ r rest, s.module.control.notices = r :: rest → r.length = 32 → s.module.control.runs = true →
      (if s.module.control.idle = true then 0 else 1) < s.module.control.room → Completes (.noticePost 0) s fun t =>
        let c := s.module.control
        readBytes t.host (c.cbase + 32 * c.ci) 32 = setByte r 6 (if c.phase = true then 1 else 0) ∧
        t.module.control.notices = rest ∧ t.module.control.ci = (c.ci + 1) % 2 ^ c.csize) ∧
    (∀ since, v.state = .paused → v.paused = some since → since + v.pol 0x54 4 * 1700000 ≤ s.cycle →
      Completes (.pauseLimitExpiry vf) s fun t => (after t fun v' => v'.state = .running ∧ v'.paused = none) ∧
        t.module.control.notices = s.module.control.notices ++ [completion 0 0 0 (s.handle v.serial) 0])

/-- R16, R26, R32 to R35, R46, R53, R54, Table 2.3: a session starts SEQ and the notice counter at 1; the measurements
are signed by the alias key; a policy that passes is installed and binds a virtual device just created, one that fails
changes nothing; START runs a locked virtual device, STOP and a function-level reset act as VD.RESET where it is
allowed; an uncorrectable error fails it. Another module joins only where both sides agree, and a request for a third
goes on over a ready strait or is dropped at its fourth hop. What it says of the following is the model's own choice:
cryptography, identities and layouts of signed data (log 6); responses of the SPDM and TDISP responders (log 71); when
SET_POLICY is taken (log 72); VD.JOIN to the own number, and hops without a route (log 74); the bytes that measurement
blocks digest (log 98); SPDM requests of a function without a virtual device, and SET_POLICY of an evicted one (log 99).
-/
def Obligations.SessionsInterfacesAndPeers : Prop :=
  ∀ (s : State) (vf dev peerVf hops : Nat) (ok : Bool) (bytes : List Byte) (digest : BitVec 256) (sig : BitVec 512)
    (identity key : BitVec 512) (dest : BitVec 5) (v : VD),
    s.Inv → s.module.ready.getLsbD 0 = true → s.module.halted = false → s.vdAt vf = some v → vf ≤ 256 →
    let m := s.module
    let after (t : State) (p : VD → Prop) : Prop := ∃ v', t.vdAt vf = some v' ∧ p v'
    let responds (i : Instr) (fn : Nat) (good : Bool) (p : State → Prop) : Prop := Completes i s fun t =>
      t.module.replies = m.replies ++ [leBytes 2 fn ++ [if good = true then 0 else 1]] ∧ p t
    let blocks (o : Option VD) : List Byte := (s.blocks o).flatMap fun d => leBytes 32 d.toNat
    let locked (t : State) : Prop := after t fun v' => v'.state = .locked ∧ v'.tdisp = 1 ∧ v'.cores = [] ∧ v'.graphs = []
    (∀ o, responds (.spdmSessionOpen 0 o) 0 o fun t => t.vds = s.vds) ∧
    (vf ≠ 0 → responds (.spdmSessionOpen vf false) vf false (fun t => t.vds = s.vds) ∧
      responds (.spdmSessionOpen vf true) vf true fun t => t.free = s.free + 1 ∧ after t fun v' =>
        v'.session = some s.free ∧ v'.seqNo = 1 ∧ v'.noticeNo = 1) ∧
    (Completes (.spdmGetMeasurements vf) s fun t => t.vds = s.vds ∧
      t.module.replies = m.replies ++ [s.attested (blocks (some v))]) ∧
    (v.session.isSome = true → v.channel.idle = true →
      (v.installs bytes = true → responds (.setPolicy vf bytes) vf true fun t => after t fun v' =>
        v'.policy = some bytes ∧ v'.boundKey = (bytes.drop 16).take 64 ∧ v'.policyCounter = fieldLE bytes 8 8 ∧
        v'.state = (if v.state = .created then .locked else v.state) ∧
        ∀ w ∈ v'.windows, w ∈ v.windows ∧ v'.windowAllows w.host w.size w.perm = true) ∧
      (v.installs bytes = false → responds (.setPolicy vf bytes) vf false fun t => t.vds = s.vds)) ∧
    (v.session.isSome = true → responds (.approveImage vf digest sig) vf true fun t => after t fun v' =>
      v'.approval = some (digest, sig)) ∧
    (v.state = .locked → responds (.startInterfaceRequest vf) vf true fun t => after t fun v' =>
      v'.state = .running ∧ v'.tdisp = 2) ∧
    (v.state ≠ .locked → responds (.startInterfaceRequest vf) vf false fun t => t.vds = s.vds) ∧
    (v.state ≠ .created → v.state ≠ .evicted → s.dieDown v.node = false →
      responds (.stopInterfaceRequest vf) vf true locked ∧ Completes (.functionLevelReset vf) s locked) ∧
    (v.state = .created ∨ v.state = .evicted ∨ s.dieDown v.node = true →
      responds (.stopInterfaceRequest vf) vf false (fun t => t.vds = s.vds) ∧
      Completes (.functionLevelReset vf) s fun t => t.vds = s.vds) ∧
    (Completes (.vdUncorrectableError vf) s fun t => (∀ f ∈ t.flights, f.tid.vf ≠ vf) ∧ after t fun v' =>
      v'.state = .failed ∧ v'.tdisp = 3 ∧ v'.cores = [] ∧ v'.graphs = [] ∧ v'.turnStart = none) ∧
    (dev < 32 → m.dev.isSome = true → m.dev ≠ some dev → s.usesJoin vf dev = false →
      let agrees := v.state.joinable = true ∧ v.joinOk = true ∧ ok = true ∧ key = BitVec.ofNat 512 (leNat v.boundKey) ∧
        ∃ b, v.policy = some b ∧ identity ∈ polDevices b
      (agrees → responds (.peerJoinRequest vf dev peerVf identity key ok) vf true fun t => after t fun v' =>
        v'.joins = v.joins.filter (·.1 != dev) ++ [(dev, peerVf)]) ∧
      (¬agrees → responds (.peerJoinRequest vf dev peerVf identity key ok) vf false fun t => t.vds = s.vds)) ∧
    ((∃ j ∈ v.joins, j.1 = dev) → Completes (.peerJoinEnd vf dev) s fun t => after t fun v' =>
      v'.joins = v.joins.filter (·.1 != dev)) ∧
    (m.dev.isSome = true → m.dev ≠ some dest.toNat →
      (hops < 3 → s.routeReady dest.toNat = true → Completes (.straitHopForward dest hops) s fun t =>
        t.module.passed = m.passed ++ [(dest.toNat, true)] ∧ t.vds = s.vds) ∧
      (3 ≤ hops → Completes (.straitHopForward dest hops) s fun t =>
        t.module.passed = m.passed ++ [(dest.toNat, false)] ∧ t.vds = s.vds))
end

