-- ==== Sys2Proof/Laws/Memory.lean ====
section
/-! SUPPORT. The byte memories, the sorted sets and the keyed tables: what a read gives after a write, and that every
operation keeps the canonical form. -/

namespace Sys2Proof.Machine

/-! ### Byte memories -/

theorem wfCells_cons (lo : Option Nat) (k : Nat) (b : Byte) (m : List Host.Cell) :
    wfCells lo ((k, b) :: m) = true ↔ (∀ l, lo = some l → l < k) ∧ b ≠ 0 ∧ wfCells (some k) m = true := by
  cases lo <;> simp [wfCells, and_assoc]

theorem wfCells_none (m : List Host.Cell) (k : Nat) (h : wfCells (some k) m = true) : wfCells none m = true := by
  cases m with
  | nil => rfl
  | cons c m => obtain ⟨a, b⟩ := c; rw [wfCells_cons] at *; exact ⟨by simp, h.2⟩

/-- Below the first address everything reads zero. -/
theorem readCell_below (m : List Host.Cell) : ∀ k a, wfCells (some k) m = true → a ≤ k → readCell m a = 0 := by
  induction m with
  | nil => intros; rfl
  | cons c m ih =>
    obtain ⟨k', b⟩ := c
    intro k a h ha
    obtain ⟨h1, -, h3⟩ := (wfCells_cons ..).1 h
    have := h1 k rfl
    simp only [readCell]
    rw [if_neg (by omega)]
    exact ih k' a h3 (by omega)

theorem readCell_writeCell_same (m : List Host.Cell) :
    ∀ lo a b, wfCells lo m = true → readCell (writeCell m a b) a = b := by
  induction m with
  | nil =>
    intro lo a b _
    simp only [writeCell]
    split
    · rename_i hb; subst hb; rfl
    · simp [readCell]
  | cons c m ih =>
    obtain ⟨k, c⟩ := c
    intro lo a b h
    obtain ⟨-, -, hk⟩ := (wfCells_cons ..).1 h
    simp only [writeCell]
    split
    · rename_i hak
      split
      · rename_i hb
        subst hb
        simp only [readCell]
        rw [if_neg (by omega)]
        exact readCell_below m k a hk (by omega)
      · simp [readCell]
    · split
      · rename_i hak
        subst hak
        split
        · rename_i hb; subst hb; exact readCell_below m a a hk (le_refl _)
        · simp [readCell]
      · simp only [readCell]
        rw [if_neg (by omega)]
        exact ih (some k) a b hk

theorem readCell_writeCell_other (m : List Host.Cell) :
    ∀ a a' b, a' ≠ a → readCell (writeCell m a b) a' = readCell m a' := by
  induction m with
  | nil =>
    intro a a' b h
    simp only [writeCell]
    split
    · rfl
    · simp [readCell, Ne.symm h]
  | cons c m ih =>
    obtain ⟨k, c⟩ := c
    intro a a' b h
    simp only [writeCell]
    split
    · split
      · rfl
      · simp [readCell, Ne.symm h]
    · split
      · rename_i hak
        subst hak
        split <;> simp [readCell, Ne.symm h]
      · simp [readCell, ih a a' b h]

/-- A read after a write to the same place gives the byte written. -/
theorem readCell_writeCell (m : List Host.Cell) (h : Memory.wf m = true) (a a' : Nat) (b : Byte) :
    readCell (writeCell m a b) a' = if a' = a then b else readCell m a' := by
  split
  · rename_i e; subst e; exact readCell_writeCell_same m none a' b h
  · rename_i e; exact readCell_writeCell_other m a a' b e

theorem wfCells_writeCell (m : List Host.Cell) :
    ∀ lo a b, wfCells lo m = true → (∀ l, lo = some l → l < a) → wfCells lo (writeCell m a b) = true := by
  induction m with
  | nil =>
    intro lo a b _ hl
    simp only [writeCell]
    split
    · rfl
    · rename_i hb; exact (wfCells_cons lo a b []).2 ⟨hl, hb, rfl⟩
  | cons c m ih =>
    obtain ⟨k, c⟩ := c
    intro lo a b h hl
    obtain ⟨h1, h2, h3⟩ := (wfCells_cons lo k c m).1 h
    simp only [writeCell]
    split
    · rename_i hak
      split
      · exact h
      · rename_i hb
        exact (wfCells_cons ..).2 ⟨hl, hb, (wfCells_cons ..).2 ⟨by intro l e; cases e; exact hak, h2, h3⟩⟩
    · split
      · rename_i hak
        subst hak
        split
        · cases m with
          | nil => cases lo <;> rfl
          | cons d m =>
            obtain ⟨k', d⟩ := d
            obtain ⟨g1, g2⟩ := (wfCells_cons ..).1 h3
            exact (wfCells_cons ..).2 ⟨fun l e => lt_trans (hl l e) (g1 a rfl), g2⟩
        · rename_i hb; exact (wfCells_cons ..).2 ⟨hl, hb, h3⟩
      · exact (wfCells_cons ..).2 ⟨h1, h2, ih (some k) a b h3 (by intro l e; cases e; omega)⟩

/-- A write keeps the canonical form. -/
theorem Memory.wf_writeCell (m : List Host.Cell) (a : Nat) (b : Byte) (h : Memory.wf m = true) :
    Memory.wf (writeCell m a b) = true := wfCells_writeCell m none a b h (by simp)

theorem Memory.wf_writeBytes (l : List Byte) : ∀ (m : List Host.Cell) (a : Nat), Memory.wf m = true →
    Memory.wf (writeBytes m a l) = true := by
  induction l with
  | nil => intro m a h; exact h
  | cons b l ih => intro m a h; exact ih _ _ (Memory.wf_writeCell m a b h)

/-! ### Sorted sets -/

theorem mem_setInsert (l : List Nat) (a b : Nat) : b ∈ setInsert l a ↔ b = a ∨ b ∈ l := by
  induction l with
  | nil => simp [setInsert]
  | cons k l ih =>
    simp only [setInsert]
    split
    · simp
    · split
      · rename_i h; subst h; simp
      · simp [ih]; tauto

theorem sorted_setInsert (l : List Nat) (a : Nat) (h : l.Pairwise (· < ·)) : (setInsert l a).Pairwise (· < ·) := by
  induction l with
  | nil => simp [setInsert]
  | cons k l ih =>
    rw [List.pairwise_cons] at h
    simp only [setInsert]
    split
    · rename_i hak
      refine List.pairwise_cons.2 ⟨?_, List.pairwise_cons.2 h⟩
      intro b hb
      rcases List.mem_cons.1 hb with rfl | hb
      · exact hak
      · exact lt_trans hak (h.1 b hb)
    · split
      · exact List.pairwise_cons.2 h
      · refine List.pairwise_cons.2 ⟨?_, ih h.2⟩
        intro b hb
        rcases (mem_setInsert l a b).1 hb with rfl | hb
        · omega
        · exact h.1 b hb

theorem setErase_sublist (l : List Nat) (a : Nat) : (setErase l a).Sublist l := by
  induction l with
  | nil => exact List.Sublist.slnil
  | cons k l ih =>
    simp only [setErase]
    split
    · exact List.sublist_cons_self k l
    · exact ih.cons_cons k

theorem sorted_setErase (l : List Nat) (a : Nat) (h : l.Pairwise (· < ·)) : (setErase l a).Pairwise (· < ·) :=
  h.sublist (setErase_sublist l a)

/-! ### Keyed tables -/

section
variable {α : Type}

theorem lookup_put_same (l : List (Nat × α)) (a : Nat) (y : α) : lookup (put l a y) a = some y := by
  induction l with
  | nil => simp [put, lookup]
  | cons c l ih =>
    obtain ⟨k, x⟩ := c
    simp only [put]
    split
    · simp [lookup]
    · split
      · simp [lookup]
      · rename_i h1 h2
        simp only [lookup]
        rw [if_neg (by omega)]
        exact ih

theorem lookup_put_other (l : List (Nat × α)) (a b : Nat) (y : α) (h : b ≠ a) : lookup (put l a y) b = lookup l b := by
  induction l with
  | nil => simp [put, lookup, Ne.symm h]
  | cons c l ih =>
    obtain ⟨k, x⟩ := c
    simp only [put]
    split
    · simp [lookup, Ne.symm h]
    · split
      · rename_i h1 h2
        subst h2
        simp [lookup, Ne.symm h]
      · simp [lookup, ih]

theorem mem_keys_put (l : List (Nat × α)) (a : Nat) (y : α) (b : Nat) :
    b ∈ (put l a y).map (·.1) ↔ b = a ∨ b ∈ l.map (·.1) := by
  induction l with
  | nil => simp [put]
  | cons c l ih =>
    obtain ⟨k, x⟩ := c
    simp only [put]
    split
    · simp
    · split
      · rename_i h; subst h; simp
      · simp only [List.map_cons, List.mem_cons, ih]; tauto

theorem mem_put (l : List (Nat × α)) (a : Nat) (y : α) (e : Nat × α) (h : e ∈ put l a y) : e = (a, y) ∨ e ∈ l := by
  induction l with
  | nil => simpa [put] using h
  | cons c l ih =>
    obtain ⟨k, x⟩ := c
    simp only [put] at h
    split at h
    · simpa using h
    · split at h
      · simp only [List.mem_cons] at h ⊢; tauto
      · simp only [List.mem_cons] at h ⊢
        rcases h with h | h
        · exact .inr (.inl h)
        · rcases ih h with h | h
          · exact .inl h
          · exact .inr (.inr h)

theorem mem_of_lookup (l : List (Nat × α)) (a : Nat) (y : α) (h : lookup l a = some y) : (a, y) ∈ l := by
  induction l with
  | nil => simp [lookup] at h
  | cons c l ih =>
    obtain ⟨k, x⟩ := c
    simp only [lookup] at h
    split at h
    · rename_i hk
      simp only [Option.some.injEq] at h
      subst hk h
      exact List.mem_cons_self
    · exact List.mem_cons_of_mem _ (ih h)

/-- An entry put into a table keeps its keys rising. -/
theorem keys_put (l : List (Nat × α)) (a : Nat) (y : α) (h : (l.map (·.1)).Pairwise (· < ·)) :
    ((put l a y).map (·.1)).Pairwise (· < ·) := by
  induction l with
  | nil => simp [put]
  | cons c l ih =>
    obtain ⟨k, x⟩ := c
    simp only [List.map_cons, List.pairwise_cons] at h
    simp only [put]
    split
    · rename_i hak
      simp only [List.map_cons, List.pairwise_cons]
      refine ⟨?_, h⟩
      intro b hb
      rcases List.mem_cons.1 hb with rfl | hb
      · exact hak
      · exact lt_trans hak (h.1 b hb)
    · split
      · rename_i hak; subst hak; simpa using h
      · simp only [List.map_cons, List.pairwise_cons]
        refine ⟨?_, ih h.2⟩
        intro b hb
        rcases (mem_keys_put l a y b).1 hb with rfl | hb
        · omega
        · exact h.1 b hb

theorem erase_sublist (l : List (Nat × α)) (a : Nat) : (erase l a).Sublist l := by
  induction l with
  | nil => exact List.Sublist.slnil
  | cons c l ih =>
    obtain ⟨k, x⟩ := c
    simp only [erase]
    split
    · exact List.sublist_cons_self _ l
    · exact ih.cons_cons _

theorem keys_erase (l : List (Nat × α)) (a : Nat) (h : (l.map (·.1)).Pairwise (· < ·)) :
    ((erase l a).map (·.1)).Pairwise (· < ·) := h.sublist ((erase_sublist l a).map _)

end

end Sys2Proof.Machine
end

