-- ==== Sys2Proof/Laws/State.lean ====
section
/-! SUPPORT. What each effect leaves in each field of the state, one lemma for each effect and field. -/

namespace Sys2Proof.Machine

section
variable (s : State) (t : Tid) (g : Slot → Slot)
@[simp] theorem apply_slot_cycle : ((Eff.slot t g).apply s).cycle = s.cycle := by
  simp only [Eff.apply]; split <;> rfl
@[simp] theorem apply_slot_powers : ((Eff.slot t g).apply s).powers = s.powers := by
  simp only [Eff.apply]; split <;> rfl
@[simp] theorem apply_slot_mem : ((Eff.slot t g).apply s).mem = s.mem := by
  simp only [Eff.apply]; split <;> rfl
@[simp] theorem apply_slot_full : ((Eff.slot t g).apply s).full = s.full := by
  simp only [Eff.apply]; split <;> rfl
@[simp] theorem apply_slot_host : ((Eff.slot t g).apply s).host = s.host := by
  simp only [Eff.apply]; split <;> rfl
@[simp] theorem apply_slot_module : ((Eff.slot t g).apply s).module = s.module := by
  simp only [Eff.apply]; split <;> rfl
@[simp] theorem apply_slot_fused : ((Eff.slot t g).apply s).fused = s.fused := by
  simp only [Eff.apply]; split <;> rfl
@[simp] theorem apply_slot_serials : ((Eff.slot t g).apply s).serials = s.serials := by
  simp only [Eff.apply]; split <;> rfl
@[simp] theorem apply_slot_isles : ((Eff.slot t g).apply s).isles = s.isles := by
  simp only [Eff.apply]; split <;> rfl
@[simp] theorem apply_slot_flights : ((Eff.slot t g).apply s).flights = s.flights := by
  simp only [Eff.apply]; split <;> rfl
@[simp] theorem apply_slot_nextId : ((Eff.slot t g).apply s).nextId = s.nextId := by
  simp only [Eff.apply]; split <;> rfl
@[simp] theorem apply_slot_free : ((Eff.slot t g).apply s).free = s.free := by
  simp only [Eff.apply]; split <;> rfl
@[simp] theorem apply_slot_cur : ((Eff.slot t g).apply s).cur = s.cur := by
  simp only [Eff.apply]; split <;> rfl
@[simp] theorem apply_slot_turn : ((Eff.slot t g).apply s).turn = s.turn := by
  simp only [Eff.apply]; split <;> rfl
@[simp] theorem apply_slot_cmd : ((Eff.slot t g).apply s).cmd = s.cmd := by
  simp only [Eff.apply]; split <;> rfl
@[simp] theorem apply_slot_tcmd : ((Eff.slot t g).apply s).tcmd = s.tcmd := by
  simp only [Eff.apply]; split <;> rfl
@[simp] theorem apply_slot_agenda : ((Eff.slot t g).apply s).agenda = s.agenda := by
  simp only [Eff.apply]; split <;> rfl
end

section
variable (s : State) (vf off : Nat) (g : Core → Core)
@[simp] theorem apply_core_cycle : ((Eff.core vf off g).apply s).cycle = s.cycle := by
  simp only [Eff.apply]; split <;> rfl
@[simp] theorem apply_core_powers : ((Eff.core vf off g).apply s).powers = s.powers := by
  simp only [Eff.apply]; split <;> rfl
@[simp] theorem apply_core_mem : ((Eff.core vf off g).apply s).mem = s.mem := by
  simp only [Eff.apply]; split <;> rfl
@[simp] theorem apply_core_full : ((Eff.core vf off g).apply s).full = s.full := by
  simp only [Eff.apply]; split <;> rfl
@[simp] theorem apply_core_host : ((Eff.core vf off g).apply s).host = s.host := by
  simp only [Eff.apply]; split <;> rfl
@[simp] theorem apply_core_module : ((Eff.core vf off g).apply s).module = s.module := by
  simp only [Eff.apply]; split <;> rfl
@[simp] theorem apply_core_fused : ((Eff.core vf off g).apply s).fused = s.fused := by
  simp only [Eff.apply]; split <;> rfl
@[simp] theorem apply_core_serials : ((Eff.core vf off g).apply s).serials = s.serials := by
  simp only [Eff.apply]; split <;> rfl
@[simp] theorem apply_core_isles : ((Eff.core vf off g).apply s).isles = s.isles := by
  simp only [Eff.apply]; split <;> rfl
@[simp] theorem apply_core_flights : ((Eff.core vf off g).apply s).flights = s.flights := by
  simp only [Eff.apply]; split <;> rfl
@[simp] theorem apply_core_nextId : ((Eff.core vf off g).apply s).nextId = s.nextId := by
  simp only [Eff.apply]; split <;> rfl
@[simp] theorem apply_core_free : ((Eff.core vf off g).apply s).free = s.free := by
  simp only [Eff.apply]; split <;> rfl
@[simp] theorem apply_core_cur : ((Eff.core vf off g).apply s).cur = s.cur := by
  simp only [Eff.apply]; split <;> rfl
@[simp] theorem apply_core_turn : ((Eff.core vf off g).apply s).turn = s.turn := by
  simp only [Eff.apply]; split <;> rfl
@[simp] theorem apply_core_cmd : ((Eff.core vf off g).apply s).cmd = s.cmd := by
  simp only [Eff.apply]; split <;> rfl
@[simp] theorem apply_core_tcmd : ((Eff.core vf off g).apply s).tcmd = s.tcmd := by
  simp only [Eff.apply]; split <;> rfl
@[simp] theorem apply_core_agenda : ((Eff.core vf off g).apply s).agenda = s.agenda := by
  simp only [Eff.apply]; split <;> rfl
end

section
variable (s : State) (vf : Nat) (g : VD → VD)
@[simp] theorem apply_vd_cycle : ((Eff.vd vf g).apply s).cycle = s.cycle := by
  simp only [Eff.apply]; split <;> rfl
@[simp] theorem apply_vd_powers : ((Eff.vd vf g).apply s).powers = s.powers := by
  simp only [Eff.apply]; split <;> rfl
@[simp] theorem apply_vd_mem : ((Eff.vd vf g).apply s).mem = s.mem := by
  simp only [Eff.apply]; split <;> rfl
@[simp] theorem apply_vd_full : ((Eff.vd vf g).apply s).full = s.full := by
  simp only [Eff.apply]; split <;> rfl
@[simp] theorem apply_vd_host : ((Eff.vd vf g).apply s).host = s.host := by
  simp only [Eff.apply]; split <;> rfl
@[simp] theorem apply_vd_module : ((Eff.vd vf g).apply s).module = s.module := by
  simp only [Eff.apply]; split <;> rfl
@[simp] theorem apply_vd_fused : ((Eff.vd vf g).apply s).fused = s.fused := by
  simp only [Eff.apply]; split <;> rfl
@[simp] theorem apply_vd_serials : ((Eff.vd vf g).apply s).serials = s.serials := by
  simp only [Eff.apply]; split <;> rfl
@[simp] theorem apply_vd_isles : ((Eff.vd vf g).apply s).isles = s.isles := by
  simp only [Eff.apply]; split <;> rfl
@[simp] theorem apply_vd_flights : ((Eff.vd vf g).apply s).flights = s.flights := by
  simp only [Eff.apply]; split <;> rfl
@[simp] theorem apply_vd_nextId : ((Eff.vd vf g).apply s).nextId = s.nextId := by
  simp only [Eff.apply]; split <;> rfl
@[simp] theorem apply_vd_free : ((Eff.vd vf g).apply s).free = s.free := by
  simp only [Eff.apply]; split <;> rfl
@[simp] theorem apply_vd_cur : ((Eff.vd vf g).apply s).cur = s.cur := by
  simp only [Eff.apply]; split <;> rfl
@[simp] theorem apply_vd_turn : ((Eff.vd vf g).apply s).turn = s.turn := by
  simp only [Eff.apply]; split <;> rfl
@[simp] theorem apply_vd_cmd : ((Eff.vd vf g).apply s).cmd = s.cmd := by
  simp only [Eff.apply]; split <;> rfl
@[simp] theorem apply_vd_tcmd : ((Eff.vd vf g).apply s).tcmd = s.tcmd := by
  simp only [Eff.apply]; split <;> rfl
@[simp] theorem apply_vd_agenda : ((Eff.vd vf g).apply s).agenda = s.agenda := by
  simp only [Eff.apply]; split <;> rfl
end

section
variable (s : State) (v : VD)
@[simp] theorem apply_newVd_cycle : ((Eff.newVd v).apply s).cycle = s.cycle := rfl
@[simp] theorem apply_newVd_powers : ((Eff.newVd v).apply s).powers = s.powers := rfl
@[simp] theorem apply_newVd_mem : ((Eff.newVd v).apply s).mem = s.mem := rfl
@[simp] theorem apply_newVd_full : ((Eff.newVd v).apply s).full = s.full := rfl
@[simp] theorem apply_newVd_host : ((Eff.newVd v).apply s).host = s.host := rfl
@[simp] theorem apply_newVd_module : ((Eff.newVd v).apply s).module = s.module := rfl
@[simp] theorem apply_newVd_fused : ((Eff.newVd v).apply s).fused = s.fused := rfl
@[simp] theorem apply_newVd_serials : ((Eff.newVd v).apply s).serials = s.serials := rfl
@[simp] theorem apply_newVd_vds : ((Eff.newVd v).apply s).vds = put s.vds v.vf v := rfl
@[simp] theorem apply_newVd_isles : ((Eff.newVd v).apply s).isles = s.isles := rfl
@[simp] theorem apply_newVd_flights : ((Eff.newVd v).apply s).flights = s.flights := rfl
@[simp] theorem apply_newVd_nextId : ((Eff.newVd v).apply s).nextId = s.nextId := rfl
@[simp] theorem apply_newVd_free : ((Eff.newVd v).apply s).free = s.free := rfl
@[simp] theorem apply_newVd_cur : ((Eff.newVd v).apply s).cur = s.cur := rfl
@[simp] theorem apply_newVd_turn : ((Eff.newVd v).apply s).turn = s.turn := rfl
@[simp] theorem apply_newVd_cmd : ((Eff.newVd v).apply s).cmd = s.cmd := rfl
@[simp] theorem apply_newVd_tcmd : ((Eff.newVd v).apply s).tcmd = s.tcmd := rfl
@[simp] theorem apply_newVd_agenda : ((Eff.newVd v).apply s).agenda = s.agenda := rfl
end

section
variable (s : State) (vf : Nat)
@[simp] theorem apply_dropVd_cycle : ((Eff.dropVd vf).apply s).cycle = s.cycle := rfl
@[simp] theorem apply_dropVd_powers : ((Eff.dropVd vf).apply s).powers = s.powers := rfl
@[simp] theorem apply_dropVd_mem : ((Eff.dropVd vf).apply s).mem = s.mem := rfl
@[simp] theorem apply_dropVd_full : ((Eff.dropVd vf).apply s).full = s.full := rfl
@[simp] theorem apply_dropVd_host : ((Eff.dropVd vf).apply s).host = s.host := rfl
@[simp] theorem apply_dropVd_module : ((Eff.dropVd vf).apply s).module = s.module := rfl
@[simp] theorem apply_dropVd_fused : ((Eff.dropVd vf).apply s).fused = s.fused := rfl
@[simp] theorem apply_dropVd_serials : ((Eff.dropVd vf).apply s).serials = s.serials := rfl
@[simp] theorem apply_dropVd_vds : ((Eff.dropVd vf).apply s).vds = erase s.vds vf := rfl
@[simp] theorem apply_dropVd_isles : ((Eff.dropVd vf).apply s).isles = s.isles := rfl
@[simp] theorem apply_dropVd_flights : ((Eff.dropVd vf).apply s).flights = s.flights := rfl
@[simp] theorem apply_dropVd_nextId : ((Eff.dropVd vf).apply s).nextId = s.nextId := rfl
@[simp] theorem apply_dropVd_free : ((Eff.dropVd vf).apply s).free = s.free := rfl
@[simp] theorem apply_dropVd_cur : ((Eff.dropVd vf).apply s).cur = s.cur := rfl
@[simp] theorem apply_dropVd_turn : ((Eff.dropVd vf).apply s).turn = s.turn := rfl
@[simp] theorem apply_dropVd_cmd : ((Eff.dropVd vf).apply s).cmd = s.cmd := rfl
@[simp] theorem apply_dropVd_tcmd : ((Eff.dropVd vf).apply s).tcmd = s.tcmd := rfl
@[simp] theorem apply_dropVd_agenda : ((Eff.dropVd vf).apply s).agenda = s.agenda := rfl
end

section
variable (s : State) (n : Nat) (g : Isle → Isle)
@[simp] theorem apply_isle_cycle : ((Eff.isle n g).apply s).cycle = s.cycle := rfl
@[simp] theorem apply_isle_powers : ((Eff.isle n g).apply s).powers = s.powers := rfl
@[simp] theorem apply_isle_mem : ((Eff.isle n g).apply s).mem = s.mem := rfl
@[simp] theorem apply_isle_full : ((Eff.isle n g).apply s).full = s.full := rfl
@[simp] theorem apply_isle_host : ((Eff.isle n g).apply s).host = s.host := rfl
@[simp] theorem apply_isle_module : ((Eff.isle n g).apply s).module = s.module := rfl
@[simp] theorem apply_isle_fused : ((Eff.isle n g).apply s).fused = s.fused := rfl
@[simp] theorem apply_isle_serials : ((Eff.isle n g).apply s).serials = s.serials := rfl
@[simp] theorem apply_isle_vds : ((Eff.isle n g).apply s).vds = s.vds := rfl
@[simp] theorem apply_isle_isles : ((Eff.isle n g).apply s).isles = put s.isles n (g (s.isleAt n)) := rfl
@[simp] theorem apply_isle_flights : ((Eff.isle n g).apply s).flights = s.flights := rfl
@[simp] theorem apply_isle_nextId : ((Eff.isle n g).apply s).nextId = s.nextId := rfl
@[simp] theorem apply_isle_free : ((Eff.isle n g).apply s).free = s.free := rfl
@[simp] theorem apply_isle_cur : ((Eff.isle n g).apply s).cur = s.cur := rfl
@[simp] theorem apply_isle_turn : ((Eff.isle n g).apply s).turn = s.turn := rfl
@[simp] theorem apply_isle_cmd : ((Eff.isle n g).apply s).cmd = s.cmd := rfl
@[simp] theorem apply_isle_tcmd : ((Eff.isle n g).apply s).tcmd = s.tcmd := rfl
@[simp] theorem apply_isle_agenda : ((Eff.isle n g).apply s).agenda = s.agenda := rfl
end

section
variable (s : State) (g : Module → Module)
@[simp] theorem apply_module_cycle : ((Eff.module g).apply s).cycle = s.cycle := rfl
@[simp] theorem apply_module_powers : ((Eff.module g).apply s).powers = s.powers := rfl
@[simp] theorem apply_module_mem : ((Eff.module g).apply s).mem = s.mem := rfl
@[simp] theorem apply_module_full : ((Eff.module g).apply s).full = s.full := rfl
@[simp] theorem apply_module_host : ((Eff.module g).apply s).host = s.host := rfl
@[simp] theorem apply_module_module : ((Eff.module g).apply s).module = g s.module := rfl
@[simp] theorem apply_module_fused : ((Eff.module g).apply s).fused = s.fused := rfl
@[simp] theorem apply_module_serials : ((Eff.module g).apply s).serials = s.serials := rfl
@[simp] theorem apply_module_vds : ((Eff.module g).apply s).vds = s.vds := rfl
@[simp] theorem apply_module_isles : ((Eff.module g).apply s).isles = s.isles := rfl
@[simp] theorem apply_module_flights : ((Eff.module g).apply s).flights = s.flights := rfl
@[simp] theorem apply_module_nextId : ((Eff.module g).apply s).nextId = s.nextId := rfl
@[simp] theorem apply_module_free : ((Eff.module g).apply s).free = s.free := rfl
@[simp] theorem apply_module_cur : ((Eff.module g).apply s).cur = s.cur := rfl
@[simp] theorem apply_module_turn : ((Eff.module g).apply s).turn = s.turn := rfl
@[simp] theorem apply_module_cmd : ((Eff.module g).apply s).cmd = s.cmd := rfl
@[simp] theorem apply_module_tcmd : ((Eff.module g).apply s).tcmd = s.tcmd := rfl
@[simp] theorem apply_module_agenda : ((Eff.module g).apply s).agenda = s.agenda := rfl
end

section
variable (s : State) (pa : Nat) (b : Byte)
@[simp] theorem apply_mem_cycle : ((Eff.mem pa b).apply s).cycle = s.cycle := rfl
@[simp] theorem apply_mem_powers : ((Eff.mem pa b).apply s).powers = s.powers := rfl
@[simp] theorem apply_mem_mem : ((Eff.mem pa b).apply s).mem = writeCell s.mem pa b := rfl
@[simp] theorem apply_mem_full : ((Eff.mem pa b).apply s).full = s.full := rfl
@[simp] theorem apply_mem_host : ((Eff.mem pa b).apply s).host = s.host := rfl
@[simp] theorem apply_mem_module : ((Eff.mem pa b).apply s).module = s.module := rfl
@[simp] theorem apply_mem_fused : ((Eff.mem pa b).apply s).fused = s.fused := rfl
@[simp] theorem apply_mem_serials : ((Eff.mem pa b).apply s).serials = s.serials := rfl
@[simp] theorem apply_mem_vds : ((Eff.mem pa b).apply s).vds = s.vds := rfl
@[simp] theorem apply_mem_isles : ((Eff.mem pa b).apply s).isles = s.isles := rfl
@[simp] theorem apply_mem_flights : ((Eff.mem pa b).apply s).flights = s.flights := rfl
@[simp] theorem apply_mem_nextId : ((Eff.mem pa b).apply s).nextId = s.nextId := rfl
@[simp] theorem apply_mem_free : ((Eff.mem pa b).apply s).free = s.free := rfl
@[simp] theorem apply_mem_cur : ((Eff.mem pa b).apply s).cur = s.cur := rfl
@[simp] theorem apply_mem_turn : ((Eff.mem pa b).apply s).turn = s.turn := rfl
@[simp] theorem apply_mem_cmd : ((Eff.mem pa b).apply s).cmd = s.cmd := rfl
@[simp] theorem apply_mem_tcmd : ((Eff.mem pa b).apply s).tcmd = s.tcmd := rfl
@[simp] theorem apply_mem_agenda : ((Eff.mem pa b).apply s).agenda = s.agenda := rfl
end

section
variable (s : State) (w : Nat) (on : Bool)
@[simp] theorem apply_full_cycle : ((Eff.full w on).apply s).cycle = s.cycle := rfl
@[simp] theorem apply_full_powers : ((Eff.full w on).apply s).powers = s.powers := rfl
@[simp] theorem apply_full_mem : ((Eff.full w on).apply s).mem = s.mem := rfl
@[simp] theorem apply_full_full : ((Eff.full w on).apply s).full = if on then setInsert s.full w else setErase s.full w := rfl
@[simp] theorem apply_full_host : ((Eff.full w on).apply s).host = s.host := rfl
@[simp] theorem apply_full_module : ((Eff.full w on).apply s).module = s.module := rfl
@[simp] theorem apply_full_fused : ((Eff.full w on).apply s).fused = s.fused := rfl
@[simp] theorem apply_full_serials : ((Eff.full w on).apply s).serials = s.serials := rfl
@[simp] theorem apply_full_vds : ((Eff.full w on).apply s).vds = s.vds := rfl
@[simp] theorem apply_full_isles : ((Eff.full w on).apply s).isles = s.isles := rfl
@[simp] theorem apply_full_flights : ((Eff.full w on).apply s).flights = s.flights := rfl
@[simp] theorem apply_full_nextId : ((Eff.full w on).apply s).nextId = s.nextId := rfl
@[simp] theorem apply_full_free : ((Eff.full w on).apply s).free = s.free := rfl
@[simp] theorem apply_full_cur : ((Eff.full w on).apply s).cur = s.cur := rfl
@[simp] theorem apply_full_turn : ((Eff.full w on).apply s).turn = s.turn := rfl
@[simp] theorem apply_full_cmd : ((Eff.full w on).apply s).cmd = s.cmd := rfl
@[simp] theorem apply_full_tcmd : ((Eff.full w on).apply s).tcmd = s.tcmd := rfl
@[simp] theorem apply_full_agenda : ((Eff.full w on).apply s).agenda = s.agenda := rfl
end

section
variable (s : State) (a : Nat) (b : Byte)
@[simp] theorem apply_host_cycle : ((Eff.host a b).apply s).cycle = s.cycle := rfl
@[simp] theorem apply_host_powers : ((Eff.host a b).apply s).powers = s.powers := rfl
@[simp] theorem apply_host_mem : ((Eff.host a b).apply s).mem = s.mem := rfl
@[simp] theorem apply_host_full : ((Eff.host a b).apply s).full = s.full := rfl
@[simp] theorem apply_host_host : ((Eff.host a b).apply s).host = writeCell s.host a b := rfl
@[simp] theorem apply_host_module : ((Eff.host a b).apply s).module = s.module := rfl
@[simp] theorem apply_host_fused : ((Eff.host a b).apply s).fused = s.fused := rfl
@[simp] theorem apply_host_serials : ((Eff.host a b).apply s).serials = s.serials := rfl
@[simp] theorem apply_host_vds : ((Eff.host a b).apply s).vds = s.vds := rfl
@[simp] theorem apply_host_isles : ((Eff.host a b).apply s).isles = s.isles := rfl
@[simp] theorem apply_host_flights : ((Eff.host a b).apply s).flights = s.flights := rfl
@[simp] theorem apply_host_nextId : ((Eff.host a b).apply s).nextId = s.nextId := rfl
@[simp] theorem apply_host_free : ((Eff.host a b).apply s).free = s.free := rfl
@[simp] theorem apply_host_cur : ((Eff.host a b).apply s).cur = s.cur := rfl
@[simp] theorem apply_host_turn : ((Eff.host a b).apply s).turn = s.turn := rfl
@[simp] theorem apply_host_cmd : ((Eff.host a b).apply s).cmd = s.cmd := rfl
@[simp] theorem apply_host_tcmd : ((Eff.host a b).apply s).tcmd = s.tcmd := rfl
@[simp] theorem apply_host_agenda : ((Eff.host a b).apply s).agenda = s.agenda := rfl
end

section
variable (s : State) (t : Tid) (q d : Nat) (pk : Packet)
@[simp] theorem apply_send_cycle : ((Eff.send t q d pk).apply s).cycle = s.cycle := rfl
@[simp] theorem apply_send_powers : ((Eff.send t q d pk).apply s).powers = s.powers := rfl
@[simp] theorem apply_send_mem : ((Eff.send t q d pk).apply s).mem = s.mem := rfl
@[simp] theorem apply_send_full : ((Eff.send t q d pk).apply s).full = s.full := rfl
@[simp] theorem apply_send_host : ((Eff.send t q d pk).apply s).host = s.host := rfl
@[simp] theorem apply_send_module : ((Eff.send t q d pk).apply s).module = s.module := rfl
@[simp] theorem apply_send_fused : ((Eff.send t q d pk).apply s).fused = s.fused := rfl
@[simp] theorem apply_send_serials : ((Eff.send t q d pk).apply s).serials = s.serials := rfl
@[simp] theorem apply_send_vds : ((Eff.send t q d pk).apply s).vds = s.vds := rfl
@[simp] theorem apply_send_isles : ((Eff.send t q d pk).apply s).isles = s.isles := rfl
@[simp] theorem apply_send_flights : ((Eff.send t q d pk).apply s).flights = s.flights ++ [⟨s.nextId, t, q, s.cycle + d, pk⟩] := rfl
@[simp] theorem apply_send_nextId : ((Eff.send t q d pk).apply s).nextId = s.nextId + 1 := rfl
@[simp] theorem apply_send_free : ((Eff.send t q d pk).apply s).free = s.free := rfl
@[simp] theorem apply_send_cur : ((Eff.send t q d pk).apply s).cur = s.cur := rfl
@[simp] theorem apply_send_turn : ((Eff.send t q d pk).apply s).turn = s.turn := rfl
@[simp] theorem apply_send_cmd : ((Eff.send t q d pk).apply s).cmd = s.cmd := rfl
@[simp] theorem apply_send_tcmd : ((Eff.send t q d pk).apply s).tcmd = s.tcmd := rfl
@[simp] theorem apply_send_agenda : ((Eff.send t q d pk).apply s).agenda = s.agenda := rfl
end

section
variable (s : State) (id : Nat)
@[simp] theorem apply_drop_cycle : ((Eff.drop id).apply s).cycle = s.cycle := rfl
@[simp] theorem apply_drop_powers : ((Eff.drop id).apply s).powers = s.powers := rfl
@[simp] theorem apply_drop_mem : ((Eff.drop id).apply s).mem = s.mem := rfl
@[simp] theorem apply_drop_full : ((Eff.drop id).apply s).full = s.full := rfl
@[simp] theorem apply_drop_host : ((Eff.drop id).apply s).host = s.host := rfl
@[simp] theorem apply_drop_module : ((Eff.drop id).apply s).module = s.module := rfl
@[simp] theorem apply_drop_fused : ((Eff.drop id).apply s).fused = s.fused := rfl
@[simp] theorem apply_drop_serials : ((Eff.drop id).apply s).serials = s.serials := rfl
@[simp] theorem apply_drop_vds : ((Eff.drop id).apply s).vds = s.vds := rfl
@[simp] theorem apply_drop_isles : ((Eff.drop id).apply s).isles = s.isles := rfl
@[simp] theorem apply_drop_flights : ((Eff.drop id).apply s).flights = s.flights.filter (·.id != id) := rfl
@[simp] theorem apply_drop_nextId : ((Eff.drop id).apply s).nextId = s.nextId := rfl
@[simp] theorem apply_drop_free : ((Eff.drop id).apply s).free = s.free := rfl
@[simp] theorem apply_drop_cur : ((Eff.drop id).apply s).cur = s.cur := rfl
@[simp] theorem apply_drop_turn : ((Eff.drop id).apply s).turn = s.turn := rfl
@[simp] theorem apply_drop_cmd : ((Eff.drop id).apply s).cmd = s.cmd := rfl
@[simp] theorem apply_drop_tcmd : ((Eff.drop id).apply s).tcmd = s.tcmd := rfl
@[simp] theorem apply_drop_agenda : ((Eff.drop id).apply s).agenda = s.agenda := rfl
@[simp] theorem apply_swap_cycle : ((Eff.swap id pk).apply s).cycle = s.cycle := rfl
@[simp] theorem apply_swap_powers : ((Eff.swap id pk).apply s).powers = s.powers := rfl
@[simp] theorem apply_swap_mem : ((Eff.swap id pk).apply s).mem = s.mem := rfl
@[simp] theorem apply_swap_full : ((Eff.swap id pk).apply s).full = s.full := rfl
@[simp] theorem apply_swap_host : ((Eff.swap id pk).apply s).host = s.host := rfl
@[simp] theorem apply_swap_module : ((Eff.swap id pk).apply s).module = s.module := rfl
@[simp] theorem apply_swap_fused : ((Eff.swap id pk).apply s).fused = s.fused := rfl
@[simp] theorem apply_swap_serials : ((Eff.swap id pk).apply s).serials = s.serials := rfl
@[simp] theorem apply_swap_vds : ((Eff.swap id pk).apply s).vds = s.vds := rfl
@[simp] theorem apply_swap_isles : ((Eff.swap id pk).apply s).isles = s.isles := rfl
@[simp] theorem apply_swap_flights : ((Eff.swap id pk).apply s).flights =
    s.flights.map fun f => if f.id = id then { f with notBefore := s.cycle, pk := pk } else f := rfl
@[simp] theorem apply_swap_nextId : ((Eff.swap id pk).apply s).nextId = s.nextId := rfl
@[simp] theorem apply_swap_free : ((Eff.swap id pk).apply s).free = s.free := rfl
@[simp] theorem apply_swap_cur : ((Eff.swap id pk).apply s).cur = s.cur := rfl
@[simp] theorem apply_swap_turn : ((Eff.swap id pk).apply s).turn = s.turn := rfl
@[simp] theorem apply_swap_cmd : ((Eff.swap id pk).apply s).cmd = s.cmd := rfl
@[simp] theorem apply_swap_tcmd : ((Eff.swap id pk).apply s).tcmd = s.tcmd := rfl
@[simp] theorem apply_swap_agenda : ((Eff.swap id pk).apply s).agenda = s.agenda := rfl
end

section
variable (s : State) (n : Nat)
@[simp] theorem apply_tick_cycle : ((Eff.tick n).apply s).cycle = s.cycle + n := rfl
@[simp] theorem apply_tick_powers : ((Eff.tick n).apply s).powers = s.powers := rfl
@[simp] theorem apply_tick_mem : ((Eff.tick n).apply s).mem = s.mem := rfl
@[simp] theorem apply_tick_full : ((Eff.tick n).apply s).full = s.full := rfl
@[simp] theorem apply_tick_host : ((Eff.tick n).apply s).host = s.host := rfl
@[simp] theorem apply_tick_module : ((Eff.tick n).apply s).module = s.module := rfl
@[simp] theorem apply_tick_fused : ((Eff.tick n).apply s).fused = s.fused := rfl
@[simp] theorem apply_tick_serials : ((Eff.tick n).apply s).serials = s.serials := rfl
@[simp] theorem apply_tick_vds : ((Eff.tick n).apply s).vds = s.vds := rfl
@[simp] theorem apply_tick_isles : ((Eff.tick n).apply s).isles = s.isles := rfl
@[simp] theorem apply_tick_flights : ((Eff.tick n).apply s).flights = s.flights := rfl
@[simp] theorem apply_tick_nextId : ((Eff.tick n).apply s).nextId = s.nextId := rfl
@[simp] theorem apply_tick_free : ((Eff.tick n).apply s).free = s.free := rfl
@[simp] theorem apply_tick_cur : ((Eff.tick n).apply s).cur = s.cur := rfl
@[simp] theorem apply_tick_turn : ((Eff.tick n).apply s).turn = s.turn := rfl
@[simp] theorem apply_tick_cmd : ((Eff.tick n).apply s).cmd = s.cmd := rfl
@[simp] theorem apply_tick_tcmd : ((Eff.tick n).apply s).tcmd = s.tcmd := rfl
@[simp] theorem apply_tick_agenda : ((Eff.tick n).apply s).agenda = s.agenda := rfl
@[simp] theorem apply_clock_cycle : (Eff.clock.apply s).cycle = 0 := rfl
@[simp] theorem apply_clock_powers : (Eff.clock.apply s).powers = s.powers + 1 := rfl
@[simp] theorem apply_clock_mem : (Eff.clock.apply s).mem = s.mem := rfl
@[simp] theorem apply_clock_full : (Eff.clock.apply s).full = s.full := rfl
@[simp] theorem apply_clock_host : (Eff.clock.apply s).host = s.host := rfl
@[simp] theorem apply_clock_module : (Eff.clock.apply s).module = s.module := rfl
@[simp] theorem apply_clock_fused : (Eff.clock.apply s).fused = s.fused := rfl
@[simp] theorem apply_clock_serials : (Eff.clock.apply s).serials = s.serials := rfl
@[simp] theorem apply_clock_vds : (Eff.clock.apply s).vds = s.vds := rfl
@[simp] theorem apply_clock_isles : (Eff.clock.apply s).isles = s.isles := rfl
@[simp] theorem apply_clock_flights : (Eff.clock.apply s).flights = s.flights := rfl
@[simp] theorem apply_clock_nextId : (Eff.clock.apply s).nextId = s.nextId := rfl
@[simp] theorem apply_clock_free : (Eff.clock.apply s).free = s.free := rfl
@[simp] theorem apply_clock_cur : (Eff.clock.apply s).cur = s.cur := rfl
@[simp] theorem apply_clock_turn : (Eff.clock.apply s).turn = s.turn := rfl
@[simp] theorem apply_clock_cmd : (Eff.clock.apply s).cmd = s.cmd := rfl
@[simp] theorem apply_clock_tcmd : (Eff.clock.apply s).tcmd = s.tcmd := rfl
@[simp] theorem apply_clock_agenda : (Eff.clock.apply s).agenda = s.agenda := rfl
end

section
variable (s : State) (n : Nat)
@[simp] theorem apply_draw_cycle : ((Eff.draw n).apply s).cycle = s.cycle := rfl
@[simp] theorem apply_draw_powers : ((Eff.draw n).apply s).powers = s.powers := rfl
@[simp] theorem apply_draw_mem : ((Eff.draw n).apply s).mem = s.mem := rfl
@[simp] theorem apply_draw_full : ((Eff.draw n).apply s).full = s.full := rfl
@[simp] theorem apply_draw_host : ((Eff.draw n).apply s).host = s.host := rfl
@[simp] theorem apply_draw_module : ((Eff.draw n).apply s).module = s.module := rfl
@[simp] theorem apply_draw_fused : ((Eff.draw n).apply s).fused = s.fused := rfl
@[simp] theorem apply_draw_serials : ((Eff.draw n).apply s).serials = s.serials := rfl
@[simp] theorem apply_draw_vds : ((Eff.draw n).apply s).vds = s.vds := rfl
@[simp] theorem apply_draw_isles : ((Eff.draw n).apply s).isles = s.isles := rfl
@[simp] theorem apply_draw_flights : ((Eff.draw n).apply s).flights = s.flights := rfl
@[simp] theorem apply_draw_nextId : ((Eff.draw n).apply s).nextId = s.nextId := rfl
@[simp] theorem apply_draw_free : ((Eff.draw n).apply s).free = s.free + n := rfl
@[simp] theorem apply_draw_cur : ((Eff.draw n).apply s).cur = s.cur := rfl
@[simp] theorem apply_draw_turn : ((Eff.draw n).apply s).turn = s.turn := rfl
@[simp] theorem apply_draw_cmd : ((Eff.draw n).apply s).cmd = s.cmd := rfl
@[simp] theorem apply_draw_tcmd : ((Eff.draw n).apply s).tcmd = s.tcmd := rfl
@[simp] theorem apply_draw_agenda : ((Eff.draw n).apply s).agenda = s.agenda := rfl
end

section
variable (s : State) (n : Nat)
@[simp] theorem apply_fuse_cycle : ((Eff.fuse n).apply s).cycle = s.cycle := rfl
@[simp] theorem apply_fuse_powers : ((Eff.fuse n).apply s).powers = s.powers := rfl
@[simp] theorem apply_fuse_mem : ((Eff.fuse n).apply s).mem = s.mem := rfl
@[simp] theorem apply_fuse_full : ((Eff.fuse n).apply s).full = s.full := rfl
@[simp] theorem apply_fuse_host : ((Eff.fuse n).apply s).host = s.host := rfl
@[simp] theorem apply_fuse_module : ((Eff.fuse n).apply s).module = s.module := rfl
@[simp] theorem apply_fuse_fused : ((Eff.fuse n).apply s).fused = max s.fused n := rfl
@[simp] theorem apply_fuse_serials : ((Eff.fuse n).apply s).serials = s.serials := rfl
@[simp] theorem apply_fuse_vds : ((Eff.fuse n).apply s).vds = s.vds := rfl
@[simp] theorem apply_fuse_isles : ((Eff.fuse n).apply s).isles = s.isles := rfl
@[simp] theorem apply_fuse_flights : ((Eff.fuse n).apply s).flights = s.flights := rfl
@[simp] theorem apply_fuse_nextId : ((Eff.fuse n).apply s).nextId = s.nextId := rfl
@[simp] theorem apply_fuse_free : ((Eff.fuse n).apply s).free = s.free := rfl
@[simp] theorem apply_fuse_cur : ((Eff.fuse n).apply s).cur = s.cur := rfl
@[simp] theorem apply_fuse_turn : ((Eff.fuse n).apply s).turn = s.turn := rfl
@[simp] theorem apply_fuse_cmd : ((Eff.fuse n).apply s).cmd = s.cmd := rfl
@[simp] theorem apply_fuse_tcmd : ((Eff.fuse n).apply s).tcmd = s.tcmd := rfl
@[simp] theorem apply_fuse_agenda : ((Eff.fuse n).apply s).agenda = s.agenda := rfl
end

section
variable (s : State) (n : Nat)
@[simp] theorem apply_serial_cycle : ((Eff.serial n).apply s).cycle = s.cycle := rfl
@[simp] theorem apply_serial_powers : ((Eff.serial n).apply s).powers = s.powers := rfl
@[simp] theorem apply_serial_mem : ((Eff.serial n).apply s).mem = s.mem := rfl
@[simp] theorem apply_serial_full : ((Eff.serial n).apply s).full = s.full := rfl
@[simp] theorem apply_serial_host : ((Eff.serial n).apply s).host = s.host := rfl
@[simp] theorem apply_serial_module : ((Eff.serial n).apply s).module = s.module := rfl
@[simp] theorem apply_serial_fused : ((Eff.serial n).apply s).fused = s.fused := rfl
@[simp] theorem apply_serial_serials : ((Eff.serial n).apply s).serials = s.serials + n := rfl
@[simp] theorem apply_serial_vds : ((Eff.serial n).apply s).vds = s.vds := rfl
@[simp] theorem apply_serial_isles : ((Eff.serial n).apply s).isles = s.isles := rfl
@[simp] theorem apply_serial_flights : ((Eff.serial n).apply s).flights = s.flights := rfl
@[simp] theorem apply_serial_nextId : ((Eff.serial n).apply s).nextId = s.nextId := rfl
@[simp] theorem apply_serial_free : ((Eff.serial n).apply s).free = s.free := rfl
@[simp] theorem apply_serial_cur : ((Eff.serial n).apply s).cur = s.cur := rfl
@[simp] theorem apply_serial_turn : ((Eff.serial n).apply s).turn = s.turn := rfl
@[simp] theorem apply_serial_cmd : ((Eff.serial n).apply s).cmd = s.cmd := rfl
@[simp] theorem apply_serial_tcmd : ((Eff.serial n).apply s).tcmd = s.tcmd := rfl
@[simp] theorem apply_serial_agenda : ((Eff.serial n).apply s).agenda = s.agenda := rfl
end

section
variable (s : State) (t : Tid)
@[simp] theorem apply_cur_cycle : ((Eff.cur t).apply s).cycle = s.cycle := rfl
@[simp] theorem apply_cur_powers : ((Eff.cur t).apply s).powers = s.powers := rfl
@[simp] theorem apply_cur_mem : ((Eff.cur t).apply s).mem = s.mem := rfl
@[simp] theorem apply_cur_full : ((Eff.cur t).apply s).full = s.full := rfl
@[simp] theorem apply_cur_host : ((Eff.cur t).apply s).host = s.host := rfl
@[simp] theorem apply_cur_module : ((Eff.cur t).apply s).module = s.module := rfl
@[simp] theorem apply_cur_fused : ((Eff.cur t).apply s).fused = s.fused := rfl
@[simp] theorem apply_cur_serials : ((Eff.cur t).apply s).serials = s.serials := rfl
@[simp] theorem apply_cur_vds : ((Eff.cur t).apply s).vds = s.vds := rfl
@[simp] theorem apply_cur_isles : ((Eff.cur t).apply s).isles = s.isles := rfl
@[simp] theorem apply_cur_flights : ((Eff.cur t).apply s).flights = s.flights := rfl
@[simp] theorem apply_cur_nextId : ((Eff.cur t).apply s).nextId = s.nextId := rfl
@[simp] theorem apply_cur_free : ((Eff.cur t).apply s).free = s.free := rfl
@[simp] theorem apply_cur_cur : ((Eff.cur t).apply s).cur = t := rfl
@[simp] theorem apply_cur_turn : ((Eff.cur t).apply s).turn = s.turn := rfl
@[simp] theorem apply_cur_cmd : ((Eff.cur t).apply s).cmd = s.cmd := rfl
@[simp] theorem apply_cur_tcmd : ((Eff.cur t).apply s).tcmd = s.tcmd := rfl
@[simp] theorem apply_cur_agenda : ((Eff.cur t).apply s).agenda = s.agenda := rfl
end

section
variable (s : State) (id : Nat)
@[simp] theorem apply_turn_cycle : ((Eff.turn id).apply s).cycle = s.cycle := rfl
@[simp] theorem apply_turn_powers : ((Eff.turn id).apply s).powers = s.powers := rfl
@[simp] theorem apply_turn_mem : ((Eff.turn id).apply s).mem = s.mem := rfl
@[simp] theorem apply_turn_full : ((Eff.turn id).apply s).full = s.full := rfl
@[simp] theorem apply_turn_host : ((Eff.turn id).apply s).host = s.host := rfl
@[simp] theorem apply_turn_module : ((Eff.turn id).apply s).module = s.module := rfl
@[simp] theorem apply_turn_fused : ((Eff.turn id).apply s).fused = s.fused := rfl
@[simp] theorem apply_turn_serials : ((Eff.turn id).apply s).serials = s.serials := rfl
@[simp] theorem apply_turn_vds : ((Eff.turn id).apply s).vds = s.vds := rfl
@[simp] theorem apply_turn_isles : ((Eff.turn id).apply s).isles = s.isles := rfl
@[simp] theorem apply_turn_flights : ((Eff.turn id).apply s).flights = s.flights := rfl
@[simp] theorem apply_turn_nextId : ((Eff.turn id).apply s).nextId = s.nextId := rfl
@[simp] theorem apply_turn_free : ((Eff.turn id).apply s).free = s.free := rfl
@[simp] theorem apply_turn_cur : ((Eff.turn id).apply s).cur = s.cur := rfl
@[simp] theorem apply_turn_turn : ((Eff.turn id).apply s).turn = id := rfl
@[simp] theorem apply_turn_cmd : ((Eff.turn id).apply s).cmd = s.cmd := rfl
@[simp] theorem apply_turn_tcmd : ((Eff.turn id).apply s).tcmd = s.tcmd := rfl
@[simp] theorem apply_turn_agenda : ((Eff.turn id).apply s).agenda = s.agenda := rfl
end

section
variable (s : State) (c : Cmd)
@[simp] theorem apply_cmd_cycle : ((Eff.cmd c).apply s).cycle = s.cycle := rfl
@[simp] theorem apply_cmd_powers : ((Eff.cmd c).apply s).powers = s.powers := rfl
@[simp] theorem apply_cmd_mem : ((Eff.cmd c).apply s).mem = s.mem := rfl
@[simp] theorem apply_cmd_full : ((Eff.cmd c).apply s).full = s.full := rfl
@[simp] theorem apply_cmd_host : ((Eff.cmd c).apply s).host = s.host := rfl
@[simp] theorem apply_cmd_module : ((Eff.cmd c).apply s).module = s.module := rfl
@[simp] theorem apply_cmd_fused : ((Eff.cmd c).apply s).fused = s.fused := rfl
@[simp] theorem apply_cmd_serials : ((Eff.cmd c).apply s).serials = s.serials := rfl
@[simp] theorem apply_cmd_vds : ((Eff.cmd c).apply s).vds = s.vds := rfl
@[simp] theorem apply_cmd_isles : ((Eff.cmd c).apply s).isles = s.isles := rfl
@[simp] theorem apply_cmd_flights : ((Eff.cmd c).apply s).flights = s.flights := rfl
@[simp] theorem apply_cmd_nextId : ((Eff.cmd c).apply s).nextId = s.nextId := rfl
@[simp] theorem apply_cmd_free : ((Eff.cmd c).apply s).free = s.free := rfl
@[simp] theorem apply_cmd_cur : ((Eff.cmd c).apply s).cur = s.cur := rfl
@[simp] theorem apply_cmd_turn : ((Eff.cmd c).apply s).turn = s.turn := rfl
@[simp] theorem apply_cmd_cmd : ((Eff.cmd c).apply s).cmd = c := rfl
@[simp] theorem apply_cmd_tcmd : ((Eff.cmd c).apply s).tcmd = s.tcmd := rfl
@[simp] theorem apply_cmd_agenda : ((Eff.cmd c).apply s).agenda = s.agenda := rfl
end

section
variable (s : State) (c : TCmd)
@[simp] theorem apply_tcmd_cycle : ((Eff.tcmd c).apply s).cycle = s.cycle := rfl
@[simp] theorem apply_tcmd_powers : ((Eff.tcmd c).apply s).powers = s.powers := rfl
@[simp] theorem apply_tcmd_mem : ((Eff.tcmd c).apply s).mem = s.mem := rfl
@[simp] theorem apply_tcmd_full : ((Eff.tcmd c).apply s).full = s.full := rfl
@[simp] theorem apply_tcmd_host : ((Eff.tcmd c).apply s).host = s.host := rfl
@[simp] theorem apply_tcmd_module : ((Eff.tcmd c).apply s).module = s.module := rfl
@[simp] theorem apply_tcmd_fused : ((Eff.tcmd c).apply s).fused = s.fused := rfl
@[simp] theorem apply_tcmd_serials : ((Eff.tcmd c).apply s).serials = s.serials := rfl
@[simp] theorem apply_tcmd_vds : ((Eff.tcmd c).apply s).vds = s.vds := rfl
@[simp] theorem apply_tcmd_isles : ((Eff.tcmd c).apply s).isles = s.isles := rfl
@[simp] theorem apply_tcmd_flights : ((Eff.tcmd c).apply s).flights = s.flights := rfl
@[simp] theorem apply_tcmd_nextId : ((Eff.tcmd c).apply s).nextId = s.nextId := rfl
@[simp] theorem apply_tcmd_free : ((Eff.tcmd c).apply s).free = s.free := rfl
@[simp] theorem apply_tcmd_cur : ((Eff.tcmd c).apply s).cur = s.cur := rfl
@[simp] theorem apply_tcmd_turn : ((Eff.tcmd c).apply s).turn = s.turn := rfl
@[simp] theorem apply_tcmd_cmd : ((Eff.tcmd c).apply s).cmd = s.cmd := rfl
@[simp] theorem apply_tcmd_tcmd : ((Eff.tcmd c).apply s).tcmd = c := rfl
@[simp] theorem apply_tcmd_agenda : ((Eff.tcmd c).apply s).agenda = s.agenda := rfl
end

section
variable (s : State) (l : List Mover)
@[simp] theorem apply_agenda_cycle : ((Eff.agenda l).apply s).cycle = s.cycle := rfl
@[simp] theorem apply_agenda_powers : ((Eff.agenda l).apply s).powers = s.powers := rfl
@[simp] theorem apply_agenda_mem : ((Eff.agenda l).apply s).mem = s.mem := rfl
@[simp] theorem apply_agenda_full : ((Eff.agenda l).apply s).full = s.full := rfl
@[simp] theorem apply_agenda_host : ((Eff.agenda l).apply s).host = s.host := rfl
@[simp] theorem apply_agenda_module : ((Eff.agenda l).apply s).module = s.module := rfl
@[simp] theorem apply_agenda_fused : ((Eff.agenda l).apply s).fused = s.fused := rfl
@[simp] theorem apply_agenda_serials : ((Eff.agenda l).apply s).serials = s.serials := rfl
@[simp] theorem apply_agenda_vds : ((Eff.agenda l).apply s).vds = s.vds := rfl
@[simp] theorem apply_agenda_isles : ((Eff.agenda l).apply s).isles = s.isles := rfl
@[simp] theorem apply_agenda_flights : ((Eff.agenda l).apply s).flights = s.flights := rfl
@[simp] theorem apply_agenda_nextId : ((Eff.agenda l).apply s).nextId = s.nextId := rfl
@[simp] theorem apply_agenda_free : ((Eff.agenda l).apply s).free = s.free := rfl
@[simp] theorem apply_agenda_cur : ((Eff.agenda l).apply s).cur = s.cur := rfl
@[simp] theorem apply_agenda_turn : ((Eff.agenda l).apply s).turn = s.turn := rfl
@[simp] theorem apply_agenda_cmd : ((Eff.agenda l).apply s).cmd = s.cmd := rfl
@[simp] theorem apply_agenda_tcmd : ((Eff.agenda l).apply s).tcmd = s.tcmd := rfl
@[simp] theorem apply_agenda_agenda : ((Eff.agenda l).apply s).agenda = l := rfl
end

/-! ### The issuing slot's registers -/

section
variable (x : Slot) (r : SReg) (w : Word) (p : PReg) (m : Mask) (v : VReg) (y : VVal)

@[simp] theorem setS_live : (x.setS r w).live = x.live := by unfold Slot.setS; split <;> rfl
@[simp] theorem setS_v : (x.setS r w).v = x.v := by unfold Slot.setS; split <;> rfl
@[simp] theorem setS_p : (x.setS r w).p = x.p := by unfold Slot.setS; split <;> rfl
@[simp] theorem setS_pc : (x.setS r w).pc = x.pc := by unfold Slot.setS; split <;> rfl
@[simp] theorem setS_priv : (x.setS r w).priv = x.priv := by unfold Slot.setS; split <;> rfl
@[simp] theorem setS_tags : (x.setS r w).tags = x.tags := by unfold Slot.setS; split <;> rfl
@[simp] theorem setS_claim : (x.setS r w).claim = x.claim := by unfold Slot.setS; split <;> rfl
@[simp] theorem setS_gen : (x.setS r w).gen = x.gen := by unfold Slot.setS; split <;> rfl
@[simp] theorem setS_latch : (x.setS r w).latch = x.latch := by unfold Slot.setS; split <;> rfl
@[simp] theorem setS_fpflags : (x.setS r w).fpflags = x.fpflags := by unfold Slot.setS; split <;> rfl
@[simp] theorem setS_rmode : (x.setS r w).rmode = x.rmode := by unfold Slot.setS; split <;> rfl
@[simp] theorem setS_waitlim : (x.setS r w).waitlim = x.waitlim := by unfold Slot.setS; split <;> rfl
@[simp] theorem setS_trapcause : (x.setS r w).trapcause = x.trapcause := by unfold Slot.setS; split <;> rfl
@[simp] theorem setS_trappc : (x.setS r w).trappc = x.trappc := by unfold Slot.setS; split <;> rfl
@[simp] theorem setS_trapval : (x.setS r w).trapval = x.trapval := by unfold Slot.setS; split <;> rfl
@[simp] theorem setS_trapvec : (x.setS r w).trapvec = x.trapvec := by unfold Slot.setS; split <;> rfl
@[simp] theorem setS_trapst : (x.setS r w).trapst = x.trapst := by unfold Slot.setS; split <;> rfl
@[simp] theorem setS_tdim : (x.setS r w).tdim = x.tdim := by unfold Slot.setS; split <;> rfl
@[simp] theorem setS_adim : (x.setS r w).adim = x.adim := by unfold Slot.setS; split <;> rfl
@[simp] theorem setS_rank : (x.setS r w).rank = x.rank := by unfold Slot.setS; split <;> rfl
@[simp] theorem setS_tsize : (x.setS r w).tsize = x.tsize := by unfold Slot.setS; split <;> rfl
@[simp] theorem setS_mailbox : (x.setS r w).mailbox = x.mailbox := by unfold Slot.setS; split <;> rfl
@[simp] theorem setS_record : (x.setS r w).record = x.record := by unfold Slot.setS; split <;> rfl
@[simp] theorem setS_held : (x.setS r w).held = x.held := by unfold Slot.setS; split <;> rfl
@[simp] theorem setS_tokens : (x.setS r w).tokens = x.tokens := by unfold Slot.setS; split <;> rfl
@[simp] theorem setS_team : (x.setS r w).team = x.team := by unfold Slot.setS; split <;> rfl
@[simp] theorem setS_seq : (x.setS r w).seq = x.seq := by unfold Slot.setS; split <;> rfl
@[simp] theorem setS_halting : (x.setS r w).halting = x.halting := by unfold Slot.setS; split <;> rfl
@[simp] theorem setS_pend : (x.setS r w).pend = x.pend := by unfold Slot.setS; split <;> rfl
@[simp] theorem setS_ops : (x.setS r w).ops = x.ops := by unfold Slot.setS; split <;> rfl
@[simp] theorem setS_semWait : (x.setS r w).semWait = x.semWait := by unfold Slot.setS; split <;> rfl
@[simp] theorem setS_yielded : (x.setS r w).yielded = x.yielded := by unfold Slot.setS; split <;> rfl
@[simp] theorem setS_took : (x.setS r w).took = x.took := by unfold Slot.setS; split <;> rfl
@[simp] theorem setS_lapsed : (x.setS r w).lapsed = x.lapsed := by unfold Slot.setS; split <;> rfl
@[simp] theorem setS_hub : (x.setS r w).hub = x.hub := by unfold Slot.setS; split <;> rfl
@[simp] theorem setS_refusal : (x.setS r w).refusal = x.refusal := by unfold Slot.setS; split <;> rfl
@[simp] theorem setS_tokenless : (x.setS r w).tokenless = x.tokenless := by unfold Slot.setS; split <;> rfl
@[simp] theorem setS_traps : (x.setS r w).traps = x.traps := by unfold Slot.setS; split <;> rfl
@[simp] theorem setS_bootVec : (x.setS r w).bootVec = x.bootVec := by unfold Slot.setS; split <;> rfl
@[simp] theorem setS_away : (x.setS r w).away = x.away := by unfold Slot.setS; split <;> rfl
@[simp] theorem setS_born : (x.setS r w).born = x.born := by unfold Slot.setS; split <;> rfl
@[simp] theorem setP_live : (x.setP p m).live = x.live := by unfold Slot.setP; split <;> rfl
@[simp] theorem setP_s : (x.setP p m).s = x.s := by unfold Slot.setP; split <;> rfl
@[simp] theorem setP_v : (x.setP p m).v = x.v := by unfold Slot.setP; split <;> rfl
@[simp] theorem setP_pc : (x.setP p m).pc = x.pc := by unfold Slot.setP; split <;> rfl
@[simp] theorem setP_priv : (x.setP p m).priv = x.priv := by unfold Slot.setP; split <;> rfl
@[simp] theorem setP_tags : (x.setP p m).tags = x.tags := by unfold Slot.setP; split <;> rfl
@[simp] theorem setP_claim : (x.setP p m).claim = x.claim := by unfold Slot.setP; split <;> rfl
@[simp] theorem setP_gen : (x.setP p m).gen = x.gen := by unfold Slot.setP; split <;> rfl
@[simp] theorem setP_latch : (x.setP p m).latch = x.latch := by unfold Slot.setP; split <;> rfl
@[simp] theorem setP_fpflags : (x.setP p m).fpflags = x.fpflags := by unfold Slot.setP; split <;> rfl
@[simp] theorem setP_rmode : (x.setP p m).rmode = x.rmode := by unfold Slot.setP; split <;> rfl
@[simp] theorem setP_waitlim : (x.setP p m).waitlim = x.waitlim := by unfold Slot.setP; split <;> rfl
@[simp] theorem setP_trapcause : (x.setP p m).trapcause = x.trapcause := by unfold Slot.setP; split <;> rfl
@[simp] theorem setP_trappc : (x.setP p m).trappc = x.trappc := by unfold Slot.setP; split <;> rfl
@[simp] theorem setP_trapval : (x.setP p m).trapval = x.trapval := by unfold Slot.setP; split <;> rfl
@[simp] theorem setP_trapvec : (x.setP p m).trapvec = x.trapvec := by unfold Slot.setP; split <;> rfl
@[simp] theorem setP_trapst : (x.setP p m).trapst = x.trapst := by unfold Slot.setP; split <;> rfl
@[simp] theorem setP_tdim : (x.setP p m).tdim = x.tdim := by unfold Slot.setP; split <;> rfl
@[simp] theorem setP_adim : (x.setP p m).adim = x.adim := by unfold Slot.setP; split <;> rfl
@[simp] theorem setP_rank : (x.setP p m).rank = x.rank := by unfold Slot.setP; split <;> rfl
@[simp] theorem setP_tsize : (x.setP p m).tsize = x.tsize := by unfold Slot.setP; split <;> rfl
@[simp] theorem setP_mailbox : (x.setP p m).mailbox = x.mailbox := by unfold Slot.setP; split <;> rfl
@[simp] theorem setP_record : (x.setP p m).record = x.record := by unfold Slot.setP; split <;> rfl
@[simp] theorem setP_held : (x.setP p m).held = x.held := by unfold Slot.setP; split <;> rfl
@[simp] theorem setP_tokens : (x.setP p m).tokens = x.tokens := by unfold Slot.setP; split <;> rfl
@[simp] theorem setP_team : (x.setP p m).team = x.team := by unfold Slot.setP; split <;> rfl
@[simp] theorem setP_seq : (x.setP p m).seq = x.seq := by unfold Slot.setP; split <;> rfl
@[simp] theorem setP_halting : (x.setP p m).halting = x.halting := by unfold Slot.setP; split <;> rfl
@[simp] theorem setP_pend : (x.setP p m).pend = x.pend := by unfold Slot.setP; split <;> rfl
@[simp] theorem setP_ops : (x.setP p m).ops = x.ops := by unfold Slot.setP; split <;> rfl
@[simp] theorem setP_semWait : (x.setP p m).semWait = x.semWait := by unfold Slot.setP; split <;> rfl
@[simp] theorem setP_yielded : (x.setP p m).yielded = x.yielded := by unfold Slot.setP; split <;> rfl
@[simp] theorem setP_took : (x.setP p m).took = x.took := by unfold Slot.setP; split <;> rfl
@[simp] theorem setP_lapsed : (x.setP p m).lapsed = x.lapsed := by unfold Slot.setP; split <;> rfl
@[simp] theorem setP_hub : (x.setP p m).hub = x.hub := by unfold Slot.setP; split <;> rfl
@[simp] theorem setP_refusal : (x.setP p m).refusal = x.refusal := by unfold Slot.setP; split <;> rfl
@[simp] theorem setP_tokenless : (x.setP p m).tokenless = x.tokenless := by unfold Slot.setP; split <;> rfl
@[simp] theorem setP_traps : (x.setP p m).traps = x.traps := by unfold Slot.setP; split <;> rfl
@[simp] theorem setP_bootVec : (x.setP p m).bootVec = x.bootVec := by unfold Slot.setP; split <;> rfl
@[simp] theorem setP_away : (x.setP p m).away = x.away := by unfold Slot.setP; split <;> rfl
@[simp] theorem setP_born : (x.setP p m).born = x.born := by unfold Slot.setP; split <;> rfl
@[simp] theorem setV_live : (x.setV v y).live = x.live := rfl
@[simp] theorem setV_s : (x.setV v y).s = x.s := rfl
@[simp] theorem setV_p : (x.setV v y).p = x.p := rfl
@[simp] theorem setV_pc : (x.setV v y).pc = x.pc := rfl
@[simp] theorem setV_priv : (x.setV v y).priv = x.priv := rfl
@[simp] theorem setV_tags : (x.setV v y).tags = x.tags := rfl
@[simp] theorem setV_claim : (x.setV v y).claim = x.claim := rfl
@[simp] theorem setV_gen : (x.setV v y).gen = x.gen := rfl
@[simp] theorem setV_latch : (x.setV v y).latch = x.latch := rfl
@[simp] theorem setV_fpflags : (x.setV v y).fpflags = x.fpflags := rfl
@[simp] theorem setV_rmode : (x.setV v y).rmode = x.rmode := rfl
@[simp] theorem setV_waitlim : (x.setV v y).waitlim = x.waitlim := rfl
@[simp] theorem setV_trapcause : (x.setV v y).trapcause = x.trapcause := rfl
@[simp] theorem setV_trappc : (x.setV v y).trappc = x.trappc := rfl
@[simp] theorem setV_trapval : (x.setV v y).trapval = x.trapval := rfl
@[simp] theorem setV_trapvec : (x.setV v y).trapvec = x.trapvec := rfl
@[simp] theorem setV_trapst : (x.setV v y).trapst = x.trapst := rfl
@[simp] theorem setV_tdim : (x.setV v y).tdim = x.tdim := rfl
@[simp] theorem setV_adim : (x.setV v y).adim = x.adim := rfl
@[simp] theorem setV_rank : (x.setV v y).rank = x.rank := rfl
@[simp] theorem setV_tsize : (x.setV v y).tsize = x.tsize := rfl
@[simp] theorem setV_mailbox : (x.setV v y).mailbox = x.mailbox := rfl
@[simp] theorem setV_record : (x.setV v y).record = x.record := rfl
@[simp] theorem setV_held : (x.setV v y).held = x.held := rfl
@[simp] theorem setV_tokens : (x.setV v y).tokens = x.tokens := rfl
@[simp] theorem setV_team : (x.setV v y).team = x.team := rfl
@[simp] theorem setV_seq : (x.setV v y).seq = x.seq := rfl
@[simp] theorem setV_halting : (x.setV v y).halting = x.halting := rfl
@[simp] theorem setV_pend : (x.setV v y).pend = x.pend := rfl
@[simp] theorem setV_ops : (x.setV v y).ops = x.ops := rfl
@[simp] theorem setV_semWait : (x.setV v y).semWait = x.semWait := rfl
@[simp] theorem setV_yielded : (x.setV v y).yielded = x.yielded := rfl
@[simp] theorem setV_took : (x.setV v y).took = x.took := rfl
@[simp] theorem setV_lapsed : (x.setV v y).lapsed = x.lapsed := rfl
@[simp] theorem setV_hub : (x.setV v y).hub = x.hub := rfl
@[simp] theorem setV_refusal : (x.setV v y).refusal = x.refusal := rfl
@[simp] theorem setV_tokenless : (x.setV v y).tokenless = x.tokenless := rfl
@[simp] theorem setV_traps : (x.setV v y).traps = x.traps := rfl
@[simp] theorem setV_bootVec : (x.setV v y).bootVec = x.bootVec := rfl
@[simp] theorem setV_away : (x.setV v y).away = x.away := rfl
@[simp] theorem setV_born : (x.setV v y).born = x.born := rfl
@[simp] theorem advance_live : (x.advance w).live = x.live := rfl
@[simp] theorem advance_s : (x.advance w).s = x.s := rfl
@[simp] theorem advance_v : (x.advance w).v = x.v := rfl
@[simp] theorem advance_p : (x.advance w).p = x.p := rfl
@[simp] theorem advance_pc : (x.advance w).pc = w := rfl
@[simp] theorem advance_priv : (x.advance w).priv = x.priv := rfl
@[simp] theorem advance_tags : (x.advance w).tags = x.tags := rfl
@[simp] theorem advance_claim : (x.advance w).claim = x.claim := rfl
@[simp] theorem advance_gen : (x.advance w).gen = x.gen := rfl
@[simp] theorem advance_latch : (x.advance w).latch = x.latch := rfl
@[simp] theorem advance_fpflags : (x.advance w).fpflags = x.fpflags := rfl
@[simp] theorem advance_rmode : (x.advance w).rmode = x.rmode := rfl
@[simp] theorem advance_waitlim : (x.advance w).waitlim = x.waitlim := rfl
@[simp] theorem advance_trapcause : (x.advance w).trapcause = x.trapcause := rfl
@[simp] theorem advance_trappc : (x.advance w).trappc = x.trappc := rfl
@[simp] theorem advance_trapval : (x.advance w).trapval = x.trapval := rfl
@[simp] theorem advance_trapvec : (x.advance w).trapvec = x.trapvec := rfl
@[simp] theorem advance_trapst : (x.advance w).trapst = x.trapst := rfl
@[simp] theorem advance_tdim : (x.advance w).tdim = x.tdim := rfl
@[simp] theorem advance_adim : (x.advance w).adim = x.adim := rfl
@[simp] theorem advance_rank : (x.advance w).rank = x.rank := rfl
@[simp] theorem advance_tsize : (x.advance w).tsize = x.tsize := rfl
@[simp] theorem advance_mailbox : (x.advance w).mailbox = x.mailbox := rfl
@[simp] theorem advance_record : (x.advance w).record = x.record := rfl
@[simp] theorem advance_held : (x.advance w).held = x.held := rfl
@[simp] theorem advance_tokens : (x.advance w).tokens = x.tokens := rfl
@[simp] theorem advance_team : (x.advance w).team = x.team := rfl
@[simp] theorem advance_seq : (x.advance w).seq = x.seq + 1 := rfl
@[simp] theorem advance_halting : (x.advance w).halting = x.halting := rfl
@[simp] theorem advance_pend : (x.advance w).pend = x.pend := rfl
@[simp] theorem advance_ops : (x.advance w).ops = x.ops := rfl
@[simp] theorem advance_semWait : (x.advance w).semWait = none := rfl
@[simp] theorem advance_yielded : (x.advance w).yielded = x.yielded := rfl
@[simp] theorem advance_took : (x.advance w).took = none := rfl
@[simp] theorem advance_lapsed : (x.advance w).lapsed = false := rfl
@[simp] theorem advance_hub : (x.advance w).hub = none := rfl
@[simp] theorem advance_refusal : (x.advance w).refusal = x.refusal := rfl
@[simp] theorem advance_tokenless : (x.advance w).tokenless = x.tokenless := rfl
@[simp] theorem advance_traps : (x.advance w).traps = x.traps := rfl
@[simp] theorem advance_bootVec : (x.advance w).bootVec = x.bootVec := rfl
@[simp] theorem advance_away : (x.advance w).away = x.away := rfl
@[simp] theorem advance_born : (x.advance w).born = x.born := rfl
end

end Sys2Proof.Machine
end

