-- ==== Sys2Proof/Laws/Steps.lean ====
section
/-! SUPPORT. What a step can do at all: every meaning is a list of effects or nothing to do, and every effect keeps
the invariant and takes nothing back. -/

namespace Sys2Proof.Machine

theorem applyAll_append (l k : List Eff) (s : State) : applyAll (l ++ k) s = applyAll k (applyAll l s) := by
  induction l generalizing s with
  | nil => rfl
  | cons e l ih => exact ih _

/-- A step answers with its effects, or, where it has nothing to do, with a note of that. -/
theorem run_next (p : Plan) (s t : State) :
    run p s = .next t ↔ (∃ es, p = .ok es ∧ t = applyAll es s) ∨ ((∃ r, p = .error r) ∧ t = { s with still := true }) := by
  cases p <;> simp [run, eq_comm]

/-- Every meaning is the run of a plan. -/
theorem exec_run (i : Instr) (s : State) : ∃ p, exec i s = run p s := by
  cases i <;> first | exact ⟨_, rfl⟩ | exact ⟨.ok _, rfl⟩

/-- Where an instruction answers a next state, that state is the effects of a list applied in order, or it notes that there
was nothing to do. -/
theorem exec_next (i : Instr) (s t : State) (h : exec i s = .next t) :
    (∃ es, t = applyAll es s) ∨ t = { s with still := true } := by
  obtain ⟨p, hp⟩ := exec_run i s
  rw [hp, run_next] at h
  exact h.imp (fun ⟨es, _, e⟩ => ⟨es, e⟩) And.right

/-- Every instruction answers a next state. -/
theorem exec_answers (i : Instr) (s : State) : ∃ t, exec i s = .next t := by
  obtain ⟨p, hp⟩ := exec_run i s
  rw [hp]
  cases p <;> exact ⟨_, rfl⟩

/-- No step ends in a fault. -/
theorem exec_fault (i : Instr) (s : State) (r : Fault) : exec i s ≠ .fault r := nomatch r

/-! ### Each effect -/

/-- Virtual devices stay under their numbers when one of them is put back. -/
theorem named_put (l : List (Nat × VD)) (a : Nat) (y : VD) (hy : y.vf = a) (h : ∀ e ∈ l, e.2.vf = e.1) :
    ∀ e ∈ put l a y, e.2.vf = e.1 := by
  intro e he
  rcases mem_put l a y e he with rfl | he
  · exact hy
  · exact h e he

theorem Eff.apply_inv (e : Eff) (s : State) (h : s.Inv) : (e.apply s).Inv := by
  obtain ⟨h1, h2, h3, h4, h5, h6, hn, h7⟩ := h
  cases e with
  | slot t g =>
    simp only [Eff.apply]; split
    · exact ⟨h1, h2, h3, h4, h5, h6, hn, h7⟩
    · rename_i v hv
      exact ⟨h1, h2, h3, h4, h5, keys_put _ _ _ h6, named_put _ _ _ (hn _ (mem_of_lookup _ _ _ hv)) hn, h7⟩
  | core vf off g =>
    simp only [Eff.apply]; split
    · exact ⟨h1, h2, h3, h4, h5, h6, hn, h7⟩
    · rename_i v hv
      exact ⟨h1, h2, h3, h4, h5, keys_put _ _ _ h6, named_put _ _ _ (hn _ (mem_of_lookup _ _ _ hv)) hn, h7⟩
  | vd vf g =>
    simp only [Eff.apply]; split
    · exact ⟨h1, h2, h3, h4, h5, h6, hn, h7⟩
    · rename_i v hv
      exact ⟨h1, h2, h3, h4, h5, keys_put _ _ _ h6, named_put _ _ _ (hn _ (mem_of_lookup _ _ _ hv)) hn, h7⟩
  | newVd v => exact ⟨h1, h2, h3, h4, h5, keys_put _ _ _ h6, named_put _ _ _ rfl hn, h7⟩
  | dropVd vf =>
    exact ⟨h1, h2, h3, h4, h5, keys_erase _ _ h6, fun e he => hn e ((erase_sublist _ _).subset he), h7⟩
  | isle n g => exact ⟨h1, h2, h3, h4, h5, h6, hn, keys_put _ _ _ h7⟩
  | mem pa b => exact ⟨Memory.wf_writeCell _ _ _ h1, h2, h3, h4, h5, h6, hn, h7⟩
  | host a b => exact ⟨h1, Memory.wf_writeCell _ _ _ h2, h3, h4, h5, h6, hn, h7⟩
  | full w on =>
    refine ⟨h1, h2, ?_, h4, h5, h6, hn, h7⟩
    simp only [apply_full_full]
    split
    · exact sorted_setInsert _ _ h3
    · exact sorted_setErase _ _ h3
  | send t q d pk =>
    refine ⟨h1, h2, h3, ?_, ?_, h6, hn, h7⟩
    · simp only [apply_send_flights, List.map_append, List.map_cons, List.map_nil]
      refine List.pairwise_append.2 ⟨h4, by simp, ?_⟩
      intro a ha b hb
      obtain ⟨f, hf, rfl⟩ := List.mem_map.1 ha
      simp only [List.mem_singleton] at hb
      subst hb
      exact h5 f hf
    · intro f hf
      simp only [apply_send_flights, List.mem_append, List.mem_singleton, apply_send_nextId] at hf ⊢
      rcases hf with hf | rfl
      · exact Nat.lt_succ_of_lt (h5 f hf)
      · simp
  | drop id =>
    refine ⟨h1, h2, h3, ?_, ?_, h6, hn, h7⟩
    · exact h4.sublist (List.filter_sublist.map _)
    · intro f hf
      exact h5 f (List.mem_of_mem_filter hf)
  | swap id pk =>
    have he : ∀ f ∈ ((Eff.swap id pk).apply s).flights, ∃ g ∈ s.flights, f.id = g.id := by
      intro f hf
      simp only [apply_swap_flights, List.mem_map] at hf
      obtain ⟨g, hg, rfl⟩ := hf
      exact ⟨g, hg, by split <;> rfl⟩
    refine ⟨h1, h2, h3, ?_, fun f hf => ?_, h6, hn, h7⟩
    · have : ((Eff.swap id pk).apply s).flights.map (·.id) = s.flights.map (·.id) := by
        simp only [apply_swap_flights, List.map_map]
        exact List.map_congr_left fun f _ => by simp only [Function.comp_apply]; split <;> rfl
      rw [this]; exact h4
    · obtain ⟨g, hg, e⟩ := he f hf
      exact e ▸ h5 g hg
  | _ => exact ⟨h1, h2, h3, h4, h5, h6, hn, h7⟩

theorem applyAll_inv (l : List Eff) : ∀ s : State, s.Inv → (applyAll l s).Inv := by
  induction l with
  | nil => exact fun s h => h
  | cons e l ih => exact fun s h => ih _ (e.apply_inv s h)

theorem Forward.refl (s : State) : Forward s s := ⟨.inr ⟨rfl, le_refl _⟩, le_refl _, le_refl _, le_refl _, le_refl _⟩

theorem Forward.trans {s t u : State} (h : Forward s t) (k : Forward t u) : Forward s u :=
  ⟨by have := h.1; have := k.1; omega, h.2.trans k.2, h.3.trans k.3, h.4.trans k.4, h.5.trans k.5⟩

theorem Eff.apply_forward (e : Eff) (s : State) : Forward s (e.apply s) := by
  cases e <;> constructor <;> simp

theorem applyAll_forward (l : List Eff) : ∀ s : State, Forward s (applyAll l s) := by
  induction l with
  | nil => exact Forward.refl
  | cons e l ih => exact fun s => (e.apply_forward s).trans (ih _)

end Sys2Proof.Machine
end

