-- ==== Sys2Proof/Laws/Slots.lean ====
section
/-! SUPPORT. What slots, cores and virtual devices read as after an effect, and what an issuing instruction does. -/

namespace Sys2Proof.Machine

/-! ### Slots of a core -/

theorem Core.slotAt_setSlot_same (c : Core) (i : Nat) (x : Slot) : (c.setSlot i x).slotAt i = x := by
  simp [Core.slotAt, Core.setSlot]

theorem Core.slotAt_setSlot_other (c : Core) (i j : Nat) (x : Slot) (h : j % 4 ≠ i % 4) :
    (c.setSlot i x).slotAt j = c.slotAt j := by
  simp [Core.slotAt, Core.setSlot, Vector.getElem_set, h.symm]

theorem Core.setSlot_self (c : Core) (i : Nat) : c.setSlot i (c.slotAt i) = c := by
  simp [Core.setSlot, Core.slotAt]

/-! ### Virtual devices, cores and slots after an effect -/

theorem vdAt_slot_same (s : State) (t : Tid) (g : Slot → Slot) :
    ((Eff.slot t g).apply s).vdAt t.vf = (s.vdAt t.vf).map fun v =>
      { v with cores := put v.cores t.core ((v.coreAt t.core).setSlot t.slot (g ((v.coreAt t.core).slotAt t.slot))) } := by
  cases h : s.vdAt t.vf with
  | none => simp only [Eff.apply, h, Option.map_none]
  | some v =>
    simp only [Eff.apply, h, Option.map_some]
    exact lookup_put_same _ _ _

theorem vdAt_slot_other (s : State) (t : Tid) (g : Slot → Slot) (vf : Nat) (h : vf ≠ t.vf) :
    ((Eff.slot t g).apply s).vdAt vf = s.vdAt vf := by
  simp only [Eff.apply]
  split
  · rfl
  · exact lookup_put_other _ _ _ _ h

theorem vdAt_core_same (s : State) (vf off : Nat) (g : Core → Core) :
    ((Eff.core vf off g).apply s).vdAt vf = (s.vdAt vf).map fun v =>
      { v with cores := put v.cores off (g (v.coreAt off)) } := by
  cases h : s.vdAt vf with
  | none => simp only [Eff.apply, h, Option.map_none]
  | some v =>
    simp only [Eff.apply, h, Option.map_some]
    exact lookup_put_same _ _ _

theorem vdAt_core_other (s : State) (vf off : Nat) (g : Core → Core) (vf' : Nat) (h : vf' ≠ vf) :
    ((Eff.core vf off g).apply s).vdAt vf' = s.vdAt vf' := by
  simp only [Eff.apply]
  split
  · rfl
  · exact lookup_put_other _ _ _ _ h

theorem vdAt_vd_same (s : State) (vf : Nat) (g : VD → VD) :
    ((Eff.vd vf g).apply s).vdAt vf = (s.vdAt vf).map fun v => { g v with vf := v.vf } := by
  cases h : s.vdAt vf with
  | none => simp only [Eff.apply, h, Option.map_none]
  | some v =>
    simp only [Eff.apply, h, Option.map_some]
    exact lookup_put_same _ _ _

theorem vdAt_vd_other (s : State) (vf : Nat) (g : VD → VD) (vf' : Nat) (h : vf' ≠ vf) :
    ((Eff.vd vf g).apply s).vdAt vf' = s.vdAt vf' := by
  simp only [Eff.apply]
  split
  · rfl
  · exact lookup_put_other _ _ _ _ h

theorem coreAt_slot_same (s : State) (t : Tid) (g : Slot → Slot) (h : (s.vdAt t.vf).isSome = true) :
    ((Eff.slot t g).apply s).coreAt t.vf t.core = (s.coreAt t.vf t.core).setSlot t.slot (g (s.slotOf t)) := by
  obtain ⟨v, hv⟩ := Option.isSome_iff_exists.1 h
  simp [State.coreAt, State.slotOf, vdAt_slot_same, hv, VD.coreAt, lookup_put_same]

theorem coreAt_slot_other (s : State) (t : Tid) (g : Slot → Slot) (vf off : Nat) (h : vf ≠ t.vf ∨ off ≠ t.core) :
    ((Eff.slot t g).apply s).coreAt vf off = s.coreAt vf off := by
  by_cases e : vf = t.vf
  · subst e
    have h : off ≠ t.core := h.resolve_left (· rfl)
    simp only [State.coreAt, vdAt_slot_same]
    cases s.vdAt t.vf <;> simp [VD.coreAt, lookup_put_other, h]
  · simp only [State.coreAt, vdAt_slot_other s t g vf e]

theorem coreAt_core_same (s : State) (vf off : Nat) (g : Core → Core) (h : (s.vdAt vf).isSome = true) :
    ((Eff.core vf off g).apply s).coreAt vf off = g (s.coreAt vf off) := by
  obtain ⟨v, hv⟩ := Option.isSome_iff_exists.1 h
  simp [State.coreAt, vdAt_core_same, hv, VD.coreAt, lookup_put_same]

theorem coreAt_core_other (s : State) (vf off : Nat) (g : Core → Core) (vf' off' : Nat) (h : vf' ≠ vf ∨ off' ≠ off) :
    ((Eff.core vf off g).apply s).coreAt vf' off' = s.coreAt vf' off' := by
  by_cases e : vf' = vf
  · subst e
    have h : off' ≠ off := h.resolve_left (· rfl)
    simp only [State.coreAt, vdAt_core_same]
    cases s.vdAt vf' <;> simp [VD.coreAt, lookup_put_other, h]
  · simp only [State.coreAt, vdAt_core_other s vf off g vf' e]

theorem slotOf_slot_same (s : State) (t : Tid) (g : Slot → Slot) (h : (s.vdAt t.vf).isSome = true) :
    ((Eff.slot t g).apply s).slotOf t = g (s.slotOf t) := by
  simp only [State.slotOf]
  rw [coreAt_slot_same s t g h, Core.slotAt_setSlot_same]
  rfl

theorem slotOf_slot_other (s : State) (t u : Tid) (g : Slot → Slot) (h : t.Other u) :
    ((Eff.slot t g).apply s).slotOf u = s.slotOf u := by
  simp only [State.slotOf]
  by_cases e : u.vf = t.vf ∧ u.core = t.core
  · obtain ⟨e1, e2⟩ := e
    have h : u.slot % 4 ≠ t.slot % 4 := by
      rcases h with h | h | h
      · exact absurd e1 h
      · exact absurd e2 h
      · exact h
    rw [e1, e2]
    by_cases hv : (s.vdAt t.vf).isSome = true
    · rw [coreAt_slot_same s t g hv, Core.slotAt_setSlot_other _ _ _ _ h]
    · have : s.vdAt t.vf = none := by simpa using hv
      simp only [Eff.apply, this]
  · rw [coreAt_slot_other s t g u.vf u.core (by tauto)]

theorem slotOf_core_other (s : State) (vf off : Nat) (g : Core → Core) (u : Tid) (h : u.vf ≠ vf ∨ u.core ≠ off) :
    ((Eff.core vf off g).apply s).slotOf u = s.slotOf u := by
  simp only [State.slotOf]
  rw [coreAt_core_other s vf off g u.vf u.core h]

theorem slotOf_core_same (s : State) (vf off k : Nat) (g : Core → Core) (h : (s.vdAt vf).isSome = true) :
    ((Eff.core vf off g).apply s).slotOf ⟨vf, off, k⟩ = (g (s.coreAt vf off)).slotAt k := by
  simp only [State.slotOf]
  rw [coreAt_core_same s vf off g h]

@[simp] theorem vdAt_send (s : State) (t : Tid) (q d : Nat) (pk : Packet) (vf : Nat) :
    ((Eff.send t q d pk).apply s).vdAt vf = s.vdAt vf := rfl

@[simp] theorem slotOf_send (s : State) (t : Tid) (q d : Nat) (pk : Packet) (u : Tid) :
    ((Eff.send t q d pk).apply s).slotOf u = s.slotOf u := rfl

@[simp] theorem coreAt_send (s : State) (t : Tid) (q d : Nat) (pk : Packet) (vf off : Nat) :
    ((Eff.send t q d pk).apply s).coreAt vf off = s.coreAt vf off := rfl

/-! ### Issuing -/

theorem applyAll_one (e : Eff) (s : State) : applyAll [e] s = e.apply s := rfl

theorem applyAll_cons (e : Eff) (l : List Eff) (s : State) : applyAll (e :: l) s = applyAll l (e.apply s) := rfl

/-- What an instruction does that issues. -/
theorem run_issuing (s : State) (h : s.Issues) (f : Tid → Slot → List Eff) :
    run (issuing s f) s = .next (applyAll (f s.cur s.here) s) := by
  simp [run, issuing, State.here, h.1, h.2]

/-- An instruction that answers a next state has issued, or there was no thread to issue it. -/
theorem issues_of_next (s t : State) (f : Tid → Slot → List Eff) (h : run (issuing s f) s = .next t) :
    (s.Issues ∧ t = applyAll (f s.cur s.here) s) ∨ (¬ s.Issues ∧ t = { s with still := true }) := by
  by_cases hi : s.Issues
  · rw [run_issuing s hi] at h
    exact .inl ⟨hi, (Host.Outcome.next.inj h).symm⟩
  · have e : issuing s f = .error _ := if_neg (by simpa [State.Issues] using hi)
    rw [e] at h
    exact .inr ⟨hi, (Host.Outcome.next.inj h).symm⟩

/-! Counting an instruction, or leaving its operation outstanding, touches no register. -/

theorem Slot.start_sameRegs (x : Slot) (o : Op) : x.sameRegs (x.start o) := by simp [Slot.sameRegs, Slot.start, Slot.advance]

theorem Slot.start_sameTrap (x : Slot) (o : Op) : x.sameTrap (x.start o) := by simp [Slot.sameTrap, Slot.start, Slot.advance]

theorem Slot.start_sameModes (x : Slot) (o : Op) : x.sameModes (x.start o) := by
  simp [Slot.sameModes, Slot.start, Slot.advance]

theorem slotOf_onSlot (s : State) (h : s.Issues) (g : Slot → Slot) : (s.onSlot g).slotOf s.cur = g s.here :=
  slotOf_slot_same s s.cur g h.2

theorem slotOf_retired (s : State) (h : s.Issues) (pc : Word) (g : Slot → Slot) :
    (s.retired pc g).slotOf s.cur = (g s.here).advance pc := slotOf_onSlot s h _

/-- A change of the issuing thread's slot leaves everything else. -/
theorem elsewhere_onSlot (s : State) (g : Slot → Slot) : s.Elsewhere (s.onSlot g) := by
  simp only [State.Elsewhere, State.Apart, State.SameMemory]
  simpa [State.onSlot] using fun u hu => slotOf_slot_other s s.cur u g hu

theorem elsewhere_retired (s : State) (pc : Word) (g : Slot → Slot) : s.Elsewhere (s.retired pc g) :=
  elsewhere_onSlot s _

/-- A packet sent changes nothing but what is in flight. -/
theorem apart_send (s t : State) (h : s.Apart t) (u : Tid) (q d : Nat) (pk : Packet) :
    s.Apart ((Eff.send u q d pk).apply t) := h

theorem apart_sends (l : List Eff) (hl : ∀ e ∈ l, ∃ u q d pk, e = .send u q d pk) (s : State) :
    ∀ t, s.Apart t → s.Apart (applyAll l t) := by
  induction l with
  | nil => exact fun t h => h
  | cons e l ih =>
    intro t h
    obtain ⟨u, q, d, pk, rfl⟩ := hl e (List.mem_cons_self ..)
    exact ih (fun e he => hl e (List.mem_cons_of_mem _ he)) _ (apart_send s t h u q d pk)

/-- An instruction that leaves an operation outstanding and sends one packet. -/
theorem start_send (s : State) (h : s.Issues) (o : Slot → Op) (n d : Nat) (pk : Packet)
    (hs : (o s.here).seq = s.here.seq) (hw : (o s.here).words = n) :
    let t := applyAll [.slot s.cur (fun x => x.start (o x)), .send s.cur s.here.seq d pk] s
    Started s t n (o s.here) ∧ Sent s t pk ∧ s.Apart t ∧ s.here.sameRegs (t.slotOf s.cur) ∧
      s.here.sameTrap (t.slotOf s.cur) ∧ s.here.sameModes (t.slotOf s.cur) := by
  intro t
  have e : t.slotOf s.cur = s.here.start (o s.here) := slotOf_slot_same s s.cur _ h.2
  unfold Started
  rw [e]
  refine ⟨⟨?_, rfl, ?_, hs⟩, ⟨_, List.mem_append_right _ (List.mem_singleton.2 rfl), rfl, rfl, rfl⟩, ?_,
    s.here.start_sameRegs _, s.here.start_sameTrap _, s.here.start_sameModes _⟩
  · simp [Slot.start, Slot.advance, hw]
  · exact List.mem_append_right _ (List.mem_singleton.2 rfl)
  · exact apart_send s _ (elsewhere_onSlot s _).1 _ _ _ _

/-- An instruction that leaves an operation outstanding and sends nothing. -/
theorem start_alone (s : State) (h : s.Issues) (o : Slot → Op) (n : Nat)
    (hs : (o s.here).seq = s.here.seq) (hw : (o s.here).words = n) :
    let t := applyAll [.slot s.cur (fun x => x.start (o x))] s
    Started s t n (o s.here) ∧ s.Elsewhere t ∧ s.here.sameRegs (t.slotOf s.cur) ∧
      s.here.sameTrap (t.slotOf s.cur) ∧ s.here.sameModes (t.slotOf s.cur) := by
  intro t
  have e : t.slotOf s.cur = s.here.start (o s.here) := slotOf_slot_same s s.cur _ h.2
  unfold Started
  rw [e]
  refine ⟨⟨?_, rfl, ?_, hs⟩, elsewhere_onSlot s _,
    s.here.start_sameRegs _, s.here.start_sameTrap _, s.here.start_sameModes _⟩
  · simp [Slot.start, Slot.advance, hw]
  · exact List.mem_append_right _ (List.mem_singleton.2 rfl)

/-! ### Registers -/

theorem Slot.rs_zero (x : Slot) : x.rs 0 = 0 := rfl

theorem Slot.rp_zero (x : Slot) : x.rp 0 = BitVec.allOnes 256 := rfl

theorem Slot.setS_zero (x : Slot) (w : Word) : x.setS 0 w = x := rfl

theorem Slot.setP_zero (x : Slot) (m : Mask) : x.setP 0 m = x := rfl

theorem Slot.rs_setS (x : Slot) (d r : SReg) (w : Word) (h : d ≠ 0) :
    (x.setS d w).rs r = if r = d then w else x.rs r := by
  simp only [Slot.rs, Slot.setS, if_neg h]
  by_cases e : r = d
  · subst e
    rw [if_neg h, if_pos rfl]
    exact Vector.getElem_set_self _
  · rw [if_neg e]
    have : d.toNat ≠ r.toNat := fun k => e (BitVec.eq_of_toNat_eq k.symm)
    simp [Vector.getElem_set, this]

theorem Slot.rp_setP (x : Slot) (d r : PReg) (m : Mask) (h : d ≠ 0) :
    (x.setP d m).rp r = if r = d then m else x.rp r := by
  simp only [Slot.rp, Slot.setP, if_neg h]
  by_cases e : r = d
  · subst e
    rw [if_neg h, if_pos rfl]
    exact Vector.getElem_set_self _
  · rw [if_neg e]
    have : d.toNat ≠ r.toNat := fun k => e (BitVec.eq_of_toNat_eq k.symm)
    simp [Vector.getElem_set, this]

theorem Slot.rs_setS_other (x : Slot) (d r : SReg) (w : Word) (h : r ≠ d) : (x.setS d w).rs r = x.rs r := by
  by_cases e : d = 0
  · subst e
    rfl
  · rw [Slot.rs_setS x d r w e, if_neg h]

theorem Slot.rp_setP_other (x : Slot) (d r : PReg) (m : Mask) (h : r ≠ d) : (x.setP d m).rp r = x.rp r := by
  by_cases e : d = 0
  · subst e
    rfl
  · rw [Slot.rp_setP x d r m e, if_neg h]

@[simp] theorem Slot.rs_advance (x : Slot) (pc : Word) (r : SReg) : (x.advance pc).rs r = x.rs r := rfl

@[simp] theorem Slot.rp_advance (x : Slot) (pc : Word) (r : PReg) : (x.advance pc).rp r = x.rp r := rfl

end Sys2Proof.Machine
end

