-- ==== Sys2Proof/Laws/Scalar.lean ====
section
/-! SUPPORT. What the shared operations of the scalar instructions do, and what a trap does. -/

namespace Sys2Proof.Machine

theorem scalarD_next (s : State) (h : s.Issues) (d : SReg) (val : Slot → Word) (n : Nat) :
    run (scalarD s d val n) s = .next (s.retired (s.here.after n) fun z => z.setS d (val s.here)) :=
  run_issuing s h _

theorem scalarD_of_next (s t : State) (d : SReg) (val : Slot → Word) (n : Nat)
    (h : run (scalarD s d val n) s = .next t) :
    (s.Issues ∧ t = s.retired (s.here.after n) fun z => z.setS d (val s.here)) ∨
      (¬ s.Issues ∧ t = { s with still := true }) := issues_of_next s t _ h

theorem predDAB_next (s : State) (h : s.Issues) (d a b : SReg) (f : Mask → Mask → Mask) :
    run (predDAB s d a b f) s = .next (s.retired (s.here.after 1) fun z =>
      z.setP (predReg d) (f (s.here.rp (predReg a)) (s.here.rp (predReg b)))) := run_issuing s h _

theorem predDAB_of_next (s t : State) (d a b : SReg) (f : Mask → Mask → Mask)
    (h : run (predDAB s d a b f) s = .next t) :
    (s.Issues ∧ t = s.retired (s.here.after 1) fun z =>
      z.setP (predReg d) (f (s.here.rp (predReg a)) (s.here.rp (predReg b)))) ∨
      (¬ s.Issues ∧ t = { s with still := true }) := issues_of_next s t _ h

/-- A change of one scalar register by the issuing thread. -/
theorem scalar_frame (s : State) (h : s.Issues) (pc w : Word) (d : SReg) :
    let t := s.retired pc fun z => z.setS d w
    let y := t.slotOf s.cur
    (∀ r, r ≠ d → y.rs r = s.here.rs r) ∧ y.p = s.here.p ∧ y.v = s.here.v ∧ y.fpflags = s.here.fpflags ∧
      s.here.sameTrap y ∧ s.here.sameModes y ∧ s.Elsewhere t := by
  intro t y
  have e : y = (s.here.setS d w).advance pc := slotOf_retired s h pc _
  rw [e]
  refine ⟨fun r hr => by simp [Slot.rs_setS_other _ _ _ _ hr], ?_, ?_, ?_, ?_, ?_, elsewhere_retired _ _ _⟩ <;>
    unfold Slot.setS Slot.advance <;> split <;> simp [Slot.sameTrap, Slot.sameModes]

/-- A change of one predicate by the issuing thread. -/
theorem pred_frame (s : State) (h : s.Issues) (pc : Word) (m : Mask) (d : PReg) :
    let t := s.retired pc fun z => z.setP d m
    let y := t.slotOf s.cur
    (∀ r, r ≠ d → y.rp r = s.here.rp r) ∧ y.s = s.here.s ∧ y.v = s.here.v ∧ y.fpflags = s.here.fpflags ∧
      s.here.sameTrap y ∧ s.here.sameModes y ∧ s.Elsewhere t := by
  intro t y
  have e : y = (s.here.setP d m).advance pc := slotOf_retired s h pc _
  rw [e]
  refine ⟨fun r hr => by simp [Slot.rp_setP_other _ _ _ _ hr], ?_, ?_, ?_, ?_, ?_, elsewhere_retired _ _ _⟩ <;>
    unfold Slot.setP Slot.advance <;> split <;> simp [Slot.sameTrap, Slot.sameModes]

/-- A trap of the issuing thread that enters its handler (R114) changes its slot alone. -/
theorem trap_enters (s : State) (h : s.CanTrap) (cause : Nat) (val : Word) (ilen : Nat) :
    applyAll (trap s s.cur cause val ilen) s =
      s.onSlot fun x => { x.enterTrap cause val ilen false false with
        seq := x.seq + 1, semWait := none, lapsed := false, hub := none, took := none } := by
  obtain ⟨h1, h2⟩ := h
  simp only [State.here] at h1 h2
  simp [trap, trapAt, h1, h2, applyAll, State.onSlot]

theorem trap_trapped (s : State) (hi : s.Issues) (h : s.CanTrap) (cause : Nat) (val : Word) (ilen : Nat) :
    Trapped s (applyAll (trap s s.cur cause val ilen) s) cause val ilen ∧
      s.Elsewhere (applyAll (trap s s.cur cause val ilen) s) := by
  rw [trap_enters s h]
  refine ⟨?_, elsewhere_onSlot s _⟩
  unfold Trapped
  rw [slotOf_onSlot s hi]
  simp [Slot.enterTrap, Slot.sameRegs]

end Sys2Proof.Machine
end

