-- ==== Sys2Proof/Laws/Access.lean ====
section
/-! SUPPORT. What translating an address changes, and what an instruction does whose accesses all lead to places. -/

namespace Sys2Proof.Machine

/-- An effect that touches no slot, no byte and nothing outside the virtual device: a cache is filled, a packet sent. -/
def Eff.Quiet : Eff → Prop
  | .core _ _ g => ∀ c, (g c).slots = c.slots
  | .vd _ g => ∀ v, (g v).cores = v.cores
  | .send .. => True
  | .draw _ => True
  | _ => False

/-- Two states that differ in caches, packets and free values only. -/
structure Near (s t : State) : Prop where
  slots : ∀ u, t.slotOf u = s.slotOf u
  mem : t.mem = s.mem
  host : t.host = s.host
  full : t.full = s.full
  module : t.module = s.module
  isles : t.isles = s.isles
  cycle : t.cycle = s.cycle
  cur : t.cur = s.cur
  vds : ∀ vf, (t.vdAt vf).isSome = (s.vdAt vf).isSome
  flights : ∀ f ∈ s.flights, f ∈ t.flights

theorem Near.refl (s : State) : Near s s := ⟨fun _ => rfl, rfl, rfl, rfl, rfl, rfl, rfl, rfl, fun _ => rfl, fun _ h => h⟩

theorem Near.trans {s t u : State} (h : Near s t) (k : Near t u) : Near s u :=
  ⟨fun x => (k.slots x).trans (h.slots x), k.mem.trans h.mem, k.host.trans h.host, k.full.trans h.full,
    k.module.trans h.module, k.isles.trans h.isles, k.cycle.trans h.cycle, k.cur.trans h.cur,
    fun x => (k.vds x).trans (h.vds x), fun f m => k.flights f (h.flights f m)⟩

theorem Core.slotAt_congr (c d : Core) (h : c.slots = d.slots) (i : Nat) : c.slotAt i = d.slotAt i := by
  simp only [Core.slotAt, h]

theorem Eff.near (e : Eff) (h : e.Quiet) (s : State) : Near s (e.apply s) := by
  cases e with
  | core vf off g =>
    refine ⟨fun u => ?_, by simp, by simp, by simp, by simp, by simp, by simp, by simp, fun v => ?_, by simp⟩
    · by_cases hu : u.vf = vf ∧ u.core = off
      · obtain ⟨h1, h2⟩ := hu
        by_cases hv : (s.vdAt vf).isSome = true
        · simp only [State.slotOf, h1, h2]
          rw [coreAt_core_same s vf off g hv]
          exact Core.slotAt_congr _ _ (h _) _
        · have : s.vdAt vf = none := by simpa using hv
          simp only [Eff.apply, this]
      · exact slotOf_core_other s vf off g u (by tauto)
    · by_cases hv : v = vf
      · rw [hv, vdAt_core_same, Option.isSome_map]
      · rw [vdAt_core_other s vf off g v hv]
  | vd vf g =>
    refine ⟨fun u => ?_, by simp, by simp, by simp, by simp, by simp, by simp, by simp, fun v => ?_, by simp⟩
    · have : ((Eff.vd vf g).apply s).coreAt u.vf u.core = s.coreAt u.vf u.core := by
        simp only [State.coreAt]
        by_cases hu : u.vf = vf
        · rw [hu, vdAt_vd_same]
          cases s.vdAt vf with
          | none => rfl
          | some v => simp only [Option.map_some, VD.coreAt, h v]
        · rw [vdAt_vd_other s vf g u.vf hu]
      simp only [State.slotOf, this]
    · by_cases hv : v = vf
      · rw [hv, vdAt_vd_same, Option.isSome_map]
      · rw [vdAt_vd_other s vf g v hv]
  | send t q d pk => exact ⟨fun _ => rfl, rfl, rfl, rfl, rfl, rfl, rfl, rfl, fun _ => rfl, by simp +contextual⟩
  | draw n => exact ⟨fun _ => rfl, rfl, rfl, rfl, rfl, rfl, rfl, rfl, fun _ => rfl, fun _ h => h⟩
  | _ => exact h.elim

theorem applyAll_near (l : List Eff) : ∀ s : State, (∀ e ∈ l, e.Quiet) → Near s (applyAll l s) := by
  induction l with
  | nil => exact fun s _ => Near.refl s
  | cons e l ih =>
    intro s h
    exact (e.near (h e (List.mem_cons_self ..)) s).trans (ih _ fun x hx => h x (List.mem_cons_of_mem _ hx))

/-! ### Translation -/

theorem look_quiet (k : Look) (vf core h : Nat) : ∀ e ∈ k.effs vf core h, e.Quiet := by
  intro e he
  unfold Look.effs at he
  split at he
  · split at he
    · cases he
    · rw [List.mem_singleton] at he
      subst he
      exact fun c => rfl
  · cases he

theorem probe_quiet (s : State) (vf : Nat) (v : VD) (r : Region) (m : MapDesc) (key : Nat) :
    ∀ e ∈ (s.probePage vf v r m key).2, e.Quiet := by
  intro e he
  simp only [State.probePage, List.mem_singleton] at he
  subst he
  intro w
  dsimp only
  split <;> rfl

theorem walk_quiet (s : State) (vf core va : Nat) : ∀ e ∈ (s.walk vf core va).2, e.Quiet := by
  have look := look_quiet (s.lookRegion vf core 0) vf core 0
  intro e he
  unfold State.walk at he
  cases hv : s.vdAt vf with
  | none => simp [hv] at he
  | some v =>
    simp only [hv] at he
    generalize hk : s.lookRegion vf core 0 = k at he look
    cases k with
    | frame n => simp at he
    | region r fill =>
      dsimp only at he
      cases hm : pageMap r with
      | none => exact look e (by simpa only [hm] using he)
      | some rm =>
        obtain ⟨r', m⟩ := rm
        simp only [hm] at he
        split at he
        · exact look e he
        · have probe := probe_quiet s vf v r' m (va / 2 ^ 16 % 2 ^ 40 * 2)
          generalize s.probePage vf v r' m (va / 2 ^ 16 % 2 ^ 40 * 2) = p at he probe
          obtain ⟨_ | x, es⟩ := p
          · have both : ∀ e ∈ (Look.region r fill).effs vf core 0 ++ es, e.Quiet := fun e h =>
              (List.mem_append.1 h).elim (look e) (probe e)
            dsimp only at he
            split at he
            · exact both e he
            · have probe' := probe_quiet (applyAll es s) vf (((applyAll es s).vdAt vf).getD v) r' m
                (va / 2 ^ 21 % 2 ^ 35 * 2 + 1)
              generalize (applyAll es s).probePage vf (((applyAll es s).vdAt vf).getD v) r' m
                (va / 2 ^ 21 % 2 ^ 35 * 2 + 1) = p' at he probe'
              obtain ⟨_ | y, es'⟩ := p' <;> exact (List.mem_append.1 he).elim (both e) (probe' e)
          · exact (List.mem_append.1 he).elim (look e) (probe e)

theorem stage1_quiet (s : State) (vf core va : Nat) : ∀ e ∈ (s.stage1 vf core va).2, e.Quiet := by
  intro e he
  unfold State.stage1 at he
  dsimp only at he
  split at he
  · cases he
  · cases he
  · split at he
    · rename_i p es hw
      rcases List.mem_append.1 he with he | he
      · exact walk_quiet _ _ _ _ e (by rw [hw]; exact he)
      · rw [List.mem_singleton] at he
        subst he
        intro c
        simp only [Core.fillTlb]
    · exact walk_quiet _ _ _ _ e he

/-- Decoding and translating an address fills caches and does nothing else. -/
theorem resolve_quiet (s : State) (vf self va size : Nat) (kind : AccKind) (priv tlb : Bool) :
    ∀ e ∈ (s.resolve vf self va size kind priv tlb).2, e.Quiet := by
  have key : ∀ e ∈ (if tlb = true then s.stage1 vf self va else s.walk vf self va).2, e.Quiet := by
    split
    · exact stage1_quiet s vf self va
    · exact walk_quiet s vf self va
  intro e he
  unfold State.resolve at he
  repeat' split at he
  all_goals first
    | (simp at he; done)
    | (rename_i hr; exact key e (by rw [hr]; exact he))

theorem routePart_quiet (s : State) (t : Tid) (priv : Bool) (p : Part) : ∀ e ∈ (s.routePart t priv p).2, e.Quiet := by
  intro e he
  unfold State.routePart at he
  have key := resolve_quiet s t.vf t.core p.va p.size p.kind priv true
  generalize s.resolve t.vf t.core p.va p.size p.kind priv true = r at he key
  obtain ⟨w, es⟩ := r
  cases w <;> exact key e he

theorem sendSums_quiet (s : State) (t : Tid) (vas : List Nat) : ∀ e ∈ s.sendSums t vas, e.Quiet := by
  intro e he
  unfold State.sendSums at he
  dsimp only at he
  rcases List.mem_append.1 he with he | he
  · obtain ⟨l, -, rfl⟩ := List.mem_map.1 he
    trivial
  · split at he
    · cases he
    · rw [List.mem_singleton] at he
      subst he
      exact fun c => rfl

theorem sendRouted_quiet (s : State) (t : Tid) (seq : Nat) (r : Part × Where × List Eff) :
    ∀ e ∈ s.sendRouted t seq r, e.Quiet := by
  intro e he
  unfold State.sendRouted at he
  split at he <;> first | (rw [List.mem_singleton] at he; subst he; trivial) | cases he

end Sys2Proof.Machine

namespace Sys2Proof.Machine

/-! ### An instruction whose accesses all lead to places -/

/-- A part that leads to a place where it may act is routed there. -/
theorem routePart_at (s : State) (p : Part) (q : Place) (g : Bool)
    (hl : s.leads p.va p.size p.kind = .at q g) (hp : s.canAct q p) :
    (s.routePart s.cur s.here.priv p).1 = .at q g := by
  unfold State.leads at hl
  unfold State.routePart
  generalize s.resolve s.cur.vf s.cur.core p.va p.size p.kind s.here.priv true = r at hl
  obtain ⟨w, es⟩ := r
  dsimp only at hl
  subst hl
  dsimp only
  rw [if_pos]
  cases p with
  | access a =>
    cases hop : a.op <;> simp only [State.canAct, hop] at hp ⊢ <;>
      (cases q <;> simp_all [hasFull, State.hasBits, State.takes, or_assoc])
  | atomic r => cases q <;> simp_all [State.allowsAtomic, State.canAct, Part.va]

theorem mem_routeAll (s : State) (t : Tid) (priv : Bool) (ps : List Part) (r : Part × Where × List Eff)
    (h : r ∈ s.routeAll t priv ps) :
    r.1 ∈ ps ∧ r.2.1 = (s.routePart t priv r.1).1 ∧ ∀ e ∈ r.2.2, e.Quiet := by
  unfold State.routeAll at h
  obtain ⟨⟨p, i⟩, hp, rfl⟩ := List.mem_map.1 h
  refine ⟨(List.mem_zipIdx hp).2.2 ▸ List.getElem_mem _, rfl, ?_⟩
  intro e he
  dsimp only at he
  split at he
  · cases he
  · exact routePart_quiet _ _ _ _ e he

theorem routeAll_fst (s : State) (t : Tid) (priv : Bool) (ps : List Part) :
    (s.routeAll t priv ps).map (·.1) = ps := by
  simp [State.routeAll, Function.comp_def]

theorem routed (s : State) (ps : List Part) (hl : s.AllLead ps) (r : Part × Where × List Eff)
    (hr : r ∈ s.routeAll s.cur s.here.priv ps) :
    ∃ q g, r.2.1 = .at q g ∧ s.leads r.1.va r.1.size r.1.kind = .at q g ∧ s.covered g r.1 := by
  obtain ⟨h1, h2, -⟩ := mem_routeAll _ _ _ _ _ hr
  obtain ⟨q, g, h3, h4, h5⟩ := hl r.1 h1
  exact ⟨q, g, h2.trans (routePart_at s r.1 q g h3 h4), h3, h5⟩

theorem no_trap (s : State) (ps : List Part) (hl : s.AllLead ps) :
    routeTrap s.here (s.routeAll s.cur s.here.priv ps) = none := by
  unfold routeTrap
  split
  · rename_i r hf
    obtain ⟨q, g, h1, -⟩ := routed s ps hl r (List.mem_of_find?_eq_some hf)
    have := List.find?_some hf
    simp [h1] at this
  · rw [Option.map_eq_none_iff, List.findSome?_eq_none_iff]
    intro r hr
    obtain ⟨q, g, h1, -, h3⟩ := routed s ps hl r hr
    obtain ⟨p, w, es⟩ := r
    dsimp only at h1 h3 ⊢
    subst h1
    cases g with
    | false => rfl
    | true =>
      cases p with
      | access a => cases hop : a.op <;> simp_all [State.covered, State.mayStore, lacksToken]
      | atomic r' => simp_all [State.covered, State.mayStore, lacksToken]

theorem replyNow_quiet (t : Tid) (seq : Nat) (o : Option Op) (left : Nat) : ∀ e ∈ replyNow t seq o left, e.Quiet := by
  intro e he
  unfold replyNow at he
  split at he
  · split at he
    · rw [List.mem_singleton] at he
      subst he
      trivial
    · cases he
  · cases he

/-- A packet sent among quiet effects is in flight afterwards. -/
theorem sent_of_mem (t : Tid) (q d : Nat) (pk : Packet) (l : List Eff) :
    ∀ s : State, (∀ e ∈ l, e.Quiet) → Eff.send t q d pk ∈ l →
      ∃ f ∈ (applyAll l s).flights, f.tid = t ∧ f.seq = q ∧ f.pk = pk := by
  induction l with
  | nil => exact fun s _ h => nomatch h
  | cons e l ih =>
    intro s hq hm
    have hq' := fun x hx => hq x (List.mem_cons_of_mem e hx)
    rcases List.mem_cons.1 hm with rfl | hm
    · exact ⟨_, (applyAll_near l _ hq').flights _ (List.mem_append_right _ (List.mem_singleton.2 rfl)), rfl, rfl, rfl⟩
    · exact ih _ hq' hm

/-- What an instruction leaves whose parts all lead to places. -/
theorem access_leads (s : State) (h : s.Issues) (words : Nat) (o : Option Op) (ps : List Part) (hl : s.AllLead ps) :
    let t := applyAll (s.access s.cur words o ps) s
    t.slotOf s.cur = s.here.takeOn words o ps.length false ∧ AllSent s t ps ∧ s.SameMemory t ∧
      (∀ u, s.cur.Other u → t.slotOf u = s.slotOf u) ∧ t.cycle = s.cycle ∧ t.module = s.module ∧ t.isles = s.isles := by
  have hheld : (s.routeAll s.cur s.here.priv ps).filterMap (heldPart s.here words) = [] := by
    rw [List.filterMap_eq_nil_iff]
    intro r hm
    obtain ⟨q, g, h1, -⟩ := routed s ps hl r hm
    simp [heldPart, h1]
  have hlen : (s.routeAll s.cur s.here.priv ps).length = ps.length := by
    have := congrArg List.length (routeAll_fst s s.cur s.here.priv ps)
    simpa using this
  intro t
  have ht : t = applyAll ((s.routeAll s.cur s.here.priv ps).flatMap (·.2.2) ++
      ([.slot s.cur (·.takeOn words o ps.length false)] ++
        (s.sendSums s.cur (sumReads (s.routeAll s.cur s.here.priv ps)) ++
          ((s.routeAll s.cur s.here.priv ps).flatMap (s.sendRouted s.cur s.here.seq) ++
            replyNow s.cur s.here.seq o ps.length)))) s := by
    show applyAll (s.access s.cur words o ps) s = _
    unfold State.access State.commit
    dsimp only
    rw [show s.slotOf s.cur = s.here from rfl, no_trap s ps hl]
    dsimp only
    rw [hheld]
    simp [hlen]
  rw [applyAll_append, applyAll_append, applyAll_one] at ht
  have h1 : Near s (applyAll ((s.routeAll s.cur s.here.priv ps).flatMap (·.2.2)) s) := by
    apply applyAll_near
    intro e he
    obtain ⟨r, hr, he⟩ := List.mem_flatMap.1 he
    exact (mem_routeAll _ _ _ _ _ hr).2.2 e he
  generalize applyAll ((s.routeAll s.cur s.here.priv ps).flatMap (·.2.2)) s = s1 at h1 ht
  have hv : (s1.vdAt s.cur.vf).isSome = true := (h1.vds _).trans h.2
  have h2 := slotOf_slot_same s1 s.cur (·.takeOn words o ps.length false) hv
  have h2' := fun u hu => slotOf_slot_other s1 s.cur u (·.takeOn words o ps.length false) hu
  rw [h1.slots] at h2
  have quiet : ∀ e ∈ s.sendSums s.cur (sumReads (s.routeAll s.cur s.here.priv ps)) ++
      ((s.routeAll s.cur s.here.priv ps).flatMap (s.sendRouted s.cur s.here.seq) ++
        replyNow s.cur s.here.seq o ps.length), e.Quiet := by
    intro e he
    rcases List.mem_append.1 he with he | he
    · exact sendSums_quiet _ _ _ e he
    · rcases List.mem_append.1 he with he | he
      · obtain ⟨r, hr, he⟩ := List.mem_flatMap.1 he
        exact sendRouted_quiet _ _ _ _ e he
      · exact replyNow_quiet _ _ _ _ e he
  have h3 : Near ((Eff.slot s.cur (·.takeOn words o ps.length false)).apply s1) t := by
    rw [ht]
    exact applyAll_near _ _ quiet
  refine ⟨(h3.slots _).trans h2, ?_, ⟨fun a => ?_, fun a => ?_, fun w => ?_⟩,
    fun u hu => (h3.slots u).trans ((h2' u hu).trans (h1.slots u)), ?_, ?_, ?_⟩
  · intro p hp
    rw [← routeAll_fst s s.cur s.here.priv ps] at hp
    obtain ⟨r, hr, rfl⟩ := List.mem_map.1 hp
    obtain ⟨q, g, hq, hq', -⟩ := routed s ps hl r hr
    refine ⟨q, g, hq', ?_⟩
    rw [ht]
    refine sent_of_mem s.cur s.here.seq 0 _ _ _ quiet ?_
    refine List.mem_append_right _ (List.mem_append_left _ (List.mem_flatMap.2 ⟨r, hr, ?_⟩))
    simp [State.sendRouted, hq]
  · rw [h3.mem, apply_slot_mem, h1.mem]
  · rw [h3.host, apply_slot_host, h1.host]
  · rw [h3.full, apply_slot_full, h1.full]
  · rw [h3.cycle, apply_slot_cycle, h1.cycle]
  · rw [h3.module, apply_slot_module, h1.module]
  · rw [h3.isles, apply_slot_isles, h1.isles]

end Sys2Proof.Machine
end

