-- ==== Sys2Proof/Laws/PerInstr.lean ====
section
/-! SUPPORT. One lemma for each constructor of Instr: the words that encode a well-formed instruction decode to it. -/

namespace Sys2Proof.Laws.Encoding

/-- Decoding the words of a well-formed instruction gives it back; a step that is no instruction has no words. -/
def Statement (i : Instr) : Prop := check i = none → ∀ w, encode i = some w → decode w = .ok i

theorem of_parse (i : Instr) (w : Window) (he : encode i = some w) (hp : parse w = .ok i) : Statement i := by
  intro hc w' hw
  rw [he] at hw
  cases hw
  simp [decode, hp, hc]

theorem none_of (i : Instr) (he : encode i = none) : Statement i := by
  intro _ w hw
  rw [he] at hw
  cases hw

/-! ### The fields of words (Tables 14.2 to 14.6) -/

theorem parse_short (w : Window) (op : BitVec 8) (h : w.extractLsb' 0 2 = 0#2) (ho : w.extractLsb' 2 8 = op)
    (hn : op ≠ 0x28#8) : parse w = parseShort op w := by simp [parse, h, ho, hn]

theorem ne_bit : (0#1 = 1#1) = False := by simp

theorem srWord_eq (fn : BitVec 7) (b a d : SReg) (op : BitVec 8) :
    srWord fn b a d op = fn ++ b ++ a ++ d ++ op ++ 0#2 := rfl

theorem siWord_eq (imm : BitVec 12) (a d : SReg) (op : BitVec 8) :
    siWord imm a d op = imm ++ a ++ d ++ op ++ 0#2 := rfl

theorem short_extract (w : BitVec 32) (k n : Nat) (h : k + n ≤ 32) :
    (short w).extractLsb' k n = w.extractLsb' k n := by
  ext i hi
  have : k + i < 32 := by omega
  simp only [BitVec.getElem_extractLsb', short]
  rw [BitVec.getLsbD_append]
  simp [this]

theorem field_high {n m : Nat} (x : BitVec n) (y : BitVec m) (k l : Nat) (h : m ≤ k) :
    (x ++ y).extractLsb' k l = x.extractLsb' (k - m) l := by
  ext i hi
  simp only [BitVec.getElem_extractLsb', BitVec.getLsbD_append]
  rw [if_neg (by simp; omega), show k + i - m = k - m + i by omega]

theorem field_low {n m : Nat} (x : BitVec n) (y : BitVec m) (k l : Nat) (h : k + l ≤ m) :
    (x ++ y).extractLsb' k l = y.extractLsb' k l := by
  ext i hi
  simp [BitVec.getLsbD_append]
  omega

theorem field_all {n : Nat} (x : BitVec n) : x.extractLsb' 0 n = x := by
  ext i hi
  simp

section
variable (fn : BitVec 7) (imm : BitVec 12) (b a d c te : SReg) (op : BitVec 8) (pos len1 : BitVec 6) (consume : BitVec 1)
  (scope cc : BitVec 3) (aop : BitVec 4) (off : BitVec 14) (far : BitVec 22) (i17 : BitVec 17)

theorem sr_len : (short (srWord fn b a d op)).extractLsb' 0 2 = 0#2 := by
  rw [short_extract _ _ _ (by decide), srWord_eq]
  rw [field_low _ _ _ _ (by decide), field_all]
theorem sr_op : (short (srWord fn b a d op)).extractLsb' 2 8 = op := by
  rw [short_extract _ _ _ (by decide), srWord_eq]
  repeat rw [field_high _ _ _ _ (by decide)]
  rw [field_low _ _ _ _ (by decide), field_all]
theorem sr_d : (short (srWord fn b a d op)).extractLsb' 10 5 = d := by
  rw [short_extract _ _ _ (by decide), srWord_eq]
  repeat rw [field_high _ _ _ _ (by decide)]
  rw [field_low _ _ _ _ (by decide), field_all]
theorem sr_a : (short (srWord fn b a d op)).extractLsb' 15 5 = a := by
  rw [short_extract _ _ _ (by decide), srWord_eq]
  repeat rw [field_high _ _ _ _ (by decide)]
  rw [field_low _ _ _ _ (by decide), field_all]
theorem sr_b : (short (srWord fn b a d op)).extractLsb' 20 5 = b := by
  rw [short_extract _ _ _ (by decide), srWord_eq]
  repeat rw [field_high _ _ _ _ (by decide)]
  rw [field_low _ _ _ _ (by decide), field_all]
theorem sr_fn : (short (srWord fn b a d op)).extractLsb' 25 7 = fn := by
  rw [short_extract _ _ _ (by decide), srWord_eq]
  repeat rw [field_high _ _ _ _ (by decide)]
  rw [field_all]
theorem si_len : (short (siWord imm a d op)).extractLsb' 0 2 = 0#2 := by
  rw [short_extract _ _ _ (by decide), siWord_eq]
  rw [field_low _ _ _ _ (by decide), field_all]
theorem si_op : (short (siWord imm a d op)).extractLsb' 2 8 = op := by
  rw [short_extract _ _ _ (by decide), siWord_eq]
  repeat rw [field_high _ _ _ _ (by decide)]
  rw [field_low _ _ _ _ (by decide), field_all]
theorem si_d : (short (siWord imm a d op)).extractLsb' 10 5 = d := by
  rw [short_extract _ _ _ (by decide), siWord_eq]
  repeat rw [field_high _ _ _ _ (by decide)]
  rw [field_low _ _ _ _ (by decide), field_all]
theorem si_a : (short (siWord imm a d op)).extractLsb' 15 5 = a := by
  rw [short_extract _ _ _ (by decide), siWord_eq]
  repeat rw [field_high _ _ _ _ (by decide)]
  rw [field_low _ _ _ _ (by decide), field_all]
theorem si_imm : (short (siWord imm a d op)).extractLsb' 20 12 = imm := by
  rw [short_extract _ _ _ (by decide), siWord_eq]
  repeat rw [field_high _ _ _ _ (by decide)]
  rw [field_all]
theorem sel_30_2 : (short (srWord (0#2 ++ c) b a d op)).extractLsb' 30 2 = 0#2 := by
  rw [short_extract _ _ _ (by decide), srWord_eq]
  repeat rw [field_high _ _ _ _ (by decide)]
  rw [field_all]
theorem sel_25_5 : (short (srWord (0#2 ++ c) b a d op)).extractLsb' 25 5 = c := by
  rw [short_extract _ _ _ (by decide), srWord_eq]
  repeat rw [field_high _ _ _ _ (by decide)]
  rw [field_low _ _ _ _ (by decide), field_all]
theorem bf_20_6 : (short (siWord (len1 ++ pos) a d op)).extractLsb' 20 6 = pos := by
  rw [short_extract _ _ _ (by decide), siWord_eq]
  repeat rw [field_high _ _ _ _ (by decide)]
  rw [field_low _ _ _ _ (by decide), field_all]
theorem bf_26_6 : (short (siWord (len1 ++ pos) a d op)).extractLsb' 26 6 = len1 := by
  rw [short_extract _ _ _ (by decide), siWord_eq]
  repeat rw [field_high _ _ _ _ (by decide)]
  rw [field_all]
theorem te_25_7 : (short (siWord (0#7 ++ te) a d op)).extractLsb' 25 7 = 0#7 := by
  rw [short_extract _ _ _ (by decide), siWord_eq]
  repeat rw [field_high _ _ _ _ (by decide)]
  rw [field_all]
theorem te_20_5 : (short (siWord (0#7 ++ te) a d op)).extractLsb' 20 5 = te := by
  rw [short_extract _ _ _ (by decide), siWord_eq]
  repeat rw [field_high _ _ _ _ (by decide)]
  rw [field_low _ _ _ _ (by decide), field_all]
theorem ldf_31_1 : (short (srWord (0#1 ++ consume ++ te) b a d op)).extractLsb' 31 1 = 0#1 := by
  rw [short_extract _ _ _ (by decide), srWord_eq]
  repeat rw [field_high _ _ _ _ (by decide)]
  rw [field_all]
theorem ldf_25_5 : (short (srWord (0#1 ++ consume ++ te) b a d op)).extractLsb' 25 5 = te := by
  rw [short_extract _ _ _ (by decide), srWord_eq]
  repeat rw [field_high _ _ _ _ (by decide)]
  rw [field_low _ _ _ _ (by decide), field_all]
theorem ldf_30_1 : (short (srWord (0#1 ++ consume ++ te) b a d op)).extractLsb' 30 1 = consume := by
  rw [short_extract _ _ _ (by decide), srWord_eq]
  repeat rw [field_high _ _ _ _ (by decide)]
  rw [field_low _ _ _ _ (by decide), field_all]
theorem amo_25_4 : (short (srWord (scope ++ aop) b a d op)).extractLsb' 25 4 = aop := by
  rw [short_extract _ _ _ (by decide), srWord_eq]
  repeat rw [field_high _ _ _ _ (by decide)]
  rw [field_low _ _ _ _ (by decide), field_all]
theorem amo_29_3 : (short (srWord (scope ++ aop) b a d op)).extractLsb' 29 3 = scope := by
  rw [short_extract _ _ _ (by decide), srWord_eq]
  repeat rw [field_high _ _ _ _ (by decide)]
  rw [field_all]
theorem cas_28_4 : (short (srWord (0#4 ++ scope) b a d op)).extractLsb' 28 4 = 0#4 := by
  rw [short_extract _ _ _ (by decide), srWord_eq]
  repeat rw [field_high _ _ _ _ (by decide)]
  rw [field_all]
theorem cas_25_3 : (short (srWord (0#4 ++ scope) b a d op)).extractLsb' 25 3 = scope := by
  rw [short_extract _ _ _ (by decide), srWord_eq]
  repeat rw [field_high _ _ _ _ (by decide)]
  rw [field_low _ _ _ _ (by decide), field_all]
theorem sc_29_3 : (short (siWord (0#9 ++ scope) a d op)).extractLsb' 29 3 = 0#3 := by
  rw [short_extract _ _ _ (by decide), siWord_eq]
  repeat rw [field_high _ _ _ _ (by decide)]
  decide
theorem sc_23_1 : (short (siWord (0#9 ++ scope) a d op)).extractLsb' 23 1 = 0#1 := by
  rw [short_extract _ _ _ (by decide), siWord_eq]
  repeat rw [field_high _ _ _ _ (by decide)]
  decide
theorem sc_24_5 : (short (siWord (0#9 ++ scope) a d op)).extractLsb' 24 5 = 0#5 := by
  rw [short_extract _ _ _ (by decide), siWord_eq]
  repeat rw [field_high _ _ _ _ (by decide)]
  decide
theorem sc_24_8 : (short (siWord (0#9 ++ scope) a d op)).extractLsb' 24 8 = 0#8 := by
  rw [short_extract _ _ _ (by decide), siWord_eq]
  repeat rw [field_high _ _ _ _ (by decide)]
  decide
theorem sc_23_9 : (short (siWord (0#9 ++ scope) a d op)).extractLsb' 23 9 = 0#9 := by
  rw [short_extract _ _ _ (by decide), siWord_eq]
  repeat rw [field_high _ _ _ _ (by decide)]
  rw [field_all]
theorem sc_20_3 : (short (siWord (0#9 ++ scope) a d op)).extractLsb' 20 3 = scope := by
  rw [short_extract _ _ _ (by decide), siWord_eq]
  repeat rw [field_high _ _ _ _ (by decide)]
  rw [field_low _ _ _ _ (by decide), field_all]
theorem acqw_29_3 : (short (siWord (0#3 ++ te ++ 1#1 ++ scope) a d op)).extractLsb' 29 3 = 0#3 := by
  rw [short_extract _ _ _ (by decide), siWord_eq]
  repeat rw [field_high _ _ _ _ (by decide)]
  rw [field_all]
theorem acqw_23_1 : (short (siWord (0#3 ++ te ++ 1#1 ++ scope) a d op)).extractLsb' 23 1 = 1#1 := by
  rw [short_extract _ _ _ (by decide), siWord_eq]
  repeat rw [field_high _ _ _ _ (by decide)]
  rw [field_low _ _ _ _ (by decide), field_all]
theorem acqw_24_5 : (short (siWord (0#3 ++ te ++ 1#1 ++ scope) a d op)).extractLsb' 24 5 = te := by
  rw [short_extract _ _ _ (by decide), siWord_eq]
  repeat rw [field_high _ _ _ _ (by decide)]
  rw [field_low _ _ _ _ (by decide), field_all]
theorem acqw_20_3 : (short (siWord (0#3 ++ te ++ 1#1 ++ scope) a d op)).extractLsb' 20 3 = scope := by
  rw [short_extract _ _ _ (by decide), siWord_eq]
  repeat rw [field_high _ _ _ _ (by decide)]
  rw [field_low _ _ _ _ (by decide), field_all]
theorem rely_24_8 : (short (siWord (0#8 ++ 1#1 ++ scope) a d op)).extractLsb' 24 8 = 0#8 := by
  rw [short_extract _ _ _ (by decide), siWord_eq]
  repeat rw [field_high _ _ _ _ (by decide)]
  rw [field_all]
theorem rely_23_1 : (short (siWord (0#8 ++ 1#1 ++ scope) a d op)).extractLsb' 23 1 = 1#1 := by
  rw [short_extract _ _ _ (by decide), siWord_eq]
  repeat rw [field_high _ _ _ _ (by decide)]
  rw [field_low _ _ _ _ (by decide), field_all]
theorem rely_20_3 : (short (siWord (0#8 ++ 1#1 ++ scope) a d op)).extractLsb' 20 3 = scope := by
  rw [short_extract _ _ _ (by decide), siWord_eq]
  repeat rw [field_high _ _ _ _ (by decide)]
  rw [field_low _ _ _ _ (by decide), field_all]
theorem zero_10_22 : (short (srWord 0#7 0#5 0#5 0#5 op)).extractLsb' 10 22 = 0#22 := by
  rw [short_extract _ _ _ (by decide), srWord_eq]
  repeat rw [field_high _ _ _ _ (by decide)]
  rw [field_all]
  decide
theorem br_0_2 : (short (off ++ cc ++ a ++ op ++ 0#2)).extractLsb' 0 2 = 0#2 := by
  rw [short_extract _ _ _ (by decide)]
  rw [field_low _ _ _ _ (by decide), field_all]
theorem br_2_8 : (short (off ++ cc ++ a ++ op ++ 0#2)).extractLsb' 2 8 = op := by
  rw [short_extract _ _ _ (by decide)]
  repeat rw [field_high _ _ _ _ (by decide)]
  rw [field_low _ _ _ _ (by decide), field_all]
theorem br_10_5 : (short (off ++ cc ++ a ++ op ++ 0#2)).extractLsb' 10 5 = a := by
  rw [short_extract _ _ _ (by decide)]
  repeat rw [field_high _ _ _ _ (by decide)]
  rw [field_low _ _ _ _ (by decide), field_all]
theorem br_15_3 : (short (off ++ cc ++ a ++ op ++ 0#2)).extractLsb' 15 3 = cc := by
  rw [short_extract _ _ _ (by decide)]
  repeat rw [field_high _ _ _ _ (by decide)]
  rw [field_low _ _ _ _ (by decide), field_all]
theorem br_18_14 : (short (off ++ cc ++ a ++ op ++ 0#2)).extractLsb' 18 14 = off := by
  rw [short_extract _ _ _ (by decide)]
  repeat rw [field_high _ _ _ _ (by decide)]
  rw [field_all]
theorem far_0_2 : (short (far ++ op ++ 0#2)).extractLsb' 0 2 = 0#2 := by
  rw [short_extract _ _ _ (by decide)]
  rw [field_low _ _ _ _ (by decide), field_all]
theorem far_2_8 : (short (far ++ op ++ 0#2)).extractLsb' 2 8 = op := by
  rw [short_extract _ _ _ (by decide)]
  repeat rw [field_high _ _ _ _ (by decide)]
  rw [field_low _ _ _ _ (by decide), field_all]
theorem far_10_22 : (short (far ++ op ++ 0#2)).extractLsb' 10 22 = far := by
  rw [short_extract _ _ _ (by decide)]
  repeat rw [field_high _ _ _ _ (by decide)]
  rw [field_all]
theorem ldi_0_2 : (short (i17 ++ d ++ op ++ 0#2)).extractLsb' 0 2 = 0#2 := by
  rw [short_extract _ _ _ (by decide)]
  rw [field_low _ _ _ _ (by decide), field_all]
theorem ldi_2_8 : (short (i17 ++ d ++ op ++ 0#2)).extractLsb' 2 8 = op := by
  rw [short_extract _ _ _ (by decide)]
  repeat rw [field_high _ _ _ _ (by decide)]
  rw [field_low _ _ _ _ (by decide), field_all]
theorem ldi_10_5 : (short (i17 ++ d ++ op ++ 0#2)).extractLsb' 10 5 = d := by
  rw [short_extract _ _ _ (by decide)]
  repeat rw [field_high _ _ _ _ (by decide)]
  rw [field_low _ _ _ _ (by decide), field_all]
theorem ldi_15_17 : (short (i17 ++ d ++ op ++ 0#2)).extractLsb' 15 17 = i17 := by
  rw [short_extract _ _ _ (by decide)]
  repeat rw [field_high _ _ _ _ (by decide)]
  rw [field_all]
end

theorem lv_fields (op : BitVec 8) (f : LV) : lvFields (lvWord op f) = f := by
  cases f
  simp only [lvFields, lvWord, LV.mk.injEq]
  repeat' apply And.intro
  all_goals (repeat first | rw [field_high _ _ _ _ (by decide)] | rw [field_low _ _ _ _ (by decide)])
  all_goals rw [field_all]

theorem lv_frame (op : BitVec 8) (f : LV) : (lvWord op f).extractLsb' 0 2 = 2#2 ∧ (lvWord op f).extractLsb' 2 8 = op ∧
    (lvWord op f).extractLsb' 62 2 = 0#2 := by
  simp only [lvWord]
  refine ⟨?_, ?_, ?_⟩ <;> ((repeat first | rw [field_high _ _ _ _ (by decide)] | rw [field_low _ _ _ _ (by decide)]); rw [field_all])

theorem lm_frame (op : BitVec 8) (f : LM) :
    (lmWord op f).extractLsb' 0 2 = (if f.lit.isSome then 3#2 else 2#2) ∧ (lmWord op f).extractLsb' 2 8 = op ∧
    (lmWord op f).extractLsb' 59 5 = 0#5 ∧ (lmWord op f).extractLsb' 90 6 = f.fn ∧
    (lmWord op f).extractLsb' 96 64 = f.lit.getD 0#64 := by
  simp only [lmWord]
  refine ⟨?_, ?_, ?_, ?_, ?_⟩ <;> ((repeat first | rw [field_high _ _ _ _ (by decide)] | rw [field_low _ _ _ _ (by decide)]); rw [field_all])

theorem lm_fields (op : BitVec 8) (f : LM) : lmFields (lmWord op f) = f := by
  obtain ⟨h0, -, -, -, h4⟩ := lm_frame op f
  cases f with
  | mk pd ta tc hint fmt sat sa sb sc v pg pgInv mode wq wt gq gv fn lit =>
    simp only [lmFields, LM.mk.injEq, h0, h4]
    repeat' apply And.intro
    -- a literal is there when the length field says so; every other field is a slice of the word
    all_goals first
      | (simp only [lmWord]; (repeat first | rw [field_high _ _ _ _ (by decide)] | rw [field_low _ _ _ _ (by decide)]); rw [field_all]; done)
      | (cases lit <;> simp)

theorem lv_parse (op : BitVec 8) (f : LV) (mk : LV → Instr) (h : lvOp op.toNat = some mk) :
    parse (lvWord op f) = .ok (mk f) := by
  obtain ⟨h0, h1, h2⟩ := lv_frame op f
  have h3 : op ≠ 0x28#8 ∨ True := .inr trivial
  simp [parse, h0, h1, h2, h, lv_fields]

theorem lm_parse (op : BitVec 8) (f : LM) (mk : LM → Instr) (hv : lvOp op.toNat = none) (h : lmOp op.toNat f.fn = some mk) :
    parse (lmWord op f) = .ok (mk f) := by
  obtain ⟨h0, h1, h2, h3, -⟩ := lm_frame op f
  unfold parse
  simp only [h0, h1, h2, h3, hv, h, lm_fields]
  cases f.lit <;> simp

theorem all_of_firstBad (l : List (Bool × Bad)) (h : firstBad l = none) : ∀ p ∈ l, p.1 = true := by
  induction l with
  | nil => intro p hp; cases hp
  | cons x rest ih =>
    obtain ⟨ok, b⟩ := x
    cases ok with
    | false => cases h
    | true =>
      intro p hp
      cases hp with
      | head => rfl
      | tail _ hp => exact ih h p hp

theorem own_of {k : Bool} {sa sb sc v : Field} {ty : Nat → Bool} {g m h s : Bool} {l : Literal} {own : Bool} {f : LM}
    (hc : checkLM k sa sb sc v ty g m h s l own f = none) : own = true :=
  all_of_firstBad _ hc (own, .sub) (by simp)

theorem of_decode (i : Instr) (w : Window) (he : encode i = some w) (h : check i = none → parse w = .ok i) :
    Statement i := by
  intro hc w' hw
  rw [he] at hw
  cases hw
  simp [decode, h hc, hc]

/-! ### One lemma for each constructor -/

set_option linter.unusedSimpArgs false

theorem recoveryWindowWrite (oob : Bool) (off : BitVec 20) (value : Word) : Statement (.recoveryWindowWrite oob off value) := none_of _ rfl
theorem holmSelfCheck (passed : Bool) : Statement (.holmSelfCheck passed) := none_of _ rfl
theorem functionReady (bit : BitVec 6) : Statement (.functionReady bit) := none_of _ rfl
theorem functionFailure (bit : BitVec 6) : Statement (.functionFailure bit) := none_of _ rfl
theorem narrowTrainingLoss (i j : BitVec 2) : Statement (.narrowTrainingLoss i j) := none_of _ rfl
theorem narrowRetrainComplete (i j : BitVec 2) : Statement (.narrowRetrainComplete i j) := none_of _ rfl
theorem narrowRetrainFailure (i j : BitVec 2) : Statement (.narrowRetrainFailure i j) := none_of _ rfl
theorem hostLinkTraining (lanes : Nat) (flit : Bool) : Statement (.hostLinkTraining lanes flit) := none_of _ rfl
theorem thermalSensorRead (die : BitVec 2) (tenths : Nat) : Statement (.thermalSensorRead die tenths) := none_of _ rfl
theorem powerMeasurement (watts : Nat) : Statement (.powerMeasurement watts) := none_of _ rfl
theorem mctpCommand (entry : BitVec 512) : Statement (.mctpCommand entry) := none_of _ rfl
theorem qtailDoorbell (fn : Nat) (value : Word) : Statement (.qtailDoorbell fn value) := none_of _ rfl
theorem cheadWrite (fn : Nat) (value : Word) : Statement (.cheadWrite fn value) := none_of _ rfl
theorem channelEnable (fn : Nat) : Statement (.channelEnable fn) := none_of _ rfl
theorem channelDisable (fn : Nat) : Statement (.channelDisable fn) := none_of _ rfl
theorem channelRegisterWrite (fn : Nat) (off : BitVec 16) (value : Word) : Statement (.channelRegisterWrite fn off value) := none_of _ rfl
theorem waysSetComplete (vf : Nat) : Statement (.waysSetComplete vf) := none_of _ rfl
theorem tenantEntryRefused (vf : Nat) (entry : BitVec 1024) : Statement (.tenantEntryRefused vf entry) := none_of _ rfl
theorem hostTransferPiece (vf : Nat) : Statement (.hostTransferPiece vf) := none_of _ rfl
theorem noticePost (vf : Nat) : Statement (.noticePost vf) := none_of _ rfl
theorem pauseLimitExpiry (vf : Nat) : Statement (.pauseLimitExpiry vf) := none_of _ rfl
theorem frameWaitExpiry (vf : Nat) (frame : Nat) : Statement (.frameWaitExpiry vf frame) := none_of _ rfl
theorem spdmSessionOpen (fn : Nat) (compatible : Bool) : Statement (.spdmSessionOpen fn compatible) := none_of _ rfl
theorem spdmGetMeasurements (fn : Nat) : Statement (.spdmGetMeasurements fn) := none_of _ rfl
theorem setPolicy (vf : Nat) (bytes : List Byte) : Statement (.setPolicy vf bytes) := none_of _ rfl
theorem approveImage (vf : Nat) (digest : BitVec 256) (sig : BitVec 512) : Statement (.approveImage vf digest sig) := none_of _ rfl
theorem startInterfaceRequest (vf : Nat) : Statement (.startInterfaceRequest vf) := none_of _ rfl
theorem stopInterfaceRequest (vf : Nat) : Statement (.stopInterfaceRequest vf) := none_of _ rfl
theorem functionLevelReset (vf : Nat) : Statement (.functionLevelReset vf) := none_of _ rfl
theorem nodePlace (die : BitVec 2) : Statement (.nodePlace die) := none_of _ rfl
theorem nodeLaunch (n : NodeRef) : Statement (.nodeLaunch n) := none_of _ rfl
theorem nodeSteal (die : BitVec 2) (n : NodeRef) : Statement (.nodeSteal die n) := none_of _ rfl
theorem priorityAging (n : NodeRef) : Statement (.priorityAging n) := none_of _ rfl
theorem holdBegin (die : BitVec 2) : Statement (.holdBegin die) := none_of _ rfl
theorem nodeComplete (n : NodeRef) : Statement (.nodeComplete n) := none_of _ rfl
theorem sliceExpiry (atoll : Nat) : Statement (.sliceExpiry atoll) := none_of _ rfl
theorem preemptRequest (vf : Nat) (core : Nat) : Statement (.preemptRequest vf core) := none_of _ rfl
theorem contextSaveComplete (vf : Nat) (core : Nat) : Statement (.contextSaveComplete vf core) := none_of _ rfl
theorem resume (vf : Nat) : Statement (.resume vf) := none_of _ rfl
theorem rampWindow (isle : Nat) : Statement (.rampWindow isle) := none_of _ rfl
theorem classFResultVisible (vf core slot : Nat) : Statement (.classFResultVisible vf core slot) := none_of _ rfl
theorem waitConditionMet (vf core slot seq : Nat) : Statement (.waitConditionMet vf core slot seq) := none_of _ rfl
theorem waitTimeout (vf core slot seq : Nat) : Statement (.waitTimeout vf core slot seq) := none_of _ rfl
theorem nonInstruction (word0 : BitVec 32) : Statement (.nonInstruction word0) := none_of _ rfl
theorem faultRecordDelivery (vf fid : Nat) : Statement (.faultRecordDelivery vf fid) := none_of _ rfl
theorem transitEntryFree (slice : Nat) (id : Nat) : Statement (.transitEntryFree slice id) := none_of _ rfl
theorem matrixOpStart (vf core : Nat) : Statement (.matrixOpStart vf core) := none_of _ rfl
theorem matrixOpComplete (vf core : Nat) : Statement (.matrixOpComplete vf core) := none_of _ rfl
theorem mmarExchangeTimeout (vf core : Nat) : Statement (.mmarExchangeTimeout vf core) := none_of _ rfl
theorem engineTakeJob (isle engine units : Nat) : Statement (.engineTakeJob isle engine units) := none_of _ rfl
theorem decoderTakeJob (die decoder units : Nat) : Statement (.decoderTakeJob die decoder units) := none_of _ rfl
theorem jobEnd (isle job : Nat) : Statement (.jobEnd isle job) := none_of _ rfl
theorem add (d a b : SReg) : Statement (.add d a b) := by
  refine of_parse _ _ rfl ?_
  rw [parse_short _ 0x01#8 (sr_len ..) (sr_op ..) (by decide)]
  show (sr ((short (srWord 0#7 b a d 0x01#8)) : Window) .add : Except Bad Instr) = _
  simp only [sr, sr2, sr0, fD, fA, fB, fFn, fImm, sr_d, sr_a, sr_b, sr_fn, and_self, if_true, reduceIte, ne_bit]
theorem sub (d a b : SReg) : Statement (.sub d a b) := by
  refine of_parse _ _ rfl ?_
  rw [parse_short _ 0x02#8 (sr_len ..) (sr_op ..) (by decide)]
  show (sr ((short (srWord 0#7 b a d 0x02#8)) : Window) .sub : Except Bad Instr) = _
  simp only [sr, sr2, sr0, fD, fA, fB, fFn, fImm, sr_d, sr_a, sr_b, sr_fn, and_self, if_true, reduceIte, ne_bit]
theorem mul (d a b : SReg) : Statement (.mul d a b) := by
  refine of_parse _ _ rfl ?_
  rw [parse_short _ 0x03#8 (sr_len ..) (sr_op ..) (by decide)]
  show (sr ((short (srWord 0#7 b a d 0x03#8)) : Window) .mul : Except Bad Instr) = _
  simp only [sr, sr2, sr0, fD, fA, fB, fFn, fImm, sr_d, sr_a, sr_b, sr_fn, and_self, if_true, reduceIte, ne_bit]
theorem mulh (d a b : SReg) : Statement (.mulh d a b) := by
  refine of_parse _ _ rfl ?_
  rw [parse_short _ 0x04#8 (sr_len ..) (sr_op ..) (by decide)]
  show (sr ((short (srWord 0#7 b a d 0x04#8)) : Window) .mulh : Except Bad Instr) = _
  simp only [sr, sr2, sr0, fD, fA, fB, fFn, fImm, sr_d, sr_a, sr_b, sr_fn, and_self, if_true, reduceIte, ne_bit]
theorem mulhu (d a b : SReg) : Statement (.mulhu d a b) := by
  refine of_parse _ _ rfl ?_
  rw [parse_short _ 0x05#8 (sr_len ..) (sr_op ..) (by decide)]
  show (sr ((short (srWord 0#7 b a d 0x05#8)) : Window) .mulhu : Except Bad Instr) = _
  simp only [sr, sr2, sr0, fD, fA, fB, fFn, fImm, sr_d, sr_a, sr_b, sr_fn, and_self, if_true, reduceIte, ne_bit]
theorem div (d a b : SReg) : Statement (.div d a b) := by
  refine of_parse _ _ rfl ?_
  rw [parse_short _ 0x06#8 (sr_len ..) (sr_op ..) (by decide)]
  show (sr ((short (srWord 0#7 b a d 0x06#8)) : Window) .div : Except Bad Instr) = _
  simp only [sr, sr2, sr0, fD, fA, fB, fFn, fImm, sr_d, sr_a, sr_b, sr_fn, and_self, if_true, reduceIte, ne_bit]
theorem divu (d a b : SReg) : Statement (.divu d a b) := by
  refine of_parse _ _ rfl ?_
  rw [parse_short _ 0x07#8 (sr_len ..) (sr_op ..) (by decide)]
  show (sr ((short (srWord 0#7 b a d 0x07#8)) : Window) .divu : Except Bad Instr) = _
  simp only [sr, sr2, sr0, fD, fA, fB, fFn, fImm, sr_d, sr_a, sr_b, sr_fn, and_self, if_true, reduceIte, ne_bit]
theorem rem (d a b : SReg) : Statement (.rem d a b) := by
  refine of_parse _ _ rfl ?_
  rw [parse_short _ 0x08#8 (sr_len ..) (sr_op ..) (by decide)]
  show (sr ((short (srWord 0#7 b a d 0x08#8)) : Window) .rem : Except Bad Instr) = _
  simp only [sr, sr2, sr0, fD, fA, fB, fFn, fImm, sr_d, sr_a, sr_b, sr_fn, and_self, if_true, reduceIte, ne_bit]
theorem remu (d a b : SReg) : Statement (.remu d a b) := by
  refine of_parse _ _ rfl ?_
  rw [parse_short _ 0x09#8 (sr_len ..) (sr_op ..) (by decide)]
  show (sr ((short (srWord 0#7 b a d 0x09#8)) : Window) .remu : Except Bad Instr) = _
  simp only [sr, sr2, sr0, fD, fA, fB, fFn, fImm, sr_d, sr_a, sr_b, sr_fn, and_self, if_true, reduceIte, ne_bit]
theorem and (d a b : SReg) : Statement (.and d a b) := by
  refine of_parse _ _ rfl ?_
  rw [parse_short _ 0x0a#8 (sr_len ..) (sr_op ..) (by decide)]
  show (sr ((short (srWord 0#7 b a d 0x0a#8)) : Window) .and : Except Bad Instr) = _
  simp only [sr, sr2, sr0, fD, fA, fB, fFn, fImm, sr_d, sr_a, sr_b, sr_fn, and_self, if_true, reduceIte, ne_bit]
theorem or (d a b : SReg) : Statement (.or d a b) := by
  refine of_parse _ _ rfl ?_
  rw [parse_short _ 0x0b#8 (sr_len ..) (sr_op ..) (by decide)]
  show (sr ((short (srWord 0#7 b a d 0x0b#8)) : Window) .or : Except Bad Instr) = _
  simp only [sr, sr2, sr0, fD, fA, fB, fFn, fImm, sr_d, sr_a, sr_b, sr_fn, and_self, if_true, reduceIte, ne_bit]
theorem xor (d a b : SReg) : Statement (.xor d a b) := by
  refine of_parse _ _ rfl ?_
  rw [parse_short _ 0x0c#8 (sr_len ..) (sr_op ..) (by decide)]
  show (sr ((short (srWord 0#7 b a d 0x0c#8)) : Window) .xor : Except Bad Instr) = _
  simp only [sr, sr2, sr0, fD, fA, fB, fFn, fImm, sr_d, sr_a, sr_b, sr_fn, and_self, if_true, reduceIte, ne_bit]
theorem shl (d a b : SReg) : Statement (.shl d a b) := by
  refine of_parse _ _ rfl ?_
  rw [parse_short _ 0x0d#8 (sr_len ..) (sr_op ..) (by decide)]
  show (sr ((short (srWord 0#7 b a d 0x0d#8)) : Window) .shl : Except Bad Instr) = _
  simp only [sr, sr2, sr0, fD, fA, fB, fFn, fImm, sr_d, sr_a, sr_b, sr_fn, and_self, if_true, reduceIte, ne_bit]
theorem shr (d a b : SReg) : Statement (.shr d a b) := by
  refine of_parse _ _ rfl ?_
  rw [parse_short _ 0x0e#8 (sr_len ..) (sr_op ..) (by decide)]
  show (sr ((short (srWord 0#7 b a d 0x0e#8)) : Window) .shr : Except Bad Instr) = _
  simp only [sr, sr2, sr0, fD, fA, fB, fFn, fImm, sr_d, sr_a, sr_b, sr_fn, and_self, if_true, reduceIte, ne_bit]
theorem sra (d a b : SReg) : Statement (.sra d a b) := by
  refine of_parse _ _ rfl ?_
  rw [parse_short _ 0x0f#8 (sr_len ..) (sr_op ..) (by decide)]
  show (sr ((short (srWord 0#7 b a d 0x0f#8)) : Window) .sra : Except Bad Instr) = _
  simp only [sr, sr2, sr0, fD, fA, fB, fFn, fImm, sr_d, sr_a, sr_b, sr_fn, and_self, if_true, reduceIte, ne_bit]
theorem min (d a b : SReg) : Statement (.min d a b) := by
  refine of_parse _ _ rfl ?_
  rw [parse_short _ 0x10#8 (sr_len ..) (sr_op ..) (by decide)]
  show (sr ((short (srWord 0#7 b a d 0x10#8)) : Window) .min : Except Bad Instr) = _
  simp only [sr, sr2, sr0, fD, fA, fB, fFn, fImm, sr_d, sr_a, sr_b, sr_fn, and_self, if_true, reduceIte, ne_bit]
theorem max (d a b : SReg) : Statement (.max d a b) := by
  refine of_parse _ _ rfl ?_
  rw [parse_short _ 0x11#8 (sr_len ..) (sr_op ..) (by decide)]
  show (sr ((short (srWord 0#7 b a d 0x11#8)) : Window) .max : Except Bad Instr) = _
  simp only [sr, sr2, sr0, fD, fA, fB, fFn, fImm, sr_d, sr_a, sr_b, sr_fn, and_self, if_true, reduceIte, ne_bit]
theorem minu (d a b : SReg) : Statement (.minu d a b) := by
  refine of_parse _ _ rfl ?_
  rw [parse_short _ 0x12#8 (sr_len ..) (sr_op ..) (by decide)]
  show (sr ((short (srWord 0#7 b a d 0x12#8)) : Window) .minu : Except Bad Instr) = _
  simp only [sr, sr2, sr0, fD, fA, fB, fFn, fImm, sr_d, sr_a, sr_b, sr_fn, and_self, if_true, reduceIte, ne_bit]
theorem maxu (d a b : SReg) : Statement (.maxu d a b) := by
  refine of_parse _ _ rfl ?_
  rw [parse_short _ 0x13#8 (sr_len ..) (sr_op ..) (by decide)]
  show (sr ((short (srWord 0#7 b a d 0x13#8)) : Window) .maxu : Except Bad Instr) = _
  simp only [sr, sr2, sr0, fD, fA, fB, fFn, fImm, sr_d, sr_a, sr_b, sr_fn, and_self, if_true, reduceIte, ne_bit]
theorem cmp (d a b : SReg) (cond : BitVec 7) : Statement (.cmp d a b cond) := by
  refine of_parse _ _ rfl ?_
  rw [parse_short _ 0x14#8 (sr_len ..) (sr_op ..) (by decide)]
  show (.ok (.cmp (fD ((short (srWord cond b a d 0x14#8)) : Window)) (fA ((short (srWord cond b a d 0x14#8)) : Window)) (fB ((short (srWord cond b a d 0x14#8)) : Window)) (fFn ((short (srWord cond b a d 0x14#8)) : Window))) : Except Bad Instr) = _
  simp only [sr, sr2, sr0, fD, fA, fB, fFn, fImm, sr_d, sr_a, sr_b, sr_fn, and_self, if_true, reduceIte, ne_bit]
theorem sel (d a b c : SReg) : Statement (.sel d a b c) := by
  refine of_parse _ _ rfl ?_
  rw [parse_short _ 0x15#8 (sr_len ..) (sr_op ..) (by decide)]
  show (if ((short (srWord (0#2 ++ c) b a d 0x15#8)) : Window).extractLsb' 30 2 = 0#2 then .ok (.sel (fD ((short (srWord (0#2 ++ c) b a d 0x15#8)) : Window)) (fA ((short (srWord (0#2 ++ c) b a d 0x15#8)) : Window)) (fB ((short (srWord (0#2 ++ c) b a d 0x15#8)) : Window)) (((short (srWord (0#2 ++ c) b a d 0x15#8)) : Window).extractLsb' 25 5)) else .error .reserved : Except Bad Instr) = _
  simp only [sr, sr2, sr0, fD, fA, fB, fFn, fImm, sr_d, sr_a, sr_b, sr_fn, sel_30_2, sel_25_5, and_self, if_true, reduceIte, ne_bit]
theorem clz (d a : SReg) : Statement (.clz d a) := by
  refine of_parse _ _ rfl ?_
  rw [parse_short _ 0x16#8 (sr_len ..) (sr_op ..) (by decide)]
  show (sr2 ((short (srWord 0#7 0#5 a d 0x16#8)) : Window) .clz : Except Bad Instr) = _
  simp only [sr, sr2, sr0, fD, fA, fB, fFn, fImm, sr_d, sr_a, sr_b, sr_fn, and_self, if_true, reduceIte, ne_bit]
theorem ctz (d a : SReg) : Statement (.ctz d a) := by
  refine of_parse _ _ rfl ?_
  rw [parse_short _ 0x17#8 (sr_len ..) (sr_op ..) (by decide)]
  show (sr2 ((short (srWord 0#7 0#5 a d 0x17#8)) : Window) .ctz : Except Bad Instr) = _
  simp only [sr, sr2, sr0, fD, fA, fB, fFn, fImm, sr_d, sr_a, sr_b, sr_fn, and_self, if_true, reduceIte, ne_bit]
theorem popc (d a : SReg) : Statement (.popc d a) := by
  refine of_parse _ _ rfl ?_
  rw [parse_short _ 0x18#8 (sr_len ..) (sr_op ..) (by decide)]
  show (sr2 ((short (srWord 0#7 0#5 a d 0x18#8)) : Window) .popc : Except Bad Instr) = _
  simp only [sr, sr2, sr0, fD, fA, fB, fFn, fImm, sr_d, sr_a, sr_b, sr_fn, and_self, if_true, reduceIte, ne_bit]
theorem bfx (d a : SReg) (pos len1 : BitVec 6) : Statement (.bfx d a pos len1) := by
  refine of_parse _ _ rfl ?_
  rw [parse_short _ 0x19#8 (si_len ..) (si_op ..) (by decide)]
  show (.ok (.bfx (fD ((short (siWord (len1 ++ pos) a d 0x19#8)) : Window)) (fA ((short (siWord (len1 ++ pos) a d 0x19#8)) : Window)) (((short (siWord (len1 ++ pos) a d 0x19#8)) : Window).extractLsb' 20 6) (((short (siWord (len1 ++ pos) a d 0x19#8)) : Window).extractLsb' 26 6)) : Except Bad Instr) = _
  simp only [sr, sr2, sr0, fD, fA, fB, fFn, fImm, si_d, si_a, si_imm, bf_20_6, bf_26_6, and_self, if_true, reduceIte, ne_bit]
theorem bfi (d a : SReg) (pos len1 : BitVec 6) : Statement (.bfi d a pos len1) := by
  refine of_parse _ _ rfl ?_
  rw [parse_short _ 0x1a#8 (si_len ..) (si_op ..) (by decide)]
  show (.ok (.bfi (fD ((short (siWord (len1 ++ pos) a d 0x1a#8)) : Window)) (fA ((short (siWord (len1 ++ pos) a d 0x1a#8)) : Window)) (((short (siWord (len1 ++ pos) a d 0x1a#8)) : Window).extractLsb' 20 6) (((short (siWord (len1 ++ pos) a d 0x1a#8)) : Window).extractLsb' 26 6)) : Except Bad Instr) = _
  simp only [sr, sr2, sr0, fD, fA, fB, fFn, fImm, si_d, si_a, si_imm, bf_20_6, bf_26_6, and_self, if_true, reduceIte, ne_bit]
theorem waddr (d a b : SReg) (mode : BitVec 7) : Statement (.waddr d a b mode) := by
  refine of_parse _ _ rfl ?_
  rw [parse_short _ 0x1b#8 (sr_len ..) (sr_op ..) (by decide)]
  show (.ok (.waddr (fD ((short (srWord mode b a d 0x1b#8)) : Window)) (fA ((short (srWord mode b a d 0x1b#8)) : Window)) (fB ((short (srWord mode b a d 0x1b#8)) : Window)) (fFn ((short (srWord mode b a d 0x1b#8)) : Window))) : Except Bad Instr) = _
  simp only [sr, sr2, sr0, fD, fA, fB, fFn, fImm, sr_d, sr_a, sr_b, sr_fn, and_self, if_true, reduceIte, ne_bit]
theorem addi (d a : SReg) (imm : BitVec 12) : Statement (.addi d a imm) := by
  refine of_parse _ _ rfl ?_
  rw [parse_short _ 0x20#8 (si_len ..) (si_op ..) (by decide)]
  show (.ok (.addi (fD ((short (siWord imm a d 0x20#8)) : Window)) (fA ((short (siWord imm a d 0x20#8)) : Window)) (fImm ((short (siWord imm a d 0x20#8)) : Window))) : Except Bad Instr) = _
  simp only [sr, sr2, sr0, fD, fA, fB, fFn, fImm, si_d, si_a, si_imm, and_self, if_true, reduceIte, ne_bit]
theorem andi (d a : SReg) (imm : BitVec 12) : Statement (.andi d a imm) := by
  refine of_parse _ _ rfl ?_
  rw [parse_short _ 0x21#8 (si_len ..) (si_op ..) (by decide)]
  show (.ok (.andi (fD ((short (siWord imm a d 0x21#8)) : Window)) (fA ((short (siWord imm a d 0x21#8)) : Window)) (fImm ((short (siWord imm a d 0x21#8)) : Window))) : Except Bad Instr) = _
  simp only [sr, sr2, sr0, fD, fA, fB, fFn, fImm, si_d, si_a, si_imm, and_self, if_true, reduceIte, ne_bit]
theorem ori (d a : SReg) (imm : BitVec 12) : Statement (.ori d a imm) := by
  refine of_parse _ _ rfl ?_
  rw [parse_short _ 0x22#8 (si_len ..) (si_op ..) (by decide)]
  show (.ok (.ori (fD ((short (siWord imm a d 0x22#8)) : Window)) (fA ((short (siWord imm a d 0x22#8)) : Window)) (fImm ((short (siWord imm a d 0x22#8)) : Window))) : Except Bad Instr) = _
  simp only [sr, sr2, sr0, fD, fA, fB, fFn, fImm, si_d, si_a, si_imm, and_self, if_true, reduceIte, ne_bit]
theorem xori (d a : SReg) (imm : BitVec 12) : Statement (.xori d a imm) := by
  refine of_parse _ _ rfl ?_
  rw [parse_short _ 0x23#8 (si_len ..) (si_op ..) (by decide)]
  show (.ok (.xori (fD ((short (siWord imm a d 0x23#8)) : Window)) (fA ((short (siWord imm a d 0x23#8)) : Window)) (fImm ((short (siWord imm a d 0x23#8)) : Window))) : Except Bad Instr) = _
  simp only [sr, sr2, sr0, fD, fA, fB, fFn, fImm, si_d, si_a, si_imm, and_self, if_true, reduceIte, ne_bit]
theorem shli (d a : SReg) (imm : BitVec 12) : Statement (.shli d a imm) := by
  refine of_parse _ _ rfl ?_
  rw [parse_short _ 0x24#8 (si_len ..) (si_op ..) (by decide)]
  show (.ok (.shli (fD ((short (siWord imm a d 0x24#8)) : Window)) (fA ((short (siWord imm a d 0x24#8)) : Window)) (fImm ((short (siWord imm a d 0x24#8)) : Window))) : Except Bad Instr) = _
  simp only [sr, sr2, sr0, fD, fA, fB, fFn, fImm, si_d, si_a, si_imm, and_self, if_true, reduceIte, ne_bit]
theorem shri (d a : SReg) (imm : BitVec 12) : Statement (.shri d a imm) := by
  refine of_parse _ _ rfl ?_
  rw [parse_short _ 0x25#8 (si_len ..) (si_op ..) (by decide)]
  show (.ok (.shri (fD ((short (siWord imm a d 0x25#8)) : Window)) (fA ((short (siWord imm a d 0x25#8)) : Window)) (fImm ((short (siWord imm a d 0x25#8)) : Window))) : Except Bad Instr) = _
  simp only [sr, sr2, sr0, fD, fA, fB, fFn, fImm, si_d, si_a, si_imm, and_self, if_true, reduceIte, ne_bit]
theorem srai (d a : SReg) (imm : BitVec 12) : Statement (.srai d a imm) := by
  refine of_parse _ _ rfl ?_
  rw [parse_short _ 0x26#8 (si_len ..) (si_op ..) (by decide)]
  show (.ok (.srai (fD ((short (siWord imm a d 0x26#8)) : Window)) (fA ((short (siWord imm a d 0x26#8)) : Window)) (fImm ((short (siWord imm a d 0x26#8)) : Window))) : Except Bad Instr) = _
  simp only [sr, sr2, sr0, fD, fA, fB, fFn, fImm, si_d, si_a, si_imm, and_self, if_true, reduceIte, ne_bit]
theorem ldi (d : SReg) (imm : BitVec 17) : Statement (.ldi d imm) := by
  refine of_parse _ _ rfl ?_
  rw [parse_short _ 0x27#8 (ldi_0_2 ..) (ldi_2_8 ..) (by decide)]
  show (.ok (.ldi (fD ((short (imm ++ d ++ 0x27#8 ++ 0#2)) : Window)) (((short (imm ++ d ++ 0x27#8 ++ 0#2)) : Window).extractLsb' 15 17)) : Except Bad Instr) = _
  simp only [sr, sr2, sr0, fD, fA, fB, fFn, fImm, ldi_0_2, ldi_2_8, ldi_10_5, ldi_15_17, and_self, if_true, reduceIte, ne_bit]
theorem ldl (d : SReg) (lit : Word) : Statement (.ldl d lit) := of_parse _ _ rfl <| by
  have h0 : (0#64 ++ lit ++ (0#17 ++ d ++ 0x28#8 ++ 1#2)).extractLsb' 0 2 = 1#2 := by
    (repeat first | rw [field_high _ _ _ _ (by decide)] | rw [field_low _ _ _ _ (by decide)]); rw [field_all]
  have h1 : (0#64 ++ lit ++ (0#17 ++ d ++ 0x28#8 ++ 1#2)).extractLsb' 2 8 = 0x28#8 := by
    (repeat first | rw [field_high _ _ _ _ (by decide)] | rw [field_low _ _ _ _ (by decide)]); rw [field_all]
  have h2 : (0#64 ++ lit ++ (0#17 ++ d ++ 0x28#8 ++ 1#2)).extractLsb' 15 17 = 0#17 := by
    (repeat first | rw [field_high _ _ _ _ (by decide)] | rw [field_low _ _ _ _ (by decide)]); rw [field_all]
  have h3 : (0#64 ++ lit ++ (0#17 ++ d ++ 0x28#8 ++ 1#2)).extractLsb' 10 5 = d := by
    (repeat first | rw [field_high _ _ _ _ (by decide)] | rw [field_low _ _ _ _ (by decide)]); rw [field_all]
  have h4 : (0#64 ++ lit ++ (0#17 ++ d ++ 0x28#8 ++ 1#2)).extractLsb' 32 64 = lit := by
    (repeat first | rw [field_high _ _ _ _ (by decide)] | rw [field_low _ _ _ _ (by decide)]); rw [field_all]
  simp [parse, fD, h0, h1, h2, h3, h4]
theorem pand (d a b : SReg) : Statement (.pand d a b) := by
  refine of_parse _ _ rfl ?_
  rw [parse_short _ 0x30#8 (sr_len ..) (sr_op ..) (by decide)]
  show (sr ((short (srWord 0#7 b a d 0x30#8)) : Window) .pand : Except Bad Instr) = _
  simp only [sr, sr2, sr0, fD, fA, fB, fFn, fImm, sr_d, sr_a, sr_b, sr_fn, and_self, if_true, reduceIte, ne_bit]
theorem por (d a b : SReg) : Statement (.por d a b) := by
  refine of_parse _ _ rfl ?_
  rw [parse_short _ 0x31#8 (sr_len ..) (sr_op ..) (by decide)]
  show (sr ((short (srWord 0#7 b a d 0x31#8)) : Window) .por : Except Bad Instr) = _
  simp only [sr, sr2, sr0, fD, fA, fB, fFn, fImm, sr_d, sr_a, sr_b, sr_fn, and_self, if_true, reduceIte, ne_bit]
theorem pxor (d a b : SReg) : Statement (.pxor d a b) := by
  refine of_parse _ _ rfl ?_
  rw [parse_short _ 0x32#8 (sr_len ..) (sr_op ..) (by decide)]
  show (sr ((short (srWord 0#7 b a d 0x32#8)) : Window) .pxor : Except Bad Instr) = _
  simp only [sr, sr2, sr0, fD, fA, fB, fFn, fImm, sr_d, sr_a, sr_b, sr_fn, and_self, if_true, reduceIte, ne_bit]
theorem pandn (d a b : SReg) : Statement (.pandn d a b) := by
  refine of_parse _ _ rfl ?_
  rw [parse_short _ 0x33#8 (sr_len ..) (sr_op ..) (by decide)]
  show (sr ((short (srWord 0#7 b a d 0x33#8)) : Window) .pandn : Except Bad Instr) = _
  simp only [sr, sr2, sr0, fD, fA, fB, fFn, fImm, sr_d, sr_a, sr_b, sr_fn, and_self, if_true, reduceIte, ne_bit]
theorem plen (d a : SReg) (width : BitVec 12) : Statement (.plen d a width) := by
  refine of_parse _ _ rfl ?_
  rw [parse_short _ 0x34#8 (si_len ..) (si_op ..) (by decide)]
  show (.ok (.plen (fD ((short (siWord width a d 0x34#8)) : Window)) (fA ((short (siWord width a d 0x34#8)) : Window)) (fImm ((short (siWord width a d 0x34#8)) : Window))) : Except Bad Instr) = _
  simp only [sr, sr2, sr0, fD, fA, fB, fFn, fImm, si_d, si_a, si_imm, and_self, if_true, reduceIte, ne_bit]
theorem pcnt (d a : SReg) (width : BitVec 7) : Statement (.pcnt d a width) := by
  refine of_parse _ _ rfl ?_
  rw [parse_short _ 0x35#8 (sr_len ..) (sr_op ..) (by decide)]
  show (if fB ((short (srWord width 0#5 a d 0x35#8)) : Window) = 0#5 then .ok (.pcnt (fD ((short (srWord width 0#5 a d 0x35#8)) : Window)) (fA ((short (srWord width 0#5 a d 0x35#8)) : Window)) (fFn ((short (srWord width 0#5 a d 0x35#8)) : Window))) else .error .reserved : Except Bad Instr) = _
  simp only [sr, sr2, sr0, fD, fA, fB, fFn, fImm, sr_d, sr_a, sr_b, sr_fn, and_self, if_true, reduceIte, ne_bit]
theorem pany (d a : SReg) : Statement (.pany d a) := by
  refine of_parse _ _ rfl ?_
  rw [parse_short _ 0x36#8 (sr_len ..) (sr_op ..) (by decide)]
  show (sr2 ((short (srWord 0#7 0#5 a d 0x36#8)) : Window) .pany : Except Bad Instr) = _
  simp only [sr, sr2, sr0, fD, fA, fB, fFn, fImm, sr_d, sr_a, sr_b, sr_fn, and_self, if_true, reduceIte, ne_bit]
theorem pfirst (d a : SReg) (width : BitVec 7) : Statement (.pfirst d a width) := by
  refine of_parse _ _ rfl ?_
  rw [parse_short _ 0x37#8 (sr_len ..) (sr_op ..) (by decide)]
  show (if fB ((short (srWord width 0#5 a d 0x37#8)) : Window) = 0#5 then .ok (.pfirst (fD ((short (srWord width 0#5 a d 0x37#8)) : Window)) (fA ((short (srWord width 0#5 a d 0x37#8)) : Window)) (fFn ((short (srWord width 0#5 a d 0x37#8)) : Window))) else .error .reserved : Except Bad Instr) = _
  simp only [sr, sr2, sr0, fD, fA, fB, fFn, fImm, sr_d, sr_a, sr_b, sr_fn, and_self, if_true, reduceIte, ne_bit]
theorem mfcsr (d : SReg) (csr : BitVec 12) : Statement (.mfcsr d csr) := by
  refine of_parse _ _ rfl ?_
  rw [parse_short _ 0x38#8 (si_len ..) (si_op ..) (by decide)]
  show (if fA ((short (siWord csr 0#5 d 0x38#8)) : Window) = 0#5 then .ok (.mfcsr (fD ((short (siWord csr 0#5 d 0x38#8)) : Window)) (fImm ((short (siWord csr 0#5 d 0x38#8)) : Window))) else .error .reserved : Except Bad Instr) = _
  simp only [sr, sr2, sr0, fD, fA, fB, fFn, fImm, si_d, si_a, si_imm, and_self, if_true, reduceIte, ne_bit]
theorem mtcsr (d a : SReg) (csr : BitVec 12) : Statement (.mtcsr d a csr) := by
  refine of_parse _ _ rfl ?_
  rw [parse_short _ 0x39#8 (si_len ..) (si_op ..) (by decide)]
  show (.ok (.mtcsr (fD ((short (siWord csr a d 0x39#8)) : Window)) (fA ((short (siWord csr a d 0x39#8)) : Window)) (fImm ((short (siWord csr a d 0x39#8)) : Window))) : Except Bad Instr) = _
  simp only [sr, sr2, sr0, fD, fA, fB, fFn, fImm, si_d, si_a, si_imm, and_self, if_true, reduceIte, ne_bit]
theorem br (a : SReg) (cc : BitVec 3) (off : BitVec 14) : Statement (.br a cc off) := by
  refine of_parse _ _ rfl ?_
  rw [parse_short _ 0x40#8 (br_0_2 ..) (br_2_8 ..) (by decide)]
  show (.ok (.br (fD ((short (off ++ cc ++ a ++ 0x40#8 ++ 0#2)) : Window)) (((short (off ++ cc ++ a ++ 0x40#8 ++ 0#2)) : Window).extractLsb' 15 3) (((short (off ++ cc ++ a ++ 0x40#8 ++ 0#2)) : Window).extractLsb' 18 14)) : Except Bad Instr) = _
  simp only [sr, sr2, sr0, fD, fA, fB, fFn, fImm, br_0_2, br_2_8, br_10_5, br_15_3, br_18_14, and_self, if_true, reduceIte, ne_bit]
theorem jmp (off : BitVec 22) : Statement (.jmp off) := by
  refine of_parse _ _ rfl ?_
  rw [parse_short _ 0x41#8 (far_0_2 ..) (far_2_8 ..) (by decide)]
  show (.ok (.jmp (((short (off ++ 0x41#8 ++ 0#2)) : Window).extractLsb' 10 22)) : Except Bad Instr) = _
  simp only [sr, sr2, sr0, fD, fA, fB, fFn, fImm, far_0_2, far_2_8, far_10_22, and_self, if_true, reduceIte, ne_bit]
theorem call (off : BitVec 22) : Statement (.call off) := by
  refine of_parse _ _ rfl ?_
  rw [parse_short _ 0x42#8 (far_0_2 ..) (far_2_8 ..) (by decide)]
  show (.ok (.call (((short (off ++ 0x42#8 ++ 0#2)) : Window).extractLsb' 10 22)) : Except Bad Instr) = _
  simp only [sr, sr2, sr0, fD, fA, fB, fFn, fImm, far_0_2, far_2_8, far_10_22, and_self, if_true, reduceIte, ne_bit]
theorem jr (a : SReg) : Statement (.jr a) := by
  refine of_parse _ _ rfl ?_
  rw [parse_short _ 0x43#8 (sr_len ..) (sr_op ..) (by decide)]
  show (if fD ((short (srWord 0#7 0#5 a 0#5 0x43#8)) : Window) = 0#5 ∧ fB ((short (srWord 0#7 0#5 a 0#5 0x43#8)) : Window) = 0#5 ∧ fFn ((short (srWord 0#7 0#5 a 0#5 0x43#8)) : Window) = 0#7 then .ok (.jr (fA ((short (srWord 0#7 0#5 a 0#5 0x43#8)) : Window))) else .error .reserved : Except Bad Instr) = _
  simp only [sr, sr2, sr0, fD, fA, fB, fFn, fImm, sr_d, sr_a, sr_b, sr_fn, and_self, if_true, reduceIte, ne_bit]
theorem callr (d a : SReg) : Statement (.callr d a) := by
  refine of_parse _ _ rfl ?_
  rw [parse_short _ 0x44#8 (sr_len ..) (sr_op ..) (by decide)]
  show (sr2 ((short (srWord 0#7 0#5 a d 0x44#8)) : Window) .callr : Except Bad Instr) = _
  simp only [sr, sr2, sr0, fD, fA, fB, fFn, fImm, sr_d, sr_a, sr_b, sr_fn, and_self, if_true, reduceIte, ne_bit]
theorem trap (code : BitVec 12) : Statement (.trap code) := by
  refine of_parse _ _ rfl ?_
  rw [parse_short _ 0x45#8 (si_len ..) (si_op ..) (by decide)]
  show (if fD ((short (siWord code 0#5 0#5 0x45#8)) : Window) = 0#5 ∧ fA ((short (siWord code 0#5 0#5 0x45#8)) : Window) = 0#5 then .ok (.trap (fImm ((short (siWord code 0#5 0#5 0x45#8)) : Window))) else .error .reserved : Except Bad Instr) = _
  simp only [sr, sr2, sr0, fD, fA, fB, fFn, fImm, si_d, si_a, si_imm, and_self, if_true, reduceIte, ne_bit]
theorem sleep (d : SReg) (te : BitVec 5) : Statement (.sleep d te) := by
  refine of_parse _ _ rfl ?_
  rw [parse_short _ 0x4a#8 (si_len ..) (si_op ..) (by decide)]
  show (si5 ((short (siWord (0#7 ++ te) 0#5 d 0x4a#8)) : Window) .sleep : Except Bad Instr) = _
  simp only [si5, fD, fA, fB, fFn, fImm, si_d, si_a, si_imm, te_25_7, te_20_5, and_self, if_true, reduceIte, ne_bit]
theorem brk (code : BitVec 12) : Statement (.brk code) := by
  refine of_parse _ _ rfl ?_
  rw [parse_short _ 0x4b#8 (si_len ..) (si_op ..) (by decide)]
  show (if fD ((short (siWord code 0#5 0#5 0x4b#8)) : Window) = 0#5 ∧ fA ((short (siWord code 0#5 0#5 0x4b#8)) : Window) = 0#5 then .ok (.brk (fImm ((short (siWord code 0#5 0#5 0x4b#8)) : Window))) else .error .reserved : Except Bad Instr) = _
  simp only [sr, sr2, sr0, fD, fA, fB, fFn, fImm, si_d, si_a, si_imm, and_self, if_true, reduceIte, ne_bit]
theorem mclaim (d : SReg) (te : BitVec 5) : Statement (.mclaim d te) := by
  refine of_parse _ _ rfl ?_
  rw [parse_short _ 0x4c#8 (si_len ..) (si_op ..) (by decide)]
  show (si5 ((short (siWord (0#7 ++ te) 0#5 d 0x4c#8)) : Window) .mclaim : Except Bad Instr) = _
  simp only [si5, fD, fA, fB, fFn, fImm, si_d, si_a, si_imm, te_25_7, te_20_5, and_self, if_true, reduceIte, ne_bit]
theorem gsub (d a : SReg) : Statement (.gsub d a) := by
  refine of_parse _ _ rfl ?_
  rw [parse_short _ 0x4e#8 (sr_len ..) (sr_op ..) (by decide)]
  show (sr2 ((short (srWord 0#7 0#5 a d 0x4e#8)) : Window) .gsub : Except Bad Instr) = _
  simp only [sr, sr2, sr0, fD, fA, fB, fFn, fImm, sr_d, sr_a, sr_b, sr_fn, and_self, if_true, reduceIte, ne_bit]
theorem evsig (d a : SReg) (code : BitVec 12) : Statement (.evsig d a code) := by
  refine of_parse _ _ rfl ?_
  rw [parse_short _ 0x4f#8 (si_len ..) (si_op ..) (by decide)]
  show (.ok (.evsig (fD ((short (siWord code a d 0x4f#8)) : Window)) (fA ((short (siWord code a d 0x4f#8)) : Window)) (fImm ((short (siWord code a d 0x4f#8)) : Window))) : Except Bad Instr) = _
  simp only [sr, sr2, sr0, fD, fA, fB, fFn, fImm, si_d, si_a, si_imm, and_self, if_true, reduceIte, ne_bit]
theorem fwake (d a b : SReg) : Statement (.fwake d a b) := by
  refine of_parse _ _ rfl ?_
  rw [parse_short _ 0x50#8 (sr_len ..) (sr_op ..) (by decide)]
  show (sr ((short (srWord 0#7 b a d 0x50#8)) : Window) .fwake : Except Bad Instr) = _
  simp only [sr, sr2, sr0, fD, fA, fB, fFn, fImm, sr_d, sr_a, sr_b, sr_fn, and_self, if_true, reduceIte, ne_bit]
theorem ldb (d a : SReg) (imm : BitVec 12) : Statement (.ldb d a imm) := by
  refine of_parse _ _ rfl ?_
  rw [parse_short _ 0x60#8 (si_len ..) (si_op ..) (by decide)]
  show (.ok (.ldb (fD ((short (siWord imm a d 0x60#8)) : Window)) (fA ((short (siWord imm a d 0x60#8)) : Window)) (fImm ((short (siWord imm a d 0x60#8)) : Window))) : Except Bad Instr) = _
  simp only [sr, sr2, sr0, fD, fA, fB, fFn, fImm, si_d, si_a, si_imm, and_self, if_true, reduceIte, ne_bit]
theorem ldbu (d a : SReg) (imm : BitVec 12) : Statement (.ldbu d a imm) := by
  refine of_parse _ _ rfl ?_
  rw [parse_short _ 0x61#8 (si_len ..) (si_op ..) (by decide)]
  show (.ok (.ldbu (fD ((short (siWord imm a d 0x61#8)) : Window)) (fA ((short (siWord imm a d 0x61#8)) : Window)) (fImm ((short (siWord imm a d 0x61#8)) : Window))) : Except Bad Instr) = _
  simp only [sr, sr2, sr0, fD, fA, fB, fFn, fImm, si_d, si_a, si_imm, and_self, if_true, reduceIte, ne_bit]
theorem ldh (d a : SReg) (imm : BitVec 12) : Statement (.ldh d a imm) := by
  refine of_parse _ _ rfl ?_
  rw [parse_short _ 0x62#8 (si_len ..) (si_op ..) (by decide)]
  show (.ok (.ldh (fD ((short (siWord imm a d 0x62#8)) : Window)) (fA ((short (siWord imm a d 0x62#8)) : Window)) (fImm ((short (siWord imm a d 0x62#8)) : Window))) : Except Bad Instr) = _
  simp only [sr, sr2, sr0, fD, fA, fB, fFn, fImm, si_d, si_a, si_imm, and_self, if_true, reduceIte, ne_bit]
theorem ldhu (d a : SReg) (imm : BitVec 12) : Statement (.ldhu d a imm) := by
  refine of_parse _ _ rfl ?_
  rw [parse_short _ 0x63#8 (si_len ..) (si_op ..) (by decide)]
  show (.ok (.ldhu (fD ((short (siWord imm a d 0x63#8)) : Window)) (fA ((short (siWord imm a d 0x63#8)) : Window)) (fImm ((short (siWord imm a d 0x63#8)) : Window))) : Except Bad Instr) = _
  simp only [sr, sr2, sr0, fD, fA, fB, fFn, fImm, si_d, si_a, si_imm, and_self, if_true, reduceIte, ne_bit]
theorem ldw (d a : SReg) (imm : BitVec 12) : Statement (.ldw d a imm) := by
  refine of_parse _ _ rfl ?_
  rw [parse_short _ 0x64#8 (si_len ..) (si_op ..) (by decide)]
  show (.ok (.ldw (fD ((short (siWord imm a d 0x64#8)) : Window)) (fA ((short (siWord imm a d 0x64#8)) : Window)) (fImm ((short (siWord imm a d 0x64#8)) : Window))) : Except Bad Instr) = _
  simp only [sr, sr2, sr0, fD, fA, fB, fFn, fImm, si_d, si_a, si_imm, and_self, if_true, reduceIte, ne_bit]
theorem ldwu (d a : SReg) (imm : BitVec 12) : Statement (.ldwu d a imm) := by
  refine of_parse _ _ rfl ?_
  rw [parse_short _ 0x65#8 (si_len ..) (si_op ..) (by decide)]
  show (.ok (.ldwu (fD ((short (siWord imm a d 0x65#8)) : Window)) (fA ((short (siWord imm a d 0x65#8)) : Window)) (fImm ((short (siWord imm a d 0x65#8)) : Window))) : Except Bad Instr) = _
  simp only [sr, sr2, sr0, fD, fA, fB, fFn, fImm, si_d, si_a, si_imm, and_self, if_true, reduceIte, ne_bit]
theorem ldd (d a : SReg) (imm : BitVec 12) : Statement (.ldd d a imm) := by
  refine of_parse _ _ rfl ?_
  rw [parse_short _ 0x66#8 (si_len ..) (si_op ..) (by decide)]
  show (.ok (.ldd (fD ((short (siWord imm a d 0x66#8)) : Window)) (fA ((short (siWord imm a d 0x66#8)) : Window)) (fImm ((short (siWord imm a d 0x66#8)) : Window))) : Except Bad Instr) = _
  simp only [sr, sr2, sr0, fD, fA, fB, fFn, fImm, si_d, si_a, si_imm, and_self, if_true, reduceIte, ne_bit]
theorem stb (d a : SReg) (imm : BitVec 12) : Statement (.stb d a imm) := by
  refine of_parse _ _ rfl ?_
  rw [parse_short _ 0x67#8 (si_len ..) (si_op ..) (by decide)]
  show (.ok (.stb (fD ((short (siWord imm a d 0x67#8)) : Window)) (fA ((short (siWord imm a d 0x67#8)) : Window)) (fImm ((short (siWord imm a d 0x67#8)) : Window))) : Except Bad Instr) = _
  simp only [sr, sr2, sr0, fD, fA, fB, fFn, fImm, si_d, si_a, si_imm, and_self, if_true, reduceIte, ne_bit]
theorem sth (d a : SReg) (imm : BitVec 12) : Statement (.sth d a imm) := by
  refine of_parse _ _ rfl ?_
  rw [parse_short _ 0x68#8 (si_len ..) (si_op ..) (by decide)]
  show (.ok (.sth (fD ((short (siWord imm a d 0x68#8)) : Window)) (fA ((short (siWord imm a d 0x68#8)) : Window)) (fImm ((short (siWord imm a d 0x68#8)) : Window))) : Except Bad Instr) = _
  simp only [sr, sr2, sr0, fD, fA, fB, fFn, fImm, si_d, si_a, si_imm, and_self, if_true, reduceIte, ne_bit]
theorem stw (d a : SReg) (imm : BitVec 12) : Statement (.stw d a imm) := by
  refine of_parse _ _ rfl ?_
  rw [parse_short _ 0x69#8 (si_len ..) (si_op ..) (by decide)]
  show (.ok (.stw (fD ((short (siWord imm a d 0x69#8)) : Window)) (fA ((short (siWord imm a d 0x69#8)) : Window)) (fImm ((short (siWord imm a d 0x69#8)) : Window))) : Except Bad Instr) = _
  simp only [sr, sr2, sr0, fD, fA, fB, fFn, fImm, si_d, si_a, si_imm, and_self, if_true, reduceIte, ne_bit]
theorem std (d a : SReg) (imm : BitVec 12) : Statement (.std d a imm) := by
  refine of_parse _ _ rfl ?_
  rw [parse_short _ 0x6a#8 (si_len ..) (si_op ..) (by decide)]
  show (.ok (.std (fD ((short (siWord imm a d 0x6a#8)) : Window)) (fA ((short (siWord imm a d 0x6a#8)) : Window)) (fImm ((short (siWord imm a d 0x6a#8)) : Window))) : Except Bad Instr) = _
  simp only [sr, sr2, sr0, fD, fA, fB, fFn, fImm, si_d, si_a, si_imm, and_self, if_true, reduceIte, ne_bit]
theorem ldf (d a b : SReg) (te : BitVec 5) (consume : BitVec 1) : Statement (.ldf d a b te consume) := by
  refine of_parse _ _ rfl ?_
  rw [parse_short _ 0x6b#8 (sr_len ..) (sr_op ..) (by decide)]
  show (if ((short (srWord (0#1 ++ consume ++ te) b a d 0x6b#8)) : Window).extractLsb' 31 1 = 0#1 then .ok (.ldf (fD ((short (srWord (0#1 ++ consume ++ te) b a d 0x6b#8)) : Window)) (fA ((short (srWord (0#1 ++ consume ++ te) b a d 0x6b#8)) : Window)) (fB ((short (srWord (0#1 ++ consume ++ te) b a d 0x6b#8)) : Window)) (((short (srWord (0#1 ++ consume ++ te) b a d 0x6b#8)) : Window).extractLsb' 25 5) (((short (srWord (0#1 ++ consume ++ te) b a d 0x6b#8)) : Window).extractLsb' 30 1)) else .error .reserved : Except Bad Instr) = _
  simp only [sr, sr2, sr0, fD, fA, fB, fFn, fImm, sr_d, sr_a, sr_b, sr_fn, ldf_31_1, ldf_25_5, ldf_30_1, and_self, if_true, reduceIte, ne_bit]
theorem stf (d a : SReg) (imm : BitVec 12) : Statement (.stf d a imm) := by
  refine of_parse _ _ rfl ?_
  rw [parse_short _ 0x6c#8 (si_len ..) (si_op ..) (by decide)]
  show (.ok (.stf (fD ((short (siWord imm a d 0x6c#8)) : Window)) (fA ((short (siWord imm a d 0x6c#8)) : Window)) (fImm ((short (siWord imm a d 0x6c#8)) : Window))) : Except Bad Instr) = _
  simp only [sr, sr2, sr0, fD, fA, fB, fFn, fImm, si_d, si_a, si_imm, and_self, if_true, reduceIte, ne_bit]
theorem feclr (a b : SReg) : Statement (.feclr a b) := by
  refine of_parse _ _ rfl ?_
  rw [parse_short _ 0x6d#8 (sr_len ..) (sr_op ..) (by decide)]
  show (if fD ((short (srWord 0#7 b a 0#5 0x6d#8)) : Window) = 0#5 ∧ fFn ((short (srWord 0#7 b a 0#5 0x6d#8)) : Window) = 0#7 then .ok (.feclr (fA ((short (srWord 0#7 b a 0#5 0x6d#8)) : Window)) (fB ((short (srWord 0#7 b a 0#5 0x6d#8)) : Window))) else .error .reserved : Except Bad Instr) = _
  simp only [sr, sr2, sr0, fD, fA, fB, fFn, fImm, sr_d, sr_a, sr_b, sr_fn, and_self, if_true, reduceIte, ne_bit]
theorem amo (d a b : SReg) (op : BitVec 4) (scope : BitVec 3) : Statement (.amo d a b op scope) := by
  refine of_parse _ _ rfl ?_
  rw [parse_short _ 0x6e#8 (sr_len ..) (sr_op ..) (by decide)]
  show (.ok (.amo (fD ((short (srWord (scope ++ op) b a d 0x6e#8)) : Window)) (fA ((short (srWord (scope ++ op) b a d 0x6e#8)) : Window)) (fB ((short (srWord (scope ++ op) b a d 0x6e#8)) : Window)) (((short (srWord (scope ++ op) b a d 0x6e#8)) : Window).extractLsb' 25 4) (((short (srWord (scope ++ op) b a d 0x6e#8)) : Window).extractLsb' 29 3)) : Except Bad Instr) = _
  simp only [sr, sr2, sr0, fD, fA, fB, fFn, fImm, sr_d, sr_a, sr_b, sr_fn, amo_25_4, amo_29_3, and_self, if_true, reduceIte, ne_bit]
theorem cas (d a b : SReg) (scope : BitVec 3) : Statement (.cas d a b scope) := by
  refine of_parse _ _ rfl ?_
  rw [parse_short _ 0x6f#8 (sr_len ..) (sr_op ..) (by decide)]
  show (if ((short (srWord (0#4 ++ scope) b a d 0x6f#8)) : Window).extractLsb' 28 4 = 0#4 then .ok (.cas (fD ((short (srWord (0#4 ++ scope) b a d 0x6f#8)) : Window)) (fA ((short (srWord (0#4 ++ scope) b a d 0x6f#8)) : Window)) (fB ((short (srWord (0#4 ++ scope) b a d 0x6f#8)) : Window)) (((short (srWord (0#4 ++ scope) b a d 0x6f#8)) : Window).extractLsb' 25 3)) else .error .reserved : Except Bad Instr) = _
  simp only [sr, sr2, sr0, fD, fA, fB, fFn, fImm, sr_d, sr_a, sr_b, sr_fn, cas_28_4, cas_25_3, and_self, if_true, reduceIte, ne_bit]
theorem acqRead (d a : SReg) (scope : BitVec 3) : Statement (.acqRead d a scope) := by
  refine of_parse _ _ rfl ?_
  rw [parse_short _ 0x70#8 (si_len ..) (si_op ..) (by decide)]
  show (acq (short (siWord (0#9 ++ scope) a d 0x70#8)) : Except Bad Instr) = _
  simp only [acq, fD, fA, fB, fFn, fImm, si_d, si_a, si_imm, sc_29_3, sc_23_1, sc_24_5, sc_24_8, sc_23_9, sc_20_3, and_self, if_true, reduceIte, ne_bit]
theorem acqWrite (d a : SReg) (scope : BitVec 3) (te : BitVec 5) : Statement (.acqWrite d a scope te) := by
  refine of_parse _ _ rfl ?_
  rw [parse_short _ 0x70#8 (si_len ..) (si_op ..) (by decide)]
  show (acq (short (siWord (0#3 ++ te ++ 1#1 ++ scope) a d 0x70#8)) : Except Bad Instr) = _
  simp only [acq, fD, fA, fB, fFn, fImm, si_d, si_a, si_imm, acqw_29_3, acqw_23_1, acqw_24_5, acqw_20_3, and_self, if_true, reduceIte, ne_bit]
theorem rel (d a : SReg) (scope : BitVec 3) : Statement (.rel d a scope) := by
  refine of_parse _ _ rfl ?_
  rw [parse_short _ 0x71#8 (si_len ..) (si_op ..) (by decide)]
  show (Sys2Proof.rel (short (siWord (0#9 ++ scope) a d 0x71#8)) : Except Bad Instr) = _
  simp only [Sys2Proof.rel, fD, fA, fB, fFn, fImm, si_d, si_a, si_imm, sc_29_3, sc_23_1, sc_24_5, sc_24_8, sc_23_9, sc_20_3, and_self, if_true, reduceIte, ne_bit]
theorem relYield (d a : SReg) (scope : BitVec 3) : Statement (.relYield d a scope) := by
  refine of_parse _ _ rfl ?_
  rw [parse_short _ 0x71#8 (si_len ..) (si_op ..) (by decide)]
  show (Sys2Proof.rel (short (siWord (0#8 ++ 1#1 ++ scope) a d 0x71#8)) : Except Bad Instr) = _
  simp only [Sys2Proof.rel, fD, fA, fB, fFn, fImm, si_d, si_a, si_imm, rely_24_8, rely_23_1, rely_20_3, and_self, if_true, reduceIte, ne_bit]
theorem fence (scope : BitVec 3) : Statement (.fence scope) := by
  refine of_parse _ _ rfl ?_
  rw [parse_short _ 0x72#8 (si_len ..) (si_op ..) (by decide)]
  show (if fD ((short (siWord (0#9 ++ scope) 0#5 0#5 0x72#8)) : Window) = 0#5 ∧ fA ((short (siWord (0#9 ++ scope) 0#5 0#5 0x72#8)) : Window) = 0#5 ∧ ((short (siWord (0#9 ++ scope) 0#5 0#5 0x72#8)) : Window).extractLsb' 23 9 = 0#9 then .ok (.fence (((short (siWord (0#9 ++ scope) 0#5 0#5 0x72#8)) : Window).extractLsb' 20 3)) else .error .reserved : Except Bad Instr) = _
  simp only [sr, sr2, sr0, fD, fA, fB, fFn, fImm, si_d, si_a, si_imm, sc_29_3, sc_23_1, sc_24_5, sc_24_8, sc_23_9, sc_20_3, and_self, if_true, reduceIte, ne_bit]
theorem pref (kind a : SReg) (imm : BitVec 12) : Statement (.pref kind a imm) := by
  refine of_parse _ _ rfl ?_
  rw [parse_short _ 0x73#8 (si_len ..) (si_op ..) (by decide)]
  show (.ok (.pref (fD ((short (siWord imm a kind 0x73#8)) : Window)) (fA ((short (siWord imm a kind 0x73#8)) : Window)) (fImm ((short (siWord imm a kind 0x73#8)) : Window))) : Except Bad Instr) = _
  simp only [sr, sr2, sr0, fD, fA, fB, fFn, fImm, si_d, si_a, si_imm, and_self, if_true, reduceIte, ne_bit]
theorem flush (a b : SReg) : Statement (.flush a b) := by
  refine of_parse _ _ rfl ?_
  rw [parse_short _ 0x74#8 (sr_len ..) (sr_op ..) (by decide)]
  show (if fD ((short (srWord 0#7 b a 0#5 0x74#8)) : Window) = 0#5 ∧ fFn ((short (srWord 0#7 b a 0#5 0x74#8)) : Window) = 0#7 then .ok (.flush (fA ((short (srWord 0#7 b a 0#5 0x74#8)) : Window)) (fB ((short (srWord 0#7 b a 0#5 0x74#8)) : Window))) else .error .reserved : Except Bad Instr) = _
  simp only [sr, sr2, sr0, fD, fA, fB, fFn, fImm, sr_d, sr_a, sr_b, sr_fn, and_self, if_true, reduceIte, ne_bit]
theorem inval (a b : SReg) : Statement (.inval a b) := by
  refine of_parse _ _ rfl ?_
  rw [parse_short _ 0x75#8 (sr_len ..) (sr_op ..) (by decide)]
  show (if fD ((short (srWord 0#7 b a 0#5 0x75#8)) : Window) = 0#5 ∧ fFn ((short (srWord 0#7 b a 0#5 0x75#8)) : Window) = 0#7 then .ok (.inval (fA ((short (srWord 0#7 b a 0#5 0x75#8)) : Window)) (fB ((short (srWord 0#7 b a 0#5 0x75#8)) : Window))) else .error .reserved : Except Bad Instr) = _
  simp only [sr, sr2, sr0, fD, fA, fB, fFn, fImm, sr_d, sr_a, sr_b, sr_fn, and_self, if_true, reduceIte, ne_bit]
theorem vadd (f : LV) : Statement (.vadd f) := of_parse _ _ rfl (lv_parse _ f _ rfl)
theorem vsub (f : LV) : Statement (.vsub f) := of_parse _ _ rfl (lv_parse _ f _ rfl)
theorem vmul (f : LV) : Statement (.vmul f) := of_parse _ _ rfl (lv_parse _ f _ rfl)
theorem vfma (f : LV) : Statement (.vfma f) := of_parse _ _ rfl (lv_parse _ f _ rfl)
theorem vfms (f : LV) : Statement (.vfms f) := of_parse _ _ rfl (lv_parse _ f _ rfl)
theorem vmin (f : LV) : Statement (.vmin f) := of_parse _ _ rfl (lv_parse _ f _ rfl)
theorem vmax (f : LV) : Statement (.vmax f) := of_parse _ _ rfl (lv_parse _ f _ rfl)
theorem vabs (f : LV) : Statement (.vabs f) := of_parse _ _ rfl (lv_parse _ f _ rfl)
theorem vneg (f : LV) : Statement (.vneg f) := of_parse _ _ rfl (lv_parse _ f _ rfl)
theorem vand (f : LV) : Statement (.vand f) := of_parse _ _ rfl (lv_parse _ f _ rfl)
theorem vor (f : LV) : Statement (.vor f) := of_parse _ _ rfl (lv_parse _ f _ rfl)
theorem vxor (f : LV) : Statement (.vxor f) := of_parse _ _ rfl (lv_parse _ f _ rfl)
theorem vandn (f : LV) : Statement (.vandn f) := of_parse _ _ rfl (lv_parse _ f _ rfl)
theorem vshl (f : LV) : Statement (.vshl f) := of_parse _ _ rfl (lv_parse _ f _ rfl)
theorem vshr (f : LV) : Statement (.vshr f) := of_parse _ _ rfl (lv_parse _ f _ rfl)
theorem vsra (f : LV) : Statement (.vsra f) := of_parse _ _ rfl (lv_parse _ f _ rfl)
theorem vmulh (f : LV) : Statement (.vmulh f) := of_parse _ _ rfl (lv_parse _ f _ rfl)
theorem vdiv (f : LV) : Statement (.vdiv f) := of_parse _ _ rfl (lv_parse _ f _ rfl)
theorem vsqrt (f : LV) : Statement (.vsqrt f) := of_parse _ _ rfl (lv_parse _ f _ rfl)
theorem vrcp (f : LV) : Statement (.vrcp f) := of_parse _ _ rfl (lv_parse _ f _ rfl)
theorem vrsq (f : LV) : Statement (.vrsq f) := of_parse _ _ rfl (lv_parse _ f _ rfl)
theorem vexp2 (f : LV) : Statement (.vexp2 f) := of_parse _ _ rfl (lv_parse _ f _ rfl)
theorem vlog2 (f : LV) : Statement (.vlog2 f) := of_parse _ _ rfl (lv_parse _ f _ rfl)
theorem vsint (f : LV) : Statement (.vsint f) := of_parse _ _ rfl (lv_parse _ f _ rfl)
theorem vcost (f : LV) : Statement (.vcost f) := of_parse _ _ rfl (lv_parse _ f _ rfl)
theorem vtanh (f : LV) : Statement (.vtanh f) := of_parse _ _ rfl (lv_parse _ f _ rfl)
theorem vcmp (f : LV) : Statement (.vcmp f) := of_parse _ _ rfl (lv_parse _ f _ rfl)
theorem vsel (f : LV) : Statement (.vsel f) := of_parse _ _ rfl (lv_parse _ f _ rfl)
theorem vmov (f : LV) : Statement (.vmov f) := of_parse _ _ rfl (lv_parse _ f _ rfl)
theorem vbcast (f : LV) : Statement (.vbcast f) := of_parse _ _ rfl (lv_parse _ f _ rfl)
theorem vextr (f : LV) : Statement (.vextr f) := of_parse _ _ rfl (lv_parse _ f _ rfl)
theorem vins (f : LV) : Statement (.vins f) := of_parse _ _ rfl (lv_parse _ f _ rfl)
theorem vcvt (f : LV) : Statement (.vcvt f) := of_parse _ _ rfl (lv_parse _ f _ rfl)
theorem vqnt (f : LV) : Statement (.vqnt f) := of_parse _ _ rfl (lv_parse _ f _ rfl)
theorem vdq (f : LV) : Statement (.vdq f) := of_parse _ _ rfl (lv_parse _ f _ rfl)
theorem vretag (f : LV) : Statement (.vretag f) := of_parse _ _ rfl (lv_parse _ f _ rfl)
theorem vperm (f : LV) : Statement (.vperm f) := of_parse _ _ rfl (lv_parse _ f _ rfl)
theorem vrotl (f : LV) : Statement (.vrotl f) := of_parse _ _ rfl (lv_parse _ f _ rfl)
theorem vzip (f : LV) : Statement (.vzip f) := of_parse _ _ rfl (lv_parse _ f _ rfl)
theorem vunzip (f : LV) : Statement (.vunzip f) := of_parse _ _ rfl (lv_parse _ f _ rfl)
theorem vredadd (f : LV) : Statement (.vredadd f) := of_parse _ _ rfl (lv_parse _ f _ rfl)
theorem vredmax (f : LV) : Statement (.vredmax f) := of_parse _ _ rfl (lv_parse _ f _ rfl)
theorem vredmin (f : LV) : Statement (.vredmin f) := of_parse _ _ rfl (lv_parse _ f _ rfl)
theorem vscan (f : LV) : Statement (.vscan f) := of_parse _ _ rfl (lv_parse _ f _ rfl)
theorem vnzs (f : LV) : Statement (.vnzs f) := of_parse _ _ rfl (lv_parse _ f _ rfl)
theorem vdot4 (f : LV) : Statement (.vdot4 f) := of_parse _ _ rfl (lv_parse _ f _ rfl)
theorem vclz (f : LV) : Statement (.vclz f) := of_parse _ _ rfl (lv_parse _ f _ rfl)
theorem vpopc (f : LV) : Statement (.vpopc f) := of_parse _ _ rfl (lv_parse _ f _ rfl)
theorem vidx (f : LV) : Statement (.vidx f) := of_parse _ _ rfl (lv_parse _ f _ rfl)
theorem vld (f : LM) : Statement (.vld f) := of_parse _ _ rfl (lm_parse _ f _ rfl rfl)
theorem vst (f : LM) : Statement (.vst f) := of_parse _ _ rfl (lm_parse _ f _ rfl rfl)
theorem vlds (f : LM) : Statement (.vlds f) := of_parse _ _ rfl (lm_parse _ f _ rfl rfl)
theorem vsts (f : LM) : Statement (.vsts f) := of_parse _ _ rfl (lm_parse _ f _ rfl rfl)
theorem vgath (f : LM) : Statement (.vgath f) := of_parse _ _ rfl (lm_parse _ f _ rfl rfl)
theorem vscat (f : LM) : Statement (.vscat f) := of_parse _ _ rfl (lm_parse _ f _ rfl rfl)
theorem vldf (f : LM) : Statement (.vldf f) := of_parse _ _ rfl (lm_parse _ f _ rfl rfl)
theorem vstf (f : LM) : Statement (.vstf f) := of_parse _ _ rfl (lm_parse _ f _ rfl rfl)
theorem vamo (f : LM) : Statement (.vamo f) := of_parse _ _ rfl (lm_parse _ f _ rfl rfl)
theorem qwait (f : LM) : Statement (.qwait f) := of_parse _ _ rfl (lm_parse _ f _ rfl rfl)
theorem qsig (f : LM) : Statement (.qsig f) := of_parse _ _ rfl (lm_parse _ f _ rfl rfl)
theorem barArriveWait (f : LM) : Statement (.barArriveWait f) := of_decode _ _ rfl fun hc => by
  have h := own_of hc
  simp only [Bool.and_eq_true, beq_iff_eq] at h
  exact lm_parse _ f _ rfl (by simp only [lmOp, h.1]; rfl)
theorem barArrive (f : LM) : Statement (.barArrive f) := of_decode _ _ rfl fun hc => by
  have h := own_of hc
  simp only [Bool.and_eq_true, beq_iff_eq] at h
  exact lm_parse _ f _ rfl (by simp only [lmOp, h.1]; rfl)
theorem barWait (f : LM) : Statement (.barWait f) := of_decode _ _ rfl fun hc => by
  have h := own_of hc
  simp only [Bool.and_eq_true, beq_iff_eq] at h
  exact lm_parse _ f _ rfl (by simp only [lmOp, h.1]; rfl)
theorem msend (f : LM) : Statement (.msend f) := of_parse _ _ rfl (lm_parse _ f _ rfl rfl)
theorem mrecv (f : LM) : Statement (.mrecv f) := of_parse _ _ rfl (lm_parse _ f _ rfl rfl)
theorem mprobe (f : LM) : Statement (.mprobe f) := of_parse _ _ rfl (lm_parse _ f _ rfl rfl)
theorem mins (f : LM) : Statement (.mins f) := of_parse _ _ rfl (lm_parse _ f _ rfl rfl)
theorem mset (f : LM) : Statement (.mset f) := of_parse _ _ rfl (lm_parse _ f _ rfl rfl)
theorem mrem (f : LM) : Statement (.mrem f) := of_parse _ _ rfl (lm_parse _ f _ rfl rfl)
theorem mprobev (f : LM) : Statement (.mprobev f) := of_parse _ _ rfl (lm_parse _ f _ rfl rfl)
theorem msetv (f : LM) : Statement (.msetv f) := of_parse _ _ rfl (lm_parse _ f _ rfl rfl)
theorem mstat (f : LM) : Statement (.mstat f) := of_parse _ _ rfl (lm_parse _ f _ rfl rfl)
theorem miter (f : LM) : Statement (.miter f) := of_parse _ _ rfl (lm_parse _ f _ rfl rfl)
theorem wfeed (f : LM) : Statement (.wfeed f) := of_parse _ _ rfl (lm_parse _ f _ rfl rfl)
theorem wread (f : LM) : Statement (.wread f) := of_parse _ _ rfl (lm_parse _ f _ rfl rfl)
theorem wlen (f : LM) : Statement (.wlen f) := of_parse _ _ rfl (lm_parse _ f _ rfl rfl)
theorem badd (f : LM) : Statement (.badd f) := of_parse _ _ rfl (lm_parse _ f _ rfl rfl)
theorem bload (f : LM) : Statement (.bload f) := of_parse _ _ rfl (lm_parse _ f _ rfl rfl)
theorem bdrain (f : LM) : Statement (.bdrain f) := of_parse _ _ rfl (lm_parse _ f _ rfl rfl)
theorem tld (f : LM) : Statement (.tld f) := of_parse _ _ rfl (lm_parse _ f _ rfl rfl)
theorem tst (f : LM) : Statement (.tst f) := of_parse _ _ rfl (lm_parse _ f _ rfl rfl)
theorem tzero (f : LM) : Statement (.tzero f) := of_parse _ _ rfl (lm_parse _ f _ rfl rfl)
theorem mma (f : LM) : Statement (.mma f) := of_parse _ _ rfl (lm_parse _ f _ rfl rfl)
theorem mmas (f : LM) : Statement (.mmas f) := of_parse _ _ rfl (lm_parse _ f _ rfl rfl)
theorem mmar (f : LM) : Statement (.mmar f) := of_parse _ _ rfl (lm_parse _ f _ rfl rfl)
theorem adrain (f : LM) : Statement (.adrain f) := of_parse _ _ rfl (lm_parse _ f _ rfl rfl)
theorem ald (f : LM) : Statement (.ald f) := of_parse _ _ rfl (lm_parse _ f _ rfl rfl)
theorem msync (f : LM) : Statement (.msync f) := of_parse _ _ rfl (lm_parse _ f _ rfl rfl)
theorem cpy (f : LM) : Statement (.cpy f) := of_decode _ _ rfl fun hc => by
  have h := own_of hc
  have h : f.fn.toNat / 8 = 0 := by simp only [decide_eq_true_eq] at h; omega
  exact lm_parse _ f _ rfl (by simp only [lmOp, h]; rfl)
theorem cpyBrdx (f : LM) : Statement (.cpyBrdx f) := of_decode _ _ rfl fun hc => by
  have h := own_of hc
  simp only [Bool.and_eq_true, beq_iff_eq] at h
  exact lm_parse _ f _ rfl (by simp only [lmOp, h.1]; rfl)
theorem cpyBrdc (f : LM) : Statement (.cpyBrdc f) := of_decode _ _ rfl fun hc => by
  have h := own_of hc
  simp only [Bool.and_eq_true, beq_iff_eq] at h
  exact lm_parse _ f _ rfl (by simp only [lmOp, h.1]; rfl)
theorem cpyMig (f : LM) : Statement (.cpyMig f) := of_decode _ _ rfl fun hc => by
  have h := own_of hc
  simp only [Bool.and_eq_true, beq_iff_eq] at h
  exact lm_parse _ f _ rfl (by simp only [lmOp, h.1]; rfl)
theorem cpy2 (f : LM) : Statement (.cpy2 f) := of_parse _ _ rfl (lm_parse _ f _ rfl rfl)
theorem cgath (f : LM) : Statement (.cgath f) := of_parse _ _ rfl (lm_parse _ f _ rfl rfl)
theorem cscat (f : LM) : Statement (.cscat f) := of_parse _ _ rfl (lm_parse _ f _ rfl rfl)
theorem cdec (f : LM) : Statement (.cdec f) := of_parse _ _ rfl (lm_parse _ f _ rfl rfl)
theorem cfill (f : LM) : Statement (.cfill f) := of_parse _ _ rfl (lm_parse _ f _ rfl rfl)
theorem bxf (f : LM) : Statement (.bxf f) := of_parse _ _ rfl (lm_parse _ f _ rfl rfl)
theorem cpoll (f : LM) : Statement (.cpoll f) := of_parse _ _ rfl (lm_parse _ f _ rfl rfl)
theorem cwait (f : LM) : Statement (.cwait f) := of_parse _ _ rfl (lm_parse _ f _ rfl rfl)
theorem cwpos (f : LM) : Statement (.cwpos f) := of_parse _ _ rfl (lm_parse _ f _ rfl rfl)
theorem ccancel (f : LM) : Statement (.ccancel f) := of_parse _ _ rfl (lm_parse _ f _ rfl rfl)
theorem cred (f : LM) : Statement (.cred f) := of_parse _ _ rfl (lm_parse _ f _ rfl rfl)
theorem vdUncorrectableError (vf : Nat) : Statement (.vdUncorrectableError vf) := none_of _ rfl
theorem peerJoinRequest (vf dev peerVf : Nat) (identity tenantKey : BitVec 512) (peerOk : Bool) : Statement (.peerJoinRequest vf dev peerVf identity tenantKey peerOk) := none_of _ rfl
theorem peerJoinEnd (vf dev : Nat) : Statement (.peerJoinEnd vf dev) := none_of _ rfl
theorem straitHopForward (dest : BitVec 5) (hops : Nat) : Statement (.straitHopForward dest hops) := none_of _ rfl
theorem powerOnBoot : Statement .powerOnBoot := none_of _ rfl
theorem recoveryImageCheck : Statement .recoveryImageCheck := none_of _ rfl
theorem holmUncorrectableError : Statement .holmUncorrectableError := none_of _ rfl
theorem moduleResetTakesEffect : Statement .moduleResetTakesEffect := none_of _ rfl
theorem thermalStep : Statement .thermalStep := none_of _ rfl
theorem thermalShutdown : Statement .thermalShutdown := none_of _ rfl
theorem heartbeat : Statement .heartbeat := none_of _ rfl
theorem heartbeatGapExpiry : Statement .heartbeatGapExpiry := none_of _ rfl
theorem ownerClaim : Statement .ownerClaim := none_of _ rfl
theorem ownerHandover : Statement .ownerHandover := none_of _ rfl
theorem ownerAccept : Statement .ownerAccept := none_of _ rfl
theorem handoverTimeout : Statement .handoverTimeout := none_of _ rfl
theorem mctpClaim : Statement .mctpClaim := none_of _ rfl
theorem mctpHeartbeat : Statement .mctpHeartbeat := none_of _ rfl
theorem mctpHandover : Statement .mctpHandover := none_of _ rfl
theorem mctpAccept : Statement .mctpAccept := none_of _ rfl
theorem controlEntryRefused : Statement .controlEntryRefused := none_of _ rfl
theorem vdCreate : Statement .vdCreate := none_of _ rfl
theorem vdDestroy : Statement .vdDestroy := none_of _ rfl
theorem vdPause : Statement .vdPause := none_of _ rfl
theorem vdResume : Statement .vdResume := none_of _ rfl
theorem vdEvict : Statement .vdEvict := none_of _ rfl
theorem vdRestore : Statement .vdRestore := none_of _ rfl
theorem vdReset : Statement .vdReset := none_of _ rfl
theorem frameGrant : Statement .frameGrant := none_of _ rfl
theorem frameReclaim : Statement .frameReclaim := none_of _ rfl
theorem sliceSet : Statement .sliceSet := none_of _ rfl
theorem atollSplit : Statement .atollSplit := none_of _ rfl
theorem atollMerge : Statement .atollMerge := none_of _ rfl
theorem waysSet : Statement .waysSet := none_of _ rfl
theorem powerCap : Statement .powerCap := none_of _ rfl
theorem query : Statement .query := none_of _ rfl
theorem domainSet : Statement .domainSet := none_of _ rfl
theorem routeSet : Statement .routeSet := none_of _ rfl
theorem moduleReset : Statement .moduleReset := none_of _ rfl
theorem vdJoin : Statement .vdJoin := none_of _ rfl
theorem progLoad : Statement .progLoad := none_of _ rfl
theorem memWrite : Statement .memWrite := none_of _ rfl
theorem memRead : Statement .memRead := none_of _ rfl
theorem graphSubmit : Statement .graphSubmit := none_of _ rfl
theorem hostWindow : Statement .hostWindow := none_of _ rfl
theorem attest : Statement .attest := none_of _ rfl
theorem routeWaitExpiry : Statement .routeWaitExpiry := none_of _ rfl
theorem classVReply : Statement .classVReply := none_of _ rfl
theorem faultMessageAtSlice : Statement .faultMessageAtSlice := none_of _ rfl
theorem fwakeAtSlice : Statement .fwakeAtSlice := none_of _ rfl
theorem wakeArrival : Statement .wakeArrival := none_of _ rfl
theorem tlbInvalidation : Statement .tlbInvalidation := none_of _ rfl
theorem faultSliceCsrAccess : Statement .faultSliceCsrAccess := none_of _ rfl
theorem memoryAccessAtPlace : Statement .memoryAccessAtPlace := none_of _ rfl
theorem atomicAtPlace : Statement .atomicAtPlace := none_of _ rfl
theorem migrationForward : Statement .migrationForward := none_of _ rfl
theorem syncOpAtObject : Statement .syncOpAtObject := none_of _ rfl
theorem haloPush : Statement .haloPush := none_of _ rfl
theorem barrierArrivalAtHome : Statement .barrierArrivalAtHome := none_of _ rfl
theorem messageArrival : Statement .messageArrival := none_of _ rfl
theorem qsigAddAtCore : Statement .qsigAddAtCore := none_of _ rfl
theorem mapOpAtHome : Statement .mapOpAtHome := none_of _ rfl
theorem windowOpAtHome : Statement .windowOpAtHome := none_of _ rfl
theorem grantRequestAtHome : Statement .grantRequestAtHome := none_of _ rfl
theorem partialSumAtHome : Statement .partialSumAtHome := none_of _ rfl
theorem bloadAtHome : Statement .bloadAtHome := none_of _ rfl
theorem forcedDrainRequest : Statement .forcedDrainRequest := none_of _ rfl
theorem mmarLanding : Statement .mmarLanding := none_of _ rfl
theorem bxfChunkAtBank : Statement .bxfChunkAtBank := none_of _ rfl
theorem eret : Statement .eret := by
  refine of_parse _ _ rfl ?_
  rw [parse_short _ 0x46#8 (sr_len ..) (sr_op ..) (by decide)]
  show (sr0 ((short (srWord 0#7 0#5 0#5 0#5 0x46#8)) : Window) .eret : Except Bad Instr) = _
  simp only [sr, sr2, sr0, fD, fA, fB, fFn, fImm, sr_d, sr_a, sr_b, sr_fn, zero_10_22, and_self, if_true, reduceIte, ne_bit]
theorem halt : Statement .halt := by
  refine of_parse _ _ rfl ?_
  rw [parse_short _ 0x47#8 (sr_len ..) (sr_op ..) (by decide)]
  show (sr0 ((short (srWord 0#7 0#5 0#5 0#5 0x47#8)) : Window) .halt : Except Bad Instr) = _
  simp only [sr, sr2, sr0, fD, fA, fB, fFn, fImm, sr_d, sr_a, sr_b, sr_fn, zero_10_22, and_self, if_true, reduceIte, ne_bit]
theorem yield : Statement .yield := by
  refine of_parse _ _ rfl ?_
  rw [parse_short _ 0x48#8 (sr_len ..) (sr_op ..) (by decide)]
  show (sr0 ((short (srWord 0#7 0#5 0#5 0#5 0x48#8)) : Window) .yield : Except Bad Instr) = _
  simp only [sr, sr2, sr0, fD, fA, fB, fFn, fImm, sr_d, sr_a, sr_b, sr_fn, zero_10_22, and_self, if_true, reduceIte, ne_bit]
theorem nop : Statement .nop := by
  refine of_parse _ _ rfl ?_
  rw [parse_short _ 0x49#8 (sr_len ..) (sr_op ..) (by decide)]
  show (sr0 ((short (srWord 0#7 0#5 0#5 0#5 0x49#8)) : Window) .nop : Except Bad Instr) = _
  simp only [sr, sr2, sr0, fD, fA, fB, fFn, fImm, sr_d, sr_a, sr_b, sr_fn, zero_10_22, and_self, if_true, reduceIte, ne_bit]
theorem mfree : Statement .mfree := by
  refine of_parse _ _ rfl ?_
  rw [parse_short _ 0x4d#8 (sr_len ..) (sr_op ..) (by decide)]
  show (sr0 ((short (srWord 0#7 0#5 0#5 0#5 0x4d#8)) : Window) .mfree : Except Bad Instr) = _
  simp only [sr, sr2, sr0, fD, fA, fB, fFn, fImm, sr_d, sr_a, sr_b, sr_fn, zero_10_22, and_self, if_true, reduceIte, ne_bit]
theorem scalarLoadReply : Statement .scalarLoadReply := none_of _ rfl
end Sys2Proof.Laws.Encoding
end

