-- ==== Sys2Proof/Tests/Slice0.lean ====
section
/-! SUPPORT. The model's own tests: for each obligation with hypotheses, a state and operands that meet them
(test_meets_…); a word for each instruction that has one, laid out by hand from the manual's encoding tables
(test_…_words_…); an ill-formed term for each check; and single steps whose results the manual states. The hypotheses
that rest on an opaque function of Config (whether an image is installed, an entry opens, a signature verifies) have no
witness of their own: either answer is possible of an opaque function, and each such obligation covers both. -/

open Sys2Proof Sys2Proof.Machine
namespace Sys2Proof.Tests
set_option Elab.async false

/-! ### Small states -/

/-- The NOP of Table 14.13, loaded. -/
def w0 : State := State.reset.withFetchWord 32 0x124

/-- The issuing thread's slot changed, with a handler at 0x100. -/
def user (g : Slot → Slot) : State := w0.onSlot fun x => g { x with trapvec := 0x100 }

/-- The same in S mode. -/
def super (g : Slot → Slot) : State := user fun x => g { x with priv := true }

/-- A state with its core changed. -/
def onCore (s : State) (g : Core → Core) : State := (Eff.core 1 0 g).apply s

/-- A state with its virtual device changed. -/
def onVd (s : State) (g : VD → VD) : State := (Eff.vd 1 g).apply s

/-- An operation that returns one scalar to s1. -/
def op0 : Op := ⟨1, 0, 1, 0, true, 0, 1, .none, none, [], [(1, 0)], [], 0, 0, 0, false, false, 0, [], 0, []⟩

/-- A packet of the thread under delivery, with its operation outstanding. -/
def flying (s : State) (o : Op) (pk : Packet) : State :=
  { s.onSlot (fun x => { x with ops := [o] }) with
    flights := [⟨1, ⟨1, 0, 0⟩, 1, 0, pk⟩], nextId := 2, turn := 1 }

def flight1 (pk : Packet) : Flight := ⟨1, ⟨1, 0, 0⟩, 1, 0, pk⟩

theorem issues_of {s : State} (h : (s.slotOf s.cur).live = true ∧ (s.vdAt s.cur.vf).isSome = true) : s.Issues := h

theorem canTrap_of {s : State} (h : s.here.doubleTrap = false ∧ s.here.took = none) : s.CanTrap := h

theorem inv_of {s : State} (h : Memory.wf s.mem = true ∧ Memory.wf s.host = true ∧ s.full.Pairwise (· < ·) ∧
    (s.flights.map (·.id)).Pairwise (· < ·) ∧ (∀ f ∈ s.flights, f.id < s.nextId) ∧
    (s.vds.map (·.1)).Pairwise (· < ·) ∧ (∀ e ∈ s.vds, e.2.vf = e.1) ∧ (s.isles.map (·.1)).Pairwise (· < ·)) : s.Inv := by
  obtain ⟨mem, host, full, flights, fresh, vds, named, isles⟩ := h
  constructor <;> assumption

theorem keyed_of {α : Type} {l : List (Nat × α)} (h : (l.map (·.1)).Pairwise (· < ·)) : Keyed l := h

/-- exec answers a next state. -/
def answers (i : Instr) (s : State) : Bool := match exec i s with | .next _ => true | _ => false

theorem test_w0 : w0.Inv ∧ w0.Issues ∧ (user id).Inv ∧ (user id).Issues ∧ (super id).Issues ∧ (user id).CanTrap :=
  ⟨inv_of (by decide +kernel), issues_of (by decide +kernel), inv_of (by decide +kernel), issues_of (by decide +kernel),
   issues_of (by decide +kernel), canTrap_of (by decide +kernel)⟩

theorem test_meets_frame : answers (.add 1 2 3) w0 = true ∧ answers (.pand 1 2 3) w0 = true := by decide +kernel

def holding (r : SReg) (v : Word) : State := user fun x => x.setS r v

theorem test_meets_branches :
    (holding 7 0).here.rs 7 = 0 ∧ (holding 7 1).here.rs 7 ≠ 0 ∧ ((holding 7 (-1)).here.rs 7).msb = true ∧
    ((holding 7 1).here.rs 7).msb = false ∧ w0.here.rp 0 ≠ 0 ∧ w0.here.rp 1 = 0 := by decide +kernel

theorem test_meets_jumps : (holding 7 3).Issues ∧ (holding 7 3).CanTrap ∧ ((holding 7 3).here.rs 7).toNat % 4 ≠ 0 ∧
    ((holding 7 0xFFFFFFFFFFFFFC).here.rs 7).toNat < 2 ^ 56 ∧
    ((holding 7 0xFFFFFFFFFFFFFC).here.rs 7).toNat % 4 = 0 ∧
    2 ^ 56 ≤ ((holding 7 0x100000000000000).here.rs 7).toNat :=
  ⟨issues_of (by decide +kernel), canTrap_of (by decide +kernel), by decide +kernel⟩

/-- A slot in its handler. -/
def trapped : State := user fun x => { x with trapst := 2 }

theorem test_meets_double_trap : trapped.Issues ∧ trapped.here.trapst.getLsbD 1 = true ∧ w0.here.trapvec = 0 ∧
    (user id).here.priv = false ∧ (super id).here.priv = true := ⟨issues_of (by decide +kernel), by decide +kernel⟩

/-- A slot whose wake latch is set and that holds the claim. -/
def ready : State := user fun x => { x with latch := true, claim := true }

/-- Slot 0 issues while slot 1 holds the claim. -/
def claimed : State := onCore (user id) fun c => c.setSlot 1 { c.slotAt 1 with claim := true }

theorem test_meets_thread_control : ready.Issues ∧ claimed.Issues ∧ ready.here.latch = true ∧ ready.here.claim = true ∧
    (user id).here.latch = false ∧ (user id).here.claim = false ∧
    (∀ k < 4, (((user id).coreAt 1 0).slotAt k).claim = false) ∧ ((user id).coreAt 1 0).claims = [] ∧
    claimed.here.claim = false ∧ ((claimed.coreAt 1 0).slotAt 1).claim = true :=
  ⟨issues_of (by decide +kernel), issues_of (by decide +kernel), by decide +kernel⟩

theorem test_meets_csrs : (user id).here.team = none ∧ (((holding 7 4).here.rs 7).extractLsb' 0 3).toNat < 5 ∧
    5 ≤ (((holding 7 5).here.rs 7).extractLsb' 0 3).toNat ∧ (0x020#12).toNat = 0x020 ∧ (0x025#12).toNat = 0x025 := by
  decide +kernel

/-- s2 holds an address and s3 a value. -/
def asking (va v : Word) : State := user fun x => (x.setS 2 va).setS 3 v

def here (pa : Nat) : Place := .dram pa 3 false false none

theorem test_meets_scalar_accesses : (asking 0x1000 8).Issues ∧
    (asking 0x1000 8).leads 0x1000 8 .read = .at (here 0x1000) false ∧
    (asking 0x1000 8).leads 0x1FFFFF 1 .write = .at (here 0x1FFFFF) false ∧
    (asking 0x1000 8).leads 0xF2000000000000 8 .atomic = .at (.window 0 0) false ∧
    (asking 0x1000 8).mayStore 0x1000 false ∧ (asking 0x1000 8).hasBits (here 0x1000) ∧ (asking 0x1000 8).allowsAtomic 0x1000 (here 0x1000) ∧
    (asking 0x1000 8).AllLead [.access ⟨0x1000, 8, 255, .setEmpty, 0, 0, 8⟩] := by
  refine ⟨issues_of (by decide +kernel), by decide +kernel, by decide +kernel, by decide +kernel, .inl rfl, trivial, rfl, ?_⟩
  intro p hp
  rw [List.mem_singleton.mp hp]
  exact ⟨here 0x1000, false, by decide +kernel, trivial, trivial⟩

theorem test_meets_scalar_traps : (asking 0x1001 0).CanTrap ∧ ((asking 0x1001 0).here.rs 2).toNat % 8 ≠ 0 ∧
    (asking 0 0).leads (2 ^ 56) 8 .read = .addr ∧ (asking 0 0).leads (2 ^ 56) 8 .write = .addr ∧
    (asking 0 0).leads (2 ^ 56) 8 .atomic = .addr := ⟨canTrap_of (by decide +kernel), by decide +kernel⟩

/-- A core that translates by tables and holds the translation of page 1. -/
def mapped (value : BitVec 128) (va v : Word) : State :=
  onCore (asking va v) fun c => { c with table := 0x10000, tlb := [⟨2, value⟩] }

theorem test_meets_tokens : (mapped 71 0x10000 0).CanTrap ∧ (mapped 71 0x10000 0).Issues ∧
    (mapped 71 0x10000 0).leads 0x10000 8 .write = .at (.dram 0 0 false false none) true ∧
    (mapped 71 0x10000 0).here.holdsToken 0x10000 = false :=
  ⟨canTrap_of (by decide +kernel), issues_of (by decide +kernel), by decide +kernel⟩

theorem test_meets_page_fault : (mapped 0 0x10000 0).isPager (mapped 0 0x10000 0).cur = false ∧
    (mapped 0 0x10000 0).here.held = [] ∧ (mapped 0 0x10000 0).here.record = none ∧
    (mapped 0 0x10000 0).leads 0x10000 8 .read = .fault 2 ∧ (mapped 0 0x10000 0).leads 0x10000 8 .write = .fault 2 := by
  decide +kernel

theorem test_meets_cache_maintenance : w0.Inv ∧ w0.Issues ∧ w0.vdAt w0.cur.vf = some (firstVd 0) :=
  ⟨test_w0.1, test_w0.2.1, by decide +kernel⟩

/-- A vector register's value of a type. -/
def vec (t : Tag) : VVal := ⟨0, 0, t⟩

/-- v1, v2 and v3 of one type each, s2 an address. -/
def vectors (a b c : Tag) (va : Word) : State := user fun x =>
  { (x.setS 2 va) with v := ((x.v.set 1 (vec a)).set 2 (vec b)).set 3 (vec c) }

def lv (d a b c : VReg) (fmt : BitVec 5) (fn : BitVec 21) : LV := ⟨0, 0, 0, 0, fmt, 0, d, a, b, c, 0, 0, 0, 0, 0, 0, fn⟩

theorem test_meets_vectors : (vectors 4 4 4 0).Issues ∧ ((vectors 4 4 4 0).here.rv 1).tag.toNat = 4 ∧
    ((vectors 4 4 4 0).here.rv 0).tag = 0 ∧ ((vectors 1 2 4 0).here.rv 1).tag = 1 ∧ isFloat 4 = false ∧ isLG 4 = true ∧
    (∀ k < 64, active (laneMask (vectors 4 4 4 0).here (lv 0 1 2 3 4 0)) 32 k = true) ∧
    ((vectors 13 8 4 0).here.rv 1).tag = 13 ∧ isBlock 13 = true ∧ ((vectors 13 8 4 0).here.rv 2).tag = 8 :=
  ⟨issues_of (by decide +kernel), by decide +kernel⟩

theorem test_meets_vector_tags : (vectors 4 4 4 0).CanTrap ∧ ((vectors 4 4 4 0).here.rv 1).tag ≠ 8 ∧
    isLG (VVal.tag ((vectors 17 4 4 0).here.rv 1)).toNat = false :=
  ⟨canTrap_of (by decide +kernel), by decide +kernel⟩

/-- A class F result that is due, and one that is not. -/
def resulting : State := user fun x =>
  { x with pend := [⟨0, 1, [], [(3, 5)], [], 1⟩, ⟨4, 2, [(1, vec 4)], [], [], 0⟩] }

theorem test_meets_due_results : (resulting.vdAt 1).isSome = true ∧
    ((resulting.slotOf ⟨1, 0, 0⟩).pend.filter fun p => decide (p.due ≤ resulting.cycle)) ≠ [] := by decide +kernel

def replying : State := flying (user id) op0 .vreply

theorem test_meets_replies : replying.flightAt replying.turn = some (flight1 .vreply) ∧
    (replying.slotOf ⟨1, 0, 0⟩).opOf 1 = some op0 ∧
    (flying (user id) op0 .sreply).flightAt 1 = some (flight1 .sreply) := by decide +kernel


def lm (fmt : BitVec 5) (sa sb sc : SReg) (v : VReg) (pg : BitVec 3) (fn : BitVec 6) : LM :=
  ⟨0, 0, 0, 0, fmt, 0, sa, sb, sc, v, pg, 0, 0, 0, 0, 0, 0, fn, none⟩

/-- A part that leads to device memory, on a page that asks for no token. -/
def reaches (s : State) (p : Part) : Bool :=
  match s.leads p.va p.size p.kind with
  | .at (.dram _ _ _ false _) false => true
  | _ => false

theorem allLead_of {s : State} {ps : List Part} (h : ps.all (reaches s) = true) : s.AllLead ps := by
  intro p hp
  have hr := List.all_eq_true.mp h p hp
  unfold reaches at hr
  split at hr
  · next pa cls cmp mig he =>
    refine ⟨_, _, he, ?_, ?_⟩
    · cases p with
      | access a => cases a with | mk va size mask op data dst => cases op <;> exact trivial
      | atomic r => exact rfl
    · cases p with
      | access a => cases a with | mk va size mask op data dst => cases op <;> first | exact trivial | exact fun _ _ _ => .inl rfl
      | atomic r => exact .inl rfl
  · cases hr

/-- The parts that an address computation answers, none of them missing, all leading to device memory. -/
def sound (s : State) (r : Except Nat (List Part)) (n : Nat) : Bool :=
  match r with
  | .ok ps => ps.all (reaches s) && ps.length == n
  | .error _ => false

theorem exists_of_sound {s : State} {r : Except Nat (List Part)} {n : Nat} (h : sound s r n = true) :
    ∃ ps, r = .ok ps ∧ s.AllLead ps := by
  unfold sound at h
  split at h
  · next ps => exact ⟨ps, rfl, allLead_of (Bool.and_eq_true_iff.mp h).1⟩
  · cases h

/-- v1 of 32-bit integers, v3 the indices 0, s2 the address, p1 the first element alone. -/
def gathering (va : Word) : State := (vectors 4 4 4 va).onSlot fun x => { x with p := x.p.set 1 0xF#256 }

theorem test_meets_vector_memory : (gathering 0x1000).Issues ∧ ((gathering 0x1000).here.rv 1).tag = 4 ∧
    (∀ k < 64, active (lmGuard (gathering 0x1000).here (lm 4 2 0 0 1 0 0)) 32 k = true) ∧
    lmAddressRaw (gathering 0x1000).here (lm 4 2 0 0 1 1 0) 0 = 0x1000 ∧
    (∃ ps, unitParts (gathering 0x1000).here (lm 4 2 0 0 1 0 0) 0x1000 (byteActive (BitVec.allOnes 256) 32) .loadV 0 =
      .ok ps ∧ (gathering 0x1000).AllLead ps) ∧
    (∃ ps, unitParts (gathering 0x1000).here (lm 4 2 0 0 1 1 0) 0x1000 (byteActive 0xF#256 32) .storeFull 0 = .ok ps ∧
      (gathering 0x1000).AllLead ps) ∧
    (∃ ps, elemParts (gathering 0x1000).here (lm 4 2 0 0 1 1 0) 32 [(0, 0)] .store 0 = .ok ps ∧
      (gathering 0x1000).AllLead ps) :=
  ⟨issues_of (by decide +kernel), by decide +kernel, by decide +kernel, by decide +kernel,
   exists_of_sound (n := 32) (by decide +kernel), exists_of_sound (n := 1) (by decide +kernel),
   exists_of_sound (n := 1) (by decide +kernel)⟩

/-- v1 of FP4 blocks. -/
def blocks : State := vectors 11 4 4 0x2000

theorem test_meets_block_memory : isBlock 11 = true ∧ (blocks.here.rv 1).tag = 11 ∧
    lmOffset blocks.here (lm 11 2 0 0 1 0 0) % 256 = 0 ∧
    (∃ ps, unitParts blocks.here (lm 11 2 0 0 1 0 0) 0x2000 (byteActive (BitVec.allOnes 256) 4) .loadV 0 = .ok ps ∧
      blocks.AllLead ps) ∧
    blocks.AllLead ((sideBytes 11 0 0).map fun q => .access ⟨q.1 % 2 ^ 64, 1, 1, .loadV, 0, 256 + q.2, 1⟩) :=
  ⟨by decide +kernel, by decide +kernel, by decide +kernel, exists_of_sound (n := 32) (by decide +kernel),
   allLead_of (by decide +kernel)⟩

theorem test_meets_vector_traps : (gathering 0x1001).CanTrap ∧ ((gathering 0x1001).here.rv 1).tag ≠ 5 ∧
    lmAddressRaw (gathering 0x1001).here (lm 4 2 0 0 1 0 0) 0 % 4 ≠ 0 ∧
    lmAddress (gathering 0x100000).here { lm 4 2 0 0 1 0 0 with mode := 1 } 0 = none ∧
    byteActive (lmGuard (gathering 0x100000).here (lm 4 2 0 0 1 0 0)) 32 0 = true ∧
    ((vectors 4 4 8 0).here.rv 3).tag = 8 := ⟨canTrap_of (by decide +kernel), by decide +kernel⟩

/-! ### Packets at their places -/

def accessing (s : State) (a : Access) (p : Place) (o : Op) : State := flying s o (.access a p)

/-- What every access under delivery has. -/
def arrives (s : State) (pk : Packet) (p : Place) : Bool :=
  decide (s.delivering = some (flight1 pk)) && s.firstToHome (flight1 pk) && !s.throughTransit (flight1 pk) p

def loadAt (p : Place) : State := accessing w0 ⟨0x1000, 8, 255, .loadS false, 0, 0, 8⟩ p { op0 with scalar := true }

theorem test_meets_loads : arrives (loadAt (here 0x1000)) (.access ⟨0x1000, 8, 255, .loadS false, 0, 0, 8⟩ (here 0x1000)) (here 0x1000)
      = true ∧
    ((loadAt (here 0x1000)).slotOf ⟨1, 0, 0⟩).ops.find? (·.seq == 1) = some { op0 with scalar := true } ∧
    (loadAt (here 0x1000)).sees ⟨1, 0, 0⟩ 0x1000 (here 0x1000) 8 (List.replicate 8 0) ∧
    (loadAt (.window 0 8)).sees ⟨1, 0, 0⟩ 0x1000 (.window 0 8) 8 (List.replicate 8 0) ∧
    (loadAt (.host 8)).sees ⟨1, 0, 0⟩ 0x1000 (.host 8) 8 (List.replicate 8 0) := by
  refine ⟨by decide +kernel, by decide +kernel, ?_, ?_, ?_⟩
  · refine ⟨by decide +kernel, ?_⟩
    show List.replicate 8 (0 : Byte) = readBytes (loadAt (here 0x1000)).mem 0x1000 8
    decide +kernel
  · exact ⟨by decide +kernel, by decide +kernel, by decide +kernel⟩
  · exact ⟨by decide +kernel, by decide +kernel⟩

/-- A packet under delivery whose operation has ended. -/
def lone (s : State) (pk : Packet) : State :=
  { s with flights := [⟨1, ⟨1, 0, 0⟩, 1, 0, pk⟩], nextId := 2, turn := 1 }

def storing (s : State) (p : Place) : State := lone s (.access ⟨0x1000, 8, 255, .store, 7, 0, 8⟩ p)

/-- The virtual device of a test state. -/
def theVd (s : State) : VD := (s.vdAt 1).getD (firstVd 0)

/-- A line of the thread's own die in its L1. -/
def cached : State := onCore w0 fun c => { c with l1 := [⟨32, 0x1000, 0, 0, 0⟩] }

theorem test_meets_stores :
    (∀ p ∈ [here 0x1000, .window 0 8, .host 8, .dram (3 * 2 ^ 36) 3 false false none],
      arrives (storing w0 p) (.access ⟨0x1000, 8, 255, .store, 7, 0, 8⟩ p) p = true ∧
        ((storing w0 p).slotOf ⟨1, 0, 0⟩).ops.find? (·.seq == 1) = none) ∧
    (storing cached (here 0x1000)).Inv ∧ (storing w0 (.host 8)).Inv ∧ w0.uncached (firstVd 0) 0x1000 0x1000 = false ∧
    dieOf ((firstVd 0).coreNo 0) = homeOf 0x1000 / 32 ∧ dieOf ((firstVd 0).coreNo 0) ≠ homeOf (3 * 2 ^ 36) / 32 ∧
    (cached.coreAt 1 0).l1size ≠ 0 ∧ (cached.coreAt 1 0).l1.any (·.line == 0x1000 / 128) = true ∧
    8 + 8 ≤ (w0.coreAt 1 0).spSize ∧ Memory.wf (w0.coreAt 1 0).sram = true ∧ w0.vdAt 1 = some (firstVd 0) :=
  ⟨by decide +kernel, inv_of (by decide +kernel), inv_of (by decide +kernel), by decide +kernel⟩

/-- A full/empty access under delivery. -/
def counting (s : State) (op : AccOp) : State := accessing s ⟨0x1000, 8, 255, op, 7, 0, 8⟩ (here 0x1000) op0

theorem test_meets_full_words :
    (∀ op ∈ [AccOp.storeFull, .setEmpty, .loadFull true], arrives (counting w0 op) (.access ⟨0x1000, 8, 255, op, 7, 0, 8⟩ (here 0x1000))
      (here 0x1000) = true) ∧ (counting w0 (.loadFull true)).Inv ∧ setMem (counting w0 .setEmpty).full 0x200 = false ∧
    setMem (counting { w0 with full := [0x200] } (.loadFull true)).full 0x200 = true ∧
    (counting { w0 with full := [0x200] } (.loadFull true)).firstWaiter
      (flight1 (.access ⟨0x1000, 8, 255, .loadFull true, 7, 0, 8⟩ (here 0x1000))) ⟨0x1000, 8, 255, .loadFull true, 7, 0, 8⟩
      (here 0x1000) = true ∧ (tenantOf (firstVd 0).grants 0x1000).all (fun t => !(firstVd 0).inSlab t) = true :=
  ⟨by decide +kernel, inv_of (by decide +kernel), by decide +kernel⟩

/-- What an access that passes through a transit buffer has. -/
def arrivesLate (s : State) (pk : Packet) : Bool :=
  decide (s.delivering = some (flight1 pk)) && s.firstToHome (flight1 pk) &&
    s.throughTransit (flight1 pk) (here 0x1000)

/-- Host window 0 at 0x10000000, and a join to device 3 that one strait reaches. -/
def joined : State :=
  let s := onVd (mapped (7 + 2 ^ 16 + 3 * 2 ^ 56) 0x10000 0) fun v =>
    { v with windows := [⟨0, 0x10000000, 0x20000, 0x10000, 3⟩], joins := [(3, 1)] }
  { s with module := { s.module with dev := some 0, route := [(3, 0xFF00)], ready := 2 ^ 18 + 1 } }

def addReq : AtomicReq := ⟨0, 64, 0x1000, 5, 0, 1, none⟩

theorem test_meets_atomics :
    joined.allowsAtomic 0x10000 (.remote 3 0x10008) ∧ w0.takes 8 (.window 0 0xB0000) ∧
    (∀ p ∈ [here 0x1000, .window 0 8], arrives (flying w0 op0 (.atomic addReq p)) (.atomic addReq p) p = true ∧
      ((flying w0 op0 (.atomic addReq p)).slotOf ⟨1, 0, 0⟩).ops.find? (·.seq == 1) = some op0) ∧
    (flying w0 op0 (.atomic addReq (here 0x1000))).Inv ∧ w0.uncached (firstVd 0) 0x1000 0x1000 = false ∧
    (w0.coreAt 1 0).l1 = [] :=
  ⟨by show joined.onSumPage 1 0 0x10000 = false; decide +kernel, .inr (.inr rfl), by decide +kernel,
   inv_of (by decide +kernel), by decide +kernel⟩

/-- A virtual device with no way of a cache: its accesses pass through the transit buffers. -/
def wayless : State := onVd w0 fun v => { v with vdlim := 0 }

def stored : Access := ⟨0x1000, 8, 255, .store, 7, 0, 8⟩

/-- A packet under delivery, others older than it. -/
def behind (s : State) (older : List Packet) (pk : Packet) : State :=
  { s with
    flights := (older.zipIdx.map fun (k, i) => ⟨i, ⟨1, 1, 0⟩, 1, 0, k⟩) ++ [⟨older.length, ⟨1, 0, 0⟩, 1, 0, pk⟩]
    nextId := older.length + 1, turn := older.length }

theorem test_meets_transit : (lone w0 .vreply).Inv ∧
    (lone w0 (.transit (.access stored) (here 0x1000))).flightAt 1 =
      some (flight1 (.transit (.access stored) (here 0x1000))) ∧
    (∀ pk ∈ [Packet.access stored (here 0x1000), .atomic addReq (here 0x1000)], arrivesLate (lone wayless pk) pk = true ∧
      ((lone wayless pk).transits (here 0x1000).home).length < 16) ∧
    (∀ pk ∈ [Packet.access stored (here 0x1000), .atomic addReq (here 0x1000)],
      16 ≤ ((behind wayless (List.replicate 16 (.transit (.access stored) (here 0x1000))) pk).transits
        (here 0x1000).home).length) ∧
    (behind wayless [.access stored (here 0x1000)] (.transit (.access stored) (here 0x1000))).nextTransit
      (here 0x1000).home = some (0, .access stored, here 0x1000) ∧
    (lone w0 (.forward 0x1000 0x1000 0 0x1000 [1] (some true))).delivering = some (flight1 (.forward 0x1000 0x1000 0 0x1000 [1] (some true))) ∧
    w0.ownDev = 0 ∧ (firstVd 0).stage2 0x1000 = some 0x1000 :=
  ⟨inv_of (by decide +kernel), by decide +kernel⟩

/-! ### Words -/

/-- One instruction of each shape, as its words encode it. -/
theorem test_meets_encoding : check (.add 3 1 2) = none ∧ (encode (.add 3 1 2)).isSome = true ∧
    check (.vadd (lv 1 2 3 0 4 0)) = none ∧ (encode (.vadd (lv 1 2 3 0 4 0))).isSome = true ∧
    check (.vld (lm 4 2 0 0 1 0 0)) = none ∧ (encode (.vld (lm 4 2 0 0 1 0 0))).isSome = true ∧
    (match decode (0x124#160) with | .ok i => i == .nop | .error _ => false) = true := by decide +kernel

/-- The step's premises hold of the loaded machine. -/
theorem test_meets_step : w0.agenda = .issue ⟨1, 0, 0⟩ :: [] ∧
    let s' : State := { w0 with agenda := [], still := false }
    s'.awake ⟨1, 0, 0⟩ = true ∧ s'.searched ⟨1, 0, 0⟩ = true ∧ (s'.slotOf ⟨1, 0, 0⟩).bootVec = false ∧ s'.members ⟨1, 0, 0⟩ = [⟨1, 0, 0⟩] ∧
    (s'.fetch ⟨1, 0, 0⟩).1 = .code 0x124#160 ∧ s'.holds ⟨1, 0, 0⟩ .nop = false ∧ semField .nop = none ∧
    (match exec .nop (s'.issueState ⟨1, 0, 0⟩ .nop (s'.fetch ⟨1, 0, 0⟩).2) with | .next _ => true | _ => false) = true := by
  decide +kernel

theorem test_meets_fetch : (w0.resolve 1 0 0 4 .fetch false true).1 = .at (here 0) false ∧
    lookup (w0.coreAt 1 0).fetched (fetchKey 0 false) = none ∧
    lookup ((onCore w0 fun c => { c with fetched := [(fetchKey 0 false, 0x124#64)] }).coreAt 1 0).fetched (fetchKey 0 false) =
      some 0x124#64 ∧ w0.onWay 1 0 (here 0) = none ∧ (w0.coreAt 1 0).l1 = [] ∧
    (tenantOf (firstVd 0).grants 0).all (fun t => !(firstVd 0).inSlab t) = true := by decide +kernel

/-- A VLD that waits for two of semaphore 3, as encoded. -/
def waitingLoad : LM := { lm 4 2 0 0 1 0 0 with wq := 3, wt := 2 }

def fielded (n : Nat) : State :=
  onCore (State.reset.withFetchWord 160 ((encode (.vld waitingLoad)).getD 0).toNat) fun c => { c with sems := [(3, n)] }

/-- The state as the slot finds it when the agenda has named it. -/
def named (n : Nat) : State := (Eff.agenda []).apply (fielded n)

theorem test_meets_semaphore_field : Keyed ((named 2).coreAt 1 0).sems ∧ check (.vld waitingLoad) = none ∧ semField (.vld waitingLoad) = some (3, 2) ∧
    (named 1).awake ⟨1, 0, 0⟩ = true ∧ ((named 1).fetch ⟨1, 0, 0⟩).1 = .code ((encode (.vld waitingLoad)).getD 0) ∧
    (named 1).holds ⟨1, 0, 0⟩ (.vld waitingLoad) = false ∧ ((named 1).slotOf ⟨1, 0, 0⟩).semWait = none ∧
    (named 1).semMet 1 0 3 2 0 0 ((named 1).slotOf ⟨1, 0, 0⟩).seq = false ∧
    (named 2).semMet 1 0 3 2 0 0 ((named 2).slotOf ⟨1, 0, 0⟩).seq = true ∧ (named 2).searched ⟨1, 0, 0⟩ = true ∧
    ((named 2).slotOf ⟨1, 0, 0⟩).lapsed = false := ⟨keyed_of (by decide +kernel), by decide +kernel⟩


/-! ### Where accesses lead; semaphores, barriers, messages, graphs -/

theorem test_meets_places : (w0.resolve 1 0 0x1000 8 .read false true).1 = .at (here 0x1000) false ∧
    (w0.resolve 1 0 0xF2000000000008 8 .write false true).1 = .at (.window 0 8) false ∧
    (joined.resolve 1 0 0x10000008 8 .write false true).1 = .at (.host 0x20008) false ∧
    (joined.resolve 1 0 0x10008 8 .read false true).1 = .at (.remote 3 0x10008) false := by decide +kernel

theorem test_meets_signals : (asking (5 * 2 ^ 18 + 3 * 2 ^ 10) 0).offset? 1 0 = some 0 ∧
    (asking 0 0).offset? 1 1023 = some 1023 ∧ bits (5 * 2 ^ 18 + 3 * 2 ^ 10) 25 18 = 5 ∧ bits (2 ^ 27) 63 27 ≠ 0 ∧
    bits (2 ^ 19) 63 19 ≠ 0 ∧ ((onVd w0 fun v => { v with node := 2 }).offset? 1 1023 = none) ∧ (asking 0 0).Inv ∧
    (asking 0 0).Issues ∧ (asking 0 0).CanTrap :=
  ⟨by decide +kernel, by decide +kernel, by decide +kernel, by decide +kernel, by decide +kernel, by decide +kernel,
   inv_of (by decide +kernel), issues_of (by decide +kernel), canTrap_of (by decide +kernel)⟩

theorem delivers_of {s : State} {k : Flight} {o : Op} {r : SReg} {w : Word} (hi : s.Inv)
    (h : s.delivering = some k ∧ (s.slotOf k.tid).ops.find? (·.seq == k.seq) = some o ∧ o.left = 1 ∧ o.s = [(r, w)]) :
    s.Delivers k o r := ⟨hi, h.1, h.2.1, h.2.2.1, w, h.2.2.2⟩

/-- A state in which a packet with its operation is under delivery. -/
abbrev Arriving (s : State) (pk : Packet) : Prop := (flying s op0 pk).Delivers (flight1 pk) op0 1

theorem test_meets_addition : ∀ notice, notice ∈ [none, some (7, 0xABC)] → Arriving w0 (.qsig 0 3 65535 notice) := by
  intro notice h
  rcases List.mem_cons.mp h with rfl | h
  · exact delivers_of (w := 0) (inv_of (by decide +kernel)) (by decide +kernel)
  · rw [List.mem_singleton.mp h]
    exact delivers_of (w := 0) (inv_of (by decide +kernel)) (by decide +kernel)

/-- A state with bytes in device memory. -/
def bytesAt (s : State) (pa : Nat) (bs : List Byte) : State := { s with mem := writeBytes s.mem pa bs }

theorem objectAt_of {s : State} {t : Tid} {va pa cls : Nat} {cmp bs g : Bool} (h : pa % 64 = 0 ∧
    (s.resolve t.vf t.core va 8 .atomic (s.slotOf t).priv true).1 = .at (.dram pa cls cmp bs none) g ∧
    (s.vdAt t.vf).all (fun v => (tenantOf v.grants pa).all fun tpa => !v.inSlab tpa) = true ∧
    ((s.vdAt t.vf).all fun v => v.cores.all fun c => c.2.l1.isEmpty) = true) : s.objectAt t va pa := by
  refine ⟨h.1, ⟨cls, cmp, bs, g, _, Prod.ext h.2.1 rfl⟩, ?_, ?_⟩
  · intro v hv tpa ht
    have := h.2.2.1
    rw [hv] at this
    simp only [Option.all_some] at this
    rw [ht] at this
    simpa using this
  · intro c l hl
    exfalso
    have h4 := h.2.2.2
    cases hv : s.vdAt t.vf with
    | none => simp [State.coreAt, hv, Core.zero] at hl
    | some v =>
      rw [hv] at h4
      simp only [Option.all_some, List.all_eq_true] at h4
      simp only [State.coreAt, hv, VD.coreAt] at hl
      cases hc : lookup v.cores c with
      | none => rw [hc] at hl; simp [Core.zero] at hl
      | some d =>
        rw [hc] at hl
        have := h4 _ (mem_of_lookup _ _ _ hc)
        have hn : d.l1 = [] := List.isEmpty_iff.mp this
        simp [hn] at hl

/-- A barrier object at 0x1000: two expected, one counted, phase 0. -/
def barrier : State := bytesAt w0 0x1000 [2, 0, 1]

theorem test_meets_barrier_words : (asking 0x1000 1).Issues ∧ ((asking 0x1000 1).here.rs 2).toNat % 64 = 0 ∧
    ((asking 0x1020 1).here.rs 2).toNat % 64 ≠ 0 ∧ inFixedWindow 0xF2000000000000 = true ∧
    leNat (readBytes barrier.mem 0x1000 8) = 2 + 65536 ∧ leNat (readBytes w0.mem 0x1000 8) = 0 :=
  ⟨issues_of (by decide +kernel), by decide +kernel⟩

/-- Its arrival, of the phase `p`. -/
def barPacket (form : Nat) (p : Bool) : Packet := .barrier 0x1000 form p 4

theorem test_meets_barriers : Arriving barrier (barPacket 0 false) ∧ Arriving barrier (barPacket 3 true) ∧
    (flying barrier op0 (barPacket 0 false)).objectAt ⟨1, 0, 0⟩ 0x1000 0x1000 :=
  ⟨delivers_of (w := 0) (inv_of (by decide +kernel)) (by decide +kernel),
   delivers_of (w := 0) (inv_of (by decide +kernel)) (by decide +kernel),
   objectAt_of (cls := 3) (cmp := false) (bs := false) (g := false) (by decide +kernel)⟩

def message : Packet := .message 0 0 0 0 0

/-- A core whose inbox is full. -/
def fullInbox : State := onCore w0 fun c => { c with inbox := (List.range 64).map fun e => ⟨e, 0, 0⟩ }

theorem test_meets_messages : bits (asking 0 0 |>.here.rs 2).toNat 63 28 = 0 ∧ bits (2 ^ 28) 63 28 ≠ 0 ∧
    Arriving w0 message ∧ Arriving fullInbox message ∧ ((w0.coreAt 1 0).slotAt 0).live = true ∧
    ((w0.coreAt 1 0).slotAt 0).gen = 0 ∧ ((w0.coreAt 1 0).slotAt 1).live = false ∧ (w0.coreAt 1 0).inbox = [] ∧
    (∀ e < 64, ((fullInbox.coreAt 1 0).inbox.any fun m => m.entry == e) = true) ∧ (fullInbox.coreAt 1 0).halted = false ∧
    ((onCore fullInbox fun c => { c with inbox := c.inbox.take 63 }).coreAt 1 0).inbox.all (·.entry != 63) = true ∧
    ((onCore fullInbox fun c => { c with inbox := c.inbox.take 63, taken := c.inbox.drop 63 }).coreAt 1 0).taken = [⟨63, 0, 0⟩] ∧
    ((onCore fullInbox fun c => { c with halted := true, spill := List.replicate 255 ⟨0, 0, 0⟩ }).coreAt 1 0).spill.length =
      255 :=
  ⟨by decide +kernel, by decide +kernel, delivers_of (w := 0) (inv_of (by decide +kernel)) (by decide +kernel),
   delivers_of (w := 0) (inv_of (by decide +kernel)) (by decide +kernel), by decide +kernel⟩

/-- A graph of one node at 0x1000, its descriptor at 0x1080, and the program's entry range. -/
def graphed : State :=
  onVd (bytesAt (bytesAt (asking 0x1000 0) 0x1000 (leBytes 16 (0x4E444752 + 2 ^ 32 + 0x1080 * 2 ^ 64))) 0x1080
    (leBytes 16 (0x40 * 2 ^ 64))) fun v => { v with entries := [(0, 0x100, 0)] }

theorem test_meets_graphs : graphed.Inv ∧ graphed.Issues ∧
    (let s1 := applyAll (graphed.release graphed.cur 3 none) graphed
     match (s1.submit (theVd graphed) 0 0x1000 11).1 with | .accept g => g.nodes.length == 1 | _ => false) = true ∧
    (let s1 := applyAll ((asking 0x1000 0).release ⟨1, 0, 0⟩ 3 none) (asking 0x1000 0)
     match (s1.submit (theVd (asking 0x1000 0)) 0 0x1000 11).1 with | .deny 12 7 => true | _ => false) = true :=
  ⟨inv_of (by decide +kernel), issues_of (by decide +kernel), by decide +kernel⟩

/-! ### Objects, maps, windows and sums -/

/-- A region descriptor (Table 7.5). -/
def regionWord (base size sync kind kindf : Nat) : BitVec 512 :=
  BitVec.ofNat 512 (base + size * 2 ^ 64 + sync * 2 ^ 128 + 2 ^ 192 + kind * 2 ^ 193 + kindf * 2 ^ 256)

/-- A core that holds the descriptor of handle 5, and page 0 mapped to itself. -/
def regioned (s : State) (b : BitVec 512) : State :=
  onCore s fun c => { c with table := 0x40000, regions := [⟨5, b⟩], tlb := [⟨0, 7⟩] }

/-- A guarded region, its object at 0x1000 with the given word. -/
def guarded (w : Nat) : State := bytesAt (regioned w0 (regionWord 0x2000 0x1000 0x1000 1 0)) 0x1000 (leBytes 8 w)

def guardedRegion : Region := ⟨0x2000, 0x1000, 0x1000, 1, 0, 0, 0, 0, 0⟩

def request (rel write yield : Bool) (stage : Nat) : SyncReq := ⟨rel, write, yield, 5, 0, 0, 4, false, 0, stage⟩

theorem test_meets_sync_issue : bits ((asking 5 0).here.rs 2).toNat 63 44 = 0 ∧ bits (2 ^ 44) 63 44 ≠ 0 := by decide +kernel

/-- What a request at its object has. -/
abbrev AtObject (w : Nat) (q : SyncReq) : Prop := Arriving (guarded w) (.sync q) ∧
  (∃ fill, (flying (guarded w) op0 (.sync q)).lookRegion 1 0 q.handle = .region (some guardedRegion) fill) ∧
  guardedRegion.fits ((guarded w).coreAt 1 0) = true ∧ objectOf q (some guardedRegion) = some (guardedRegion, 0x1000) ∧
  ((flying (guarded w) op0 (.sync q)).looked ⟨1, 0, 0⟩ q.handle).objectAt ⟨1, 0, 0⟩ 0x1000 0x1000

theorem test_meets_acquire : AtObject 3 (request false true false 0) :=
  ⟨delivers_of (w := 0) (inv_of (by decide +kernel)) (by decide +kernel), ⟨none, by decide +kernel⟩, by decide +kernel,
   by decide +kernel, objectAt_of (cls := 0) (cmp := false) (bs := false) (g := false) (by decide +kernel)⟩

theorem test_meets_held_object : AtObject (3 + 2 ^ 32 + 2 ^ 33) (request false true false 0) ∧
    holderOf (3 + 2 ^ 32 + 2 ^ 33) ≠ some ((guarded 0).holderOfTid ⟨1, 0, 0⟩) ∧
    holderOf (3 + 2 ^ 32) = some ((guarded 0).holderOfTid ⟨1, 0, 0⟩) ∧ 2 ^ 61 / 2 ^ 61 ≠ 0 ∧
    objectOf (request false false false 0) none = none :=
  ⟨⟨delivers_of (w := 0) (inv_of (by decide +kernel)) (by decide +kernel), ⟨none, by decide +kernel⟩, by decide +kernel,
    by decide +kernel, objectAt_of (cls := 0) (cmp := false) (bs := false) (g := false) (by decide +kernel)⟩,
   by decide +kernel⟩

theorem test_meets_release : AtObject (3 + 2 ^ 32) (request true false true 2) :=
  ⟨delivers_of (w := 0) (inv_of (by decide +kernel)) (by decide +kernel), ⟨none, by decide +kernel⟩, by decide +kernel,
   by decide +kernel, objectAt_of (cls := 0) (cmp := false) (bs := false) (g := false) (by decide +kernel)⟩

/-- Slot 1's wait for the token of the object at 0x1000. -/
def waiter : TokenWaiter := ⟨⟨1, 0, 1⟩, 1, request false true false 0, ⟨0x2000, 0x3000, 0x1000, 5, false, 0, 0, 0⟩⟩

def queued : State := onVd (guarded (3 + 2 ^ 32)) fun v => { v with waiters := [(0x1000, [waiter])] }

theorem test_meets_handover : (queued.vdAt 1).bind (fun v => lookup v.waiters 0x1000) = some [waiter] ∧
    Tid.Other ⟨1, 0, 0⟩ ⟨1, 0, 1⟩ ∧ waiter.token.object = 0x1000 ∧ tokenDenied ((queued.coreAt 1 0).tokens.filter (·.object != waiter.token.object)) waiter.token = false :=
  ⟨by decide +kernel, .inr (.inr (by decide)), by decide +kernel⟩

theorem test_meets_halo : (lone w0 (.halo 0 64 [1, 2])).Inv ∧
    (lone w0 (.halo 0 64 [1, 2])).delivering = some (flight1 (.halo 0 64 [1, 2])) ∧ 64 + 2 ≤ (w0.coreAt 1 0).spSize ∧
    Memory.wf (w0.coreAt 1 0).sram = true ∧ (w0.coreAt 1 0).sramFull.Pairwise (· < ·) :=
  ⟨inv_of (by decide +kernel), by decide +kernel⟩


/-- An operation that also returns a vector. -/
def opV : Op := { op0 with v := [(1, vec 5)] }

/-- A map of one shard of at most eight entries (Table 9.1), key 7 with value 9 in it. -/
def mapDesc : Nat := 2 ^ 4 + 2 ^ 12 + 3 * 2 ^ 16 + 3 * 2 ^ 24

def mapState (entries : List (Nat × Nat × Nat)) : State :=
  onVd (regioned w0 (regionWord 0x2000 0x400 0 4 mapDesc)) fun v =>
    { v with shards := [⟨[(0, 0x2000, 0x400)], 0x400, mapDesc, entries, 3, false, 0, []⟩] }

def mapRegionOf : Region := ⟨0x2000, 0x400, 0, 4, 0, 0, 0, 0, mapDesc⟩

def mapReq (code key : Nat) : MapReq := ⟨code, 5, 0, key, false, false, 4, 1, none, false⟩

/-- Storage within one page is reached where its page is: the page that the private arrangement settles is that one. -/
theorem slab_of {s : State} {t : Tid} {h va n o a k : Nat} {v : VD} (hv : s.vdAt t.vf = some v)
    (hp : h ≠ 0 ∧ pagePieces va n = [(o, a, k)] ∧ (s.reachAll t [a]).2 = none) :
    ∃ es, s.slab t h va n = .at (s.backsOf t v h va n) es := by
  refine ⟨(s.reachAll t [a]).1, ?_⟩
  have ht : s.touched [(o, a, k)] = [a] := by simp [State.touched, Nat.mod_one, List.eraseDups_cons]
  have hr : s.reachAll t [a] = ((s.reachAll t [a]).1, none) := Prod.ext rfl hp.2.2
  unfold State.slab
  rw [hv]
  dsimp only
  rw [if_neg hp.1, hp.2.1, ht, hr]

/-- What a key operation has whose shard holds `entries`. -/
def mapMeets (entries : List (Nat × Nat × Nat)) (q : MapReq) (want : Option Nat) : Bool :=
  let s := flying (mapState entries) opV (.map q)
  let v := theVd s
  (match s.lookRegion 1 0 q.handle with | .region (some g) _ => g == mapRegionOf | _ => false) &&
    s.backsOf ⟨1, 0, 0⟩ v q.handle 0x2000 0x400 == [(0, 0x2000, 0x400)] && (s.reachAll ⟨1, 0, 0⟩ [0x2000]).2.isNone &&
    decide (bits v.vdlim.toNat 15 0 ≠ 0) && (mapOf mapDesc).k16 == q.k16 && (mapOf mapDesc).shard ((mapOf mapDesc).hash q.key) == 0 &&
    findEntry (s.shardAt v [(0, 0x2000, 0x400)] 0x400 mapDesc (mapOf mapDesc)).migrate.entries q.key == want

theorem test_meets_maps : mapMeets [(7, 7, 9)] (mapReq 1 7) (some 9) = true ∧ mapMeets [(7, 7, 9)] (mapReq 1 8) none = true ∧
    mapMeets ((List.range 8).map fun k => (k, k, 0)) (mapReq 1 8) none = true ∧
    (flying (mapState []) opV (.map (mapReq 1 7))).Delivers (flight1 (.map (mapReq 1 7))) opV 1 ∧
    (∃ es, (flying (mapState []) opV (.map (mapReq 1 7))).slab ⟨1, 0, 0⟩ 5 0x2000 0x400 = .at ((flying (mapState []) opV
      (.map (mapReq 1 7))).backsOf ⟨1, 0, 0⟩ (theVd (flying (mapState []) opV (.map (mapReq 1 7)))) 5 0x2000 0x400) es) ∧
    mapRegion (mapReq 1 7) none = none ∧ 2 ^ (mapOf mapDesc).shlog = 1 :=
  ⟨by decide +kernel, by decide +kernel, by decide +kernel,
   delivers_of (w := 0) (inv_of (by decide +kernel)) (by decide +kernel),
   slab_of (o := 0) (a := 0x2000) (k := 0x400) (by decide +kernel) (by decide +kernel), by decide +kernel⟩

/-- A window of at most four contributions of one 64-bit lane, summed (Table 10.1). -/
def winDesc : Nat := 2 ^ 4 + 4 * 2 ^ 16 + 2 * 2 ^ 32

def winState : State := regioned w0 (regionWord 0x2000 0x800 0 5 winDesc)

theorem test_meets_windows : (flying winState opV (.window ⟨0, 5, 7, 0⟩)).Delivers (flight1 (.window ⟨0, 5, 7, 0⟩)) opV 1 ∧
    (match winState.lookRegion 1 0 5 with | .region (some g) _ => g.kind == 5 | _ => false) = true ∧
    bits (theVd winState).vdlim.toNat 15 0 ≠ 0 ∧ bits (theVd wayless).vdlim.toNat 15 0 = 0 ∧ (winOf winDesc).wmax < 5 ∧
    ∃ es, winState.slab ⟨1, 0, 0⟩ 5 0x2000 0x800 = .at (winState.backsOf ⟨1, 0, 0⟩ (theVd winState) 5 0x2000 0x800) es :=
  ⟨delivers_of (w := 0) (inv_of (by decide +kernel)) (by decide +kernel), by decide +kernel, by decide +kernel,
   by decide +kernel, by decide +kernel, slab_of (o := 0) (a := 0x2000) (k := 0x800) (by decide +kernel) (by decide +kernel)⟩

/-- An invalidation of page 0's entry, its accesses noted or not. -/
def invalOf (old : Option (List (Tid × Nat))) : Packet := .inval 0 false 0 old

theorem test_meets_invalidation : Arriving cached (invalOf none) ∧ Arriving cached (invalOf (some [])) ∧
    Arriving w0 (.csr true (some 5)) ∧ (flying cached op0 (invalOf none)).onTheirWay 1 0 0 = [] ∧ cached.forwarding 1 = false ∧
    (lone cached (.access stored (here 0x1000))).onTheirWay 1 0 0 ≠ [] :=
  ⟨delivers_of (w := 0) (inv_of (by decide +kernel)) (by decide +kernel),
   delivers_of (w := 0) (inv_of (by decide +kernel)) (by decide +kernel),
   delivers_of (w := 0) (inv_of (by decide +kernel)) (by decide +kernel), by decide +kernel⟩

/-- A bounded-sum region of integers with the bound 160 (Table 10.6): a grant is 10. -/
def sumState (s : State) : State := onCore (regioned s (regionWord 0x2000 0x100 0 3 (160 * 2 ^ 32))) fun c =>
  { c with sums := [⟨5, 0, 0x2000, false, 10, List.replicate 32 0, List.replicate 32 0⟩] }

def sumIssue : State := sumState ((vectors 4 4 4 0).onSlot fun x => (x.setS 4 5))

theorem test_meets_sum_issue : sumIssue.Inv ∧ sumIssue.Issues ∧ sumIssue.CanTrap ∧ sumIssue.here.ops = [] ∧ (sumIssue.here.rv 1).tag = 4 ∧
    (match sumIssue.lookRegion 1 0 5 with | .region look _ => (sumRegion 4 look).isSome | _ => false) = true ∧
    sumRegion 4 none = none ∧ bits (theVd sumIssue).vdlim.toNat 15 0 ≠ 0 ∧ 0x100 / 4 ≤ 64 + 0 ∧
    (lmGuard sumIssue.here (lm 4 4 0 0 1 0 0)).getLsbD 0 = true ∧
    ((sumIssue.coreAt 1 0).sums.find? (isLine 5 0)).isSome = true :=
  ⟨inv_of (by decide +kernel), issues_of (by decide +kernel), canTrap_of (by decide +kernel), by decide +kernel⟩

/-- A home that has granted 10 to core 3. -/
def sumHome : State := onVd (sumState w0) fun v => { v with sums := [⟨5, 0, [(3, 10)], []⟩] }

def sumMeets (pk : Packet) : Bool :=
  let s := flying sumHome opV pk
  decide (s.delivering = some (flight1 pk)) &&
    (match s.lookRegion 1 0 5 with | .region (some g) _ => g.kind == 3 && (sumOf g.kindf).float == false | _ => false) &&
    ([AccKind.write, .read].all fun k => match s.linePlaces ⟨1, 0, 0⟩ 0x2000 k with
      | .ok (p, _) => p.1 == .dram 0x2000 0 false false none && p.2 == .dram 0x2040 0 false false none
      | .error _ => false) &&
    [0x2000, 0x2040].all fun a => (tenantOf (theVd s).grants a).all fun t => !(theVd s).inSlab t


theorem test_meets_sums : (flying sumHome opV (.drain 5 0 0)).Inv ∧ Keyed ((theVd sumHome).grantsOf 5 0).holders ∧ sumMeets (.grant 5 0 [(0, 1)] [] false) = true ∧
    sumMeets (.partialSum 5 0 [(0, 3), (31, 4)] false true) = true ∧ sumMeets (.bload 5 0 (some 31) 10 false) = true ∧
    sumMeets (.drain 5 0 0) = true ∧
    ((theVd sumHome).grantsOf 5 0).total = 10 ∧ (sumOf (160 * 2 ^ 32)).grant = 10 ∧ 32 * 0 + 31 < 0x100 / 4 ∧
    ([(0, 3), (31, 4)].map (·.1)).Nodup :=
  ⟨inv_of (by decide +kernel), keyed_of (by decide +kernel), by decide +kernel⟩

/-- A page map (R147) whose entry of page 1 leads to page 0, which migrates (bit 9) or not. -/
def migrating (on : Bool) : State :=
  let desc := 2 * 2 ^ 4 + 3 * 2 ^ 16 + 3 * 2 ^ 24
  let s := onCore (super id) fun c => { c with table := 0x40000, regions := [⟨0, regionWord 0x4000 0x400 0 4 desc⟩] }
  onVd s fun v => { v with shards := [⟨[(0, 0x4000, 0x400)], 0x400, desc, [(2, 2, if on = true then 7 + 2 ^ 9 else 7)], 3,
    false, 0, []⟩] }

theorem test_meets_migration : ∀ on ∈ [true, false], (migrating on).here.priv = true ∧ ((migrating on).coreAt 1 0).table ≠ 0 ∧
    (match ((migrating on).walk 1 0 0x10000).1 with | .entry p => p.val.testBit 9 == on | _ => false) = true := by
  decide +kernel

/-! ### The matrix unit and the engines -/

/-- The claim held, tile 2 and tile 3 of 8-bit integers, accumulator 0, shapes of 4 by 4. -/
def matrixState (claim : Bool) : State :=
  onCore ((asking 0x2000 0).onSlot fun x =>
      { x with claim := claim, tdim := Vector.replicate 8 0x12004, adim := Vector.replicate 4 0x404 }) fun c =>
    { c with tiles := [(2, ⟨0, 0, 1⟩), (3, ⟨0, 0, 1⟩)], accs := [(0, ⟨0, 4⟩)] }

theorem test_meets_matrix_issue : (matrixState true).Inv ∧ (matrixState true).Issues ∧ (matrixState true).here.claim = true ∧
    (matrixState false).here.claim = false ∧ (matrixState false).CanTrap ∧ (matrixState true).CanTrap ∧
    (matOpOf .mma (lm 1 0 2 3 0 0 0) (matrixState true).here).check (matrixState true) ⟨1, 0, 0⟩ true = none ∧
    (matOpOf .mma (lm 2 0 2 3 0 0 0) (matrixState true).here).check (matrixState true) ⟨1, 0, 0⟩ true ≠ none ∧
    ((matrixState true).coreAt 1 0).queue = [] ∧ (((matrixState true).coreAt 1 0).tile 2).tag ≠ 2 :=
  ⟨inv_of (by decide +kernel), issues_of (by decide +kernel), by decide +kernel, by decide +kernel,
   canTrap_of (by decide +kernel), canTrap_of (by decide +kernel), by decide +kernel⟩

def matOp (k : MatKind) : MatOp := matOpOf k (lm 1 0 2 3 0 0 0) Slot.idle

/-- A core with one accepted operation. -/
def queuedOp (o : MatOp) : State := onCore (matrixState true) fun c => { c with queue := [o] }

theorem test_meets_matrix_runs : Keyed ((queuedOp (matOp .tzero)).coreAt 1 0).tiles ∧
    Keyed ((queuedOp (matOp .tzero)).coreAt 1 0).accs ∧ ((queuedOp (matOp .mma)).vdAt 1).isSome = true ∧
    ((queuedOp (matOp .mma)).coreAt 1 0).halted = false ∧ ((queuedOp (matOp .mma)).coreAt 1 0).queue = [matOp .mma] ∧
    (matOp .mma).done = false ∧ (matOp .mma).fault = none ∧ (matOp .mma).frame = none ∧ (matOp .mma).exchange = none ∧
    (queuedOp (matOp .mma)).rampOk 0 (matOp .mma).count = true ∧
    (queuedOp (matOp .mma)).unperformedBefore ⟨1, 0, 0⟩ (matOp .mma).seq = false ∧
    (queuedOp (matOp .mma)).barHolds ⟨1, 0, 0⟩ (matOp .mma).seq = false ∧
    ((queuedOp (matOp .mmar)).coreAt 1 0).la = none ∧ ((queuedOp (matOp .mmar)).coreAt 1 0).lb = none ∧
    (lone w0 (.tile 0 true 0 0)).delivering = some (flight1 (.tile 0 true 0 0)) :=
  ⟨keyed_of (by decide +kernel), keyed_of (by decide +kernel), by decide +kernel⟩

/-- A load of tile 2 whose bytes can be read. -/
def tileLoad : MatOp :=
  { matOp .tld with f := { lm 1 0 2 3 0 0 0 with v := 2 }, tdim := Vector.replicate 8 0x12004, sum := 0x2000 }

/-- An exchange that began in cycle 0 with a limit of one cycle. -/
def exchange : MatOp := { matOp .mmar with exchange := some 0, te := 0 }

theorem test_meets_matrix_end : exchange.te ≠ 31 ∧ 0 + 2 ^ 0 ≤ { queuedOp exchange with cycle := 1 }.cycle ∧
    ((queuedOp exchange).coreAt 1 0).la = none ∧ ((queuedOp exchange).coreAt 1 0).queue = [exchange] ∧
    ((applyAll ((queuedOp tileLoad).release ⟨1, 0, tileLoad.slot⟩ 4 none) (queuedOp tileLoad)).moveIn 1 0 tileLoad.priv
      (((tileLoad.pieces (tileLoad.layout 1)).map (·.2)).drop tileLoad.moved)).2.2.isNone = true := by decide +kernel

/-- A fill of 64 bytes at 0x2000. -/
def job0 (k : JobKind) (st : JobState) : Job :=
  ⟨1, 1, 0, 0, 0, 1, k, lm 0 2 3 4 5 0 0, 0, 0, 0x2000, 7, 64, 0, 0, false, 0, 0, 0, [], [], [], [], st, none, none, none,
    false, none, true, false, []⟩

def withJob (s : State) (j : Job) : State := { s with isles := [(0, { Isle.zero with jobs := [j], lastJob := 1 })] }

/-- A whole copy descriptor: one row of 64 bytes, of a type that both sides have. -/
def copyDesc : State := bytesAt (asking 0x2000 0x3000 |>.onSlot fun x => x.setS 5 0x1000) 0x1000 [1, 0, 64, 0, 1, 1]

/-- A full queue of the atoll's isle. -/
def fullIsle : State := { (asking 0x2000 0) with
  isles := [(0, { Isle.zero with jobs := (List.range 64).map fun k => { job0 .cfill .queued with id := k + 1 } })] }

theorem test_meets_jobs : (asking 0x2000 0x3000).Inv ∧ (asking 0x2000 0x3000).vdAt 1 = some (theVd (asking 0x2000 0x3000)) ∧
    (asking 0x2000 0x3000).here.took = none ∧ queueSize (theVd fullIsle).node ≤
      (((fullIsle.isleAt 0).jobs.filter fun j => j.live && j.vf == 1).length) ∧ fullIsle.isleNo 1 0 = 0 ∧
    ((asking 0x2000 0).scratchRange ⟨1, 0, 0⟩ 0xF2000000000000 64).isSome = true ∧
    (asking 0x2000 0).scratchRange ⟨1, 0, 0⟩ 0x2000 64 = none ∧ (super id).Issues ∧ (super id).here.priv = true :=
  ⟨inv_of (by decide +kernel), by decide +kernel, by decide +kernel, by decide +kernel, by decide +kernel,
   by decide +kernel, by decide +kernel, issues_of (by decide +kernel), by decide +kernel⟩

theorem test_meets_descriptors : (match (applyAll (copyDesc.release copyDesc.cur 4 none) copyDesc).readVirt 1 0 0x1000 64
    false with
    | .ok (bs, _) =>
      let d := descOf (BitVec.ofNat 512 (leNat bs))
      !d.illegal && !d.denied .cpy2 0x2000 0x3000 && d.denied .cgath 0x2000 0x3000 && (decDescOf (BitVec.ofNat 512 (leNat bs))).bad
    | .error _ => false) = true := by decide +kernel

theorem test_meets_job_words : (withJob (asking 0x10000 0) (job0 .cfill .queued)).namedJob ⟨1, 0, 0⟩ 0x10000 =
      some (job0 .cfill .queued) ∧ (withJob w0 (job0 .cfill (.ended 0))).namedJob ⟨1, 0, 0⟩ 0x20000 = none ∧
    (job0 .cfill .queued).live = true ∧ (job0 .cfill (.ended 0)).live = false ∧ (job0 .cfill (.running 3)).live = true ∧
    (job0 .cfill .parked).live = true := by decide +kernel

theorem test_meets_engines : (withJob w0 (job0 .cfill .queued)).Inv ∧
    (withJob w0 (job0 .cfill .queued)).engineJob 0 0 = some (job0 .cfill .queued) ∧
    ((withJob w0 (job0 .cfill .queued)).isleAt 0).job? (job0 .cfill .queued).key = some (job0 .cfill .queued) ∧
    (withJob w0 (job0 .cfill (.running 0))).engineJob 0 0 = some (job0 .cfill (.running 0)) ∧
    ((withJob w0 (job0 .cfill (.running 0))).reach 1 0 0x2000 64 .write false).1 = .at (here 0x2000) false ∧
    ({ withJob w0 (job0 .cdec .queued) with module := { w0.module with ready := 2 ^ 34 + 1 } }).decoderJob 0 0 =
      some (0, job0 .cdec .queued) ∧ (withJob w0 (job0 .cfill (.running 0))).flights = [] ∧
    (lone (withJob w0 (job0 .bxf (.running 0))) (.bxf 0 65537 0 64)).delivering = some (flight1 (.bxf 0 65537 0 64)) ∧
    ((withJob w0 (job0 .bxf (.running 0))).isleAt 0).job? 65537 = some (job0 .bxf (.running 0)) ∧
    64 ≤ { job0 .cfill (.running 0) with wpos := 64 }.wpos := ⟨inv_of (by decide +kernel), by decide +kernel⟩


/-! ### Faults, waits, graphs and turns -/

def fault1 : SliceFault := ⟨7, 1, 0x10000, 2, .read, false, 0, 1, [⟨1, 0, 0⟩], [], [], [], false⟩

/-- A fault outstanding, its pager on core 0, slot 0 (Table 6.6). -/
def faulting (pager : Word) : State := onVd w0 fun v => { v with faults := [fault1], pager := pager }

theorem test_meets_faults : Arriving (faulting 0) (.fwake 7 true) ∧ Arriving (faulting 0) (.fwake 8 true) ∧ (lone (faulting 0) (.fault 1 0x10008 2 .read false 0 0 none)).delivering =
      some (flight1 (.fault 1 0x10008 2 .read false 0 0 none)) ∧
    (lone (faulting 0) (.fault 2 0x20008 2 .read false 0 0 none)).delivering =
      some (flight1 (.fault 2 0x20008 2 .read false 0 0 none)) ∧
    (theVd (faulting 0)).faults.find? (fun y => y.fid == 7 && !y.sent) = some fault1 ∧ bit 0 28 = false ∧
    bit (2 ^ 28) 28 = true ∧ (theVd (faulting 0x10000000)).offset? 0 = some 0 ∧
    (((theVd (faulting 0x10000000)).coreAt 0).slotAt 0).live = true ∧
    (((theVd (faulting 0x10000000)).coreAt 0).slotAt 0).gen = 0 ∧ ((theVd (faulting 0x10000000)).coreAt 0).inbox = [] ∧
    ((onCore fullInbox fun c => { c with inbox := c.inbox.take 63, taken := c.inbox.drop 63 }).coreAt 1 0).taken.head?.map
      (·.entry) = some 63 :=
  ⟨delivers_of (w := 0) (inv_of (by decide +kernel)) (by decide +kernel),
   delivers_of (w := 0) (inv_of (by decide +kernel)) (by decide +kernel), by decide +kernel⟩

/-- A fetch held by a fault of page 1. -/
def heldFetch : State := user fun x => { x with held := [⟨1, 0x10000, 2, 0, .fetch, 0, 1, none, none, false⟩] }

def waking (refuse : Bool) : Packet := .wake 1 refuse [⟨1, 0, 0⟩] [] [] []

def wakingJob (refuse : Bool) : Packet := .wake 1 refuse [] [(0, 65537)] [] []

def lostPart : Part := .access ⟨0x10000, 8, 255, .loadS false, 0, 0, 8⟩

def lostPacket : Packet := .route 3 lostPart (.remote 3 0x10000)

theorem test_meets_wakes : (lone heldFetch (waking false)).delivering = some (flight1 (waking false)) ∧
    (∀ h ∈ (heldFetch.slotOf ⟨1, 0, 0⟩).held, h.cause ≠ 0 ∧ pageOf h.va = 1 ∧ h.part = none) ∧
    (lone heldFetch (waking true)).delivering = some (flight1 (waking true)) ∧ (lone heldFetch (waking true)).Inv ∧
    (lone (withJob w0 { job0 .cpy .queued with faultPage := some 1 }) (wakingJob true)).delivering =
      some (flight1 (wakingJob true)) ∧
    ((withJob w0 { job0 .cpy .queued with faultPage := some 1 }).isleAt 0).job? 65537 =
      some { job0 .cpy .queued with faultPage := some 1 } ∧
    (lone w0 lostPacket).flightAt 1 = some (flight1 lostPacket) ∧
    (flight1 lostPacket).notBefore + 17000 ≤ { lone w0 lostPacket with cycle := 17000 }.cycle ∧ w0.routeReady 3 = false ∧
    w0.isPager ⟨1, 0, 0⟩ = false ∧ (w0.slotOf ⟨1, 0, 0⟩).held = [] ∧ (w0.slotOf ⟨1, 0, 0⟩).refusal = none :=
  ⟨by decide +kernel, by decide +kernel, by decide +kernel, inv_of (by decide +kernel), by decide +kernel⟩

theorem test_meets_frame_wait :
    ∃ w ∈ (theVd (onVd w0 fun v => { v with frameWaits := [(9, 0)] })).frameWaits, w.1 = 9 ∧ w.2 + 17000000 ≤ 17000000 :=
  ⟨(9, 0), by decide +kernel, rfl, by decide⟩

/-- A slot whose operation 1 waits. -/
def waits (s : State) (w : WaitKind) (deadline : Option Nat) : State :=
  s.onSlot fun x => { x with ops := [{ op0 with wait := w, deadline := deadline }] }

theorem test_meets_waits :
    ((waits ready .latch none).slotOf ⟨1, 0, 0⟩).opOf 1 = some { op0 with wait := .latch } ∧
    ((waits ready .latch none).slotOf ⟨1, 0, 0⟩).latch = true ∧
    ((onCore (waits w0 .claim none) fun c => { c with claims := [(0, 1)] }).coreAt 1 0).claims.head? = some (0, 1) ∧
    (∀ j < 4, (((waits w0 .claim none).coreAt 1 0).slotAt j).claim = false) ∧
    2 ≤ ((onCore (waits w0 (.sem 3 2) none) fun c => { c with sems := [(3, 2)] }).coreAt 1 0).sem 3 ∧
    (∀ u ∈ (waits w0 (.sem 3 2) none).semWaiters 1 0, u.2.2.2.1 = 0) ∧
    ((onCore (waits w0 (.inbox 1) none) fun c => { c with inbox := [⟨0, 0, 0⟩] }).coreAt 1 0).inbox.find?
      (fun m => bits m.header.toNat 29 28 == 0) = some ⟨0, 0, 0⟩ ∧
    ((withJob (waits w0 (.job 1) none) (job0 .cfill (.ended 0))).isleAt 0).jobs.find?
      (fun j => j.id == 1 && j.vf == 1 && j.core == 0) = some (job0 .cfill (.ended 0)) ∧
    ((waits w0 (.sem 3 2) (some 0)).meet ⟨1, 0, 0⟩ { op0 with wait := .sem 3 2, deadline := some 0 }).isNone = true ∧
    ((waits w0 (.sem 3 2) (some 0)).coreAt 1 0).halted = false ∧ ((waits w0 (.inbox 1) none).coreAt 1 0).spill = [] ∧
    ((waits w0 (.sem 3 2) (some 0)).slotOf ⟨1, 0, 0⟩).held = [] := by decide +kernel

theorem test_meets_phase : (waits (bytesAt w0 0x1000 [1, 0, 0, 0, 1]) (.phase 0x1000 false true 4) none).objectAt ⟨1, 0, 0⟩
      0x1000 0x1000 ∧
    (leNat (readBytes (bytesAt w0 0x1000 [1, 0, 0, 0, 1]).mem 0x1000 8)).testBit 32 ≠ false :=
  ⟨objectAt_of (cls := 3) (cmp := false) (bs := false) (g := false) (by decide +kernel), by decide +kernel⟩

/-- The load of `fielded`, waiting for its semaphore since cycle 0 under a limit of one cycle. -/
def limited : State := { (fielded 1).onSlot (fun x => { x with waitlim := 0, semWait := some 0 }) with cycle := 1 }

theorem test_meets_field_expiry : (limited.slotOf ⟨1, 0, 0⟩).opOf (limited.slotOf ⟨1, 0, 0⟩).seq = none ∧
    limited.instrAt ⟨1, 0, 0⟩ = some (.vld waitingLoad) ∧ (limited.slotOf ⟨1, 0, 0⟩).live = true ∧ 0 + 2 ^ 0 ≤ limited.cycle ∧
    limited.semMet 1 0 3 2 0 0 (limited.slotOf ⟨1, 0, 0⟩).seq = false ∧ (limited.slotOf ⟨1, 0, 0⟩).lapsed = false ∧
    (limited.slotOf ⟨1, 0, 0⟩).team = none ∧
    ((limited.onSlot fun x => { x with team := some ⟨4, 0, true, 0, 0⟩ }).slotOf ⟨1, 0, 0⟩).team = some ⟨4, 0, true, 0, 0⟩ := by
  decide +kernel

/-- A node of one core's one slot. -/
def node1 (st : NodeState) : Node :=
  ⟨0x40, 0x3000, 0, 0, 1, 0, false, 0, [], 0, [], st, 0, 0, [(0, [1])], 1, false, none, none, none⟩

/-- A graph of some nodes, on the smallest atoll of core 0. -/
def noded (ns : List Node) : State := onVd w0 fun v => { v with node := 256, graphs := [⟨4, 0, 0, ns, false⟩] }

/-- A node of 64 isles, which an atoll of one core cannot seat. -/
def wideNode : Node := { node1 (.pooled 0) with shape := 5, isles := 64 }

def crowded : State := { noded [wideNode] with cycle := 170000 }

theorem test_meets_dispatch :
    ((noded [node1 (.pooled 0)]).vds.findSome? fun x => ((noded [node1 (.pooled 0)]).placeable x.2 0).map fun _ => x.2.vf) =
      some 1 ∧
    (crowded.vds.findSome? fun x => (crowded.holdNow x.2 0).map fun p => (x.2.vf, p.idx)) = some (1, 0) ∧
    (theVd (noded [node1 (.pooled 0)])).nodeAt 4 0 = some (node1 (.pooled 0)) ∧
    (node1 (.pooled 0)).ready + 170000 * ((node1 (.pooled 0)).aged + 1) ≤ crowded.cycle ∧
    (theVd (noded [node1 (.pooled 1)])).stopped 0 ⟨4, 0, node1 (.pooled 1)⟩ = false ∧
    ((noded [node1 (.pooled 1)]).placement (theVd (noded [node1 (.pooled 1)])) (node1 (.pooled 1)) 0).isSome = true ∧
    (theVd w0).dies = [0, 1, 2, 3] ∧ (theVd w0).state = .running ∧ (theVd w0).turnStart.isSome = true := by decide +kernel

theorem test_meets_launch : (theVd (noded [node1 (.placed 0)])).nodeAt 4 0 = some (node1 (.placed 0)) ∧
    (match (noded [node1 (.placed 0)]).writeVirt ⟨1, 4096, 0⟩ 0x3000 (leBytes 8 1 ++ List.replicate 56 0) true false with
      | .ok _ => true | .error _ => false) = true ∧ ((node1 (.placed 0)).ranks.map fun x => (x.1, x.2 % 4)).Nodup ∧
    ((noded [node1 (.placed 0)]).reach 1 4096 0x3000 64 .write true).1 = .at (here 0x3000) false ∧
    inFixedWindow 0xF2000000003000 = true ∧
    (noded [{ node1 (.draining false) with count := 0 }]).onItsWay 1 { node1 (.draining false) with count := 0 } = false ∧
    (theVd (noded [{ node1 (.draining false) with count := 0 }, node1 .done])).graphs.find? (·.id == 4) =
      some ⟨4, 0, 0, [{ node1 (.draining false) with count := 0 }, node1 .done], false⟩ := by decide +kernel

/-- Two virtual devices of the root atoll, the first with its turn. -/
def shared (turn : Option Nat) : State :=
  { w0 with vds := [(1, { firstVd 0 with turnStart := turn }), (2, { firstVd 0 with vf := 2, turnStart := none })]
            cycle := 1700000 }

theorem test_meets_turns : (shared (some 0)).Inv ∧ ((shared (some 0)).resident 1).map (·.vf) = some 1 ∧
    0 + 1700 * (firstVd 0).sliceUs ≤ (shared (some 0)).cycle ∧
    ((shared (some 0)).onAtoll 1).any (fun u => u.eligible && u.vf != 1) = true ∧
    (shared none).atollFree 1 = true ∧ ((shared none).nextTurn 1).map (·.vf) = some 1 ∧
    0 ∈ (theVd (onVd w0 fun v => { v with turnStart := none, saving := [0] })).saving ∧ ((theVd w0).coreAt 0).halted = false ∧
    ((onCore (onVd w0 fun v => { v with turnStart := none, saving := [0] }) fun c => { c with halted := true }).coreAt
      1 0).halted = true ∧ (((onVd (sumState w0) fun v => { v with saving := [0] }).coreAt 1 0).sums ≠ []) ∧
    (shared (some 0)).residentOn 0 = some (1, 0) ∧ w0.queueRests 1 0 = true ∧ (applyAll (w0.stopSlots 1 0) w0).coreRests 1 0 = true ∧
    ((shared none).isleAt 5).window < (shared none).cycle / 1700 :=
  ⟨inv_of (by decide +kernel), by decide +kernel⟩


/-! ### The module, its commands and its tenants -/

/-- Everything of the Holm, the dies and stack 0 ready, a control channel of 16 entries, a command under service. -/
def manager (vds : List (Nat × VD)) (p0 p1 p2 p3 : Word) : State :=
  { State.reset with
    vds := vds
    module := { State.reset.module with
      ready := 0x3F, serving := 1, booted := true, holder := 1
      control := { Channel.zero with qsize := 4, csize := 4, cbase := 0x10000, enabled := true, idle := false } }
    cmd := { Cmd.zero with p0 := p0, p1 := p1, p2 := p2, p3 := p3 } }

def managed : State := manager [(1, firstVd 0)] 0 0 0 0

theorem test_meets_boot : managed.Inv ∧ State.reset.Inv ∧ State.reset.module.booted = false ∧
    State.reset.module.recovery = false ∧ managed.module.ready.getLsbD 0 = true ∧ managed.module.halted = false ∧
    managed.module.checkedAt + 17000000 ≤ { managed with cycle := 17000000 }.cycle ∧
    managed.module.ready.getLsbD 6 = false ∧ managed.module.ready.getLsbD (1 + (6 - 5) / 3) = true ∧
    managed.module.hostFlit = true ∧ managed.module.hostLanes = 16 ∧ managed.module.ready.getLsbD (1 + (34 - 34) / 4) = true ∧
    managed.module.ready.getLsbD 1 = true ∧ 1 - 1 ∈ atollDies (firstVd 0).node ∧ (firstVd 0).node ≠ 0 :=
  ⟨inv_of (by decide +kernel), inv_of (by decide +kernel), by decide +kernel⟩

theorem test_meets_recovery : { managed.module with recovery := true }.holder = (if false = true then 2 else 1) ∧
    { managed.module with resetDue := some 5 }.resetDue.isSome = true ∧
    { managed.module with dev := some 3, route := [(1, 0)] }.dev.isSome = true := by decide +kernel

theorem test_meets_narrows : (managed.narrow 0 3).map (·.up) = some true ∧
    ({ managed with module := { managed.module with narrows := [⟨0, 3, false, 0⟩] } }.narrow 0 3).map
      (fun n : Narrow => (n.up, decide (170000 ≤ n.since + 170000))) = some (false, true) ∧
    managed.module.thermalAt + 170000 ≤ { managed with cycle := 170000 }.cycle ∧ managed.module.temp[3]? = some 0 ∧
    managed.module.thermalCeil[3]? = some 8 ∧ { managed.module with powerCap := some 900 }.powerCap = some 900 ∧
    { managed.module with hotSince := some 0 }.hotSince.isSome = true := by decide +kernel

theorem test_meets_ownership : managed.module.holder = 1 ∧ managed.module.heartbeatAt + 1700000000 < 1700000001 ∧
    State.reset.module.holder = 0 ∧ { managed.module with pending := true, offered := 2 }.offered = 2 ∧
    (0x0E#512).toNat % 65536 = 0x0E ∧ (0x13#512).toNat % 65536 = 0x13 := by decide +kernel

theorem test_meets_channels : { managed.module.control with enabled := false }.enabled = false ∧
    managed.module.control.enabled = true ∧ (managed.vdAt 1).isSome = true := by decide +kernel

theorem vdOf_handle (v : VD) (p1 p2 p3 : Word) :
    (manager [(1, v)] (Config.handleSeal 0 v.serial) p1 p2 p3).vdOf (Config.handleSeal 0 v.serial) = some v := by
  simp [State.vdOf, State.handle, manager, State.reset, Module.zero]

theorem atollOf_handle (vds : List (Nat × VD)) (p0 p1 p2 p3 : Word) :
    (manager vds p0 p1 p2 p3).atollOf (Config.handleSeal 0 0) = some 1 := by
  simp [State.atollOf, State.handle, manager, State.reset, Module.zero]

theorem free_all (s : State) (k : Nat) (h : s.usedFrames = []) : (s.freeOn k).length = 2 ^ 15 := by
  simp [State.freeOn, h]

theorem picks (s : State) (n : Nat) (h : s.usedFrames = []) (hn : n ≤ 2 ^ 15) : ∃ fs, s.pickFrames [0] n = some fs := by
  have hl : ([0].flatMap s.freeOn).length = 2 ^ 15 := by simp [free_all s 0 h]
  unfold State.pickFrames
  simp only [hl]
  rw [if_neg (by omega)]
  exact ⟨_, rfl⟩

theorem test_meets_create (p0 : Word) : (manager [] p0 1 0 0).vdOf p0 = none ∧
    (manager [] (Config.handleSeal 0 0) 1 0 0).atollOf (Config.handleSeal 0 0) = some 1 ∧
    (∃ fs, (manager [] p0 1 0 0).pickFrames [0] (saveCount 1) = some fs) :=
  ⟨rfl, atollOf_handle _ _ _ _ _, picks _ _ rfl (by decide +kernel)⟩

theorem test_meets_create_rest : managed.controlReady = true ∧ (manager [] 0 1 0 0).stacksReady = [0] ∧
    (manager [] 0 1 0 0).vdAt 1 = none ∧ (manager [] 0 1 0 0).dieDown 1 = false ∧
    { manager [] 0 1 0 0 with module := { managed.module with ready := 1 } }.dieDown 1 = true ∧
    (List.range 0).length < 8 ∧ (managed.vdAt 1).isSome = true := by decide +kernel

/-- A virtual device that stands on the root atoll in a state, its policy's flags all set, with one window. -/
def tenant (st : VdState) : VD :=
  { firstVd 0 with
    state := st, serial := 5, grants := [], session := some 0
    policy := some ([0, 0, 0, 0, 0, 0, 0x1F] ++ List.replicate 83 0 ++ [1, 0, 0, 0, 0, 0] ++ leBytes 8 0 ++ leBytes 8 (2 ^ 30 + 3))
    channel := { Channel.zero with qsize := 4, csize := 4, enabled := true, idle := false } }

/-- An image of no bytes, which opens. -/
def emptyImage : Sealed := ⟨0, 0, 0, 0, [], [], [], [], []⟩

theorem test_meets_life : (tenant .running).pauseOk = true ∧ (tenant .running).evictOk = true ∧
    (firstVd 0).pauseOk = false ∧ (firstVd 0).evictOk = false ∧ { tenant .paused with saving := [] }.saving = [] ∧
    managed.vdQuiet 1 = true ∧ { tenant .running with image := some emptyImage }.imageLen ≤ 0 ∧
    0 < { tenant .running with image := some { emptyImage with length := 1 } }.imageLen ∧
    managed.dieDown 1 = false := by decide +kernel

theorem test_meets_lookup (st : VdState) : (manager [(1, tenant st)] (Config.handleSeal 0 5) 0 0 0).vdOf (Config.handleSeal 0 5) =
    some (tenant st) := vdOf_handle (tenant st) 0 0 0

theorem test_meets_restore :
    managed.opened { tenant .evicted with image := some emptyImage } [] =
      .ok ({ tenant .evicted with image := some emptyImage }, emptyImage) ∧
    managed.opened (tenant .evicted) [] = .error 5 ∧ (tenant .evicted).pol 0x50 1 ≤ atollLevel 1 ∧
    (tenant .evicted).pol 0x51 1 < atollLevel 1 ∧ (managed.onAtoll 256).length < 8 := by decide +kernel

theorem test_meets_resources : (∃ fs, (manager [(1, tenant .running)] 0 0 1 1).pickFrames [0] 4096 = some fs) ∧
    (List.range 12).filter (bit 1) = [0] ∧ (managed.module.ready.getLsbD (5 + 1) = false) ∧
    vdlimBad 0xFFFF 0 = true ∧ vdlimBad 0xFFFF (4 * 2 ^ 20) = false ∧
    bits (firstVd 0).vdlim.toNat 15 0 &&& (65535 - 1) ≠ 0 ∧ { tenant .running with remask := some 1 }.remask = some 1 ∧
    (managed.onAtoll 2 = []) ∧ managed.dieDown 2 = false ∧ (managed.onAtoll 1 ≠ []) ∧ 2 / 2 = 3 / 2 :=
  ⟨picks _ _ rfl (by decide), by decide +kernel⟩

theorem test_meets_reclaim (st : VdState) : (manager [(1, { tenant st with grants := [⟨6, 0, [0]⟩] })] (Config.handleSeal 0 6) 0 0
    0).grantOf (Config.handleSeal 0 6) = some ({ tenant st with grants := [⟨6, 0, [0]⟩] }, ⟨6, 0, [0]⟩) := by
  simp [State.grantOf, State.handle, manager, State.reset, Module.zero]

theorem test_meets_module_commands : managed.module.holder = (if managed.cmd.oob = true then 2 else 1) ∧
    bits managed.module.ready.toNat 33 18 = 0 ∧ bits (2 ^ 18) 33 18 ≠ 0 ∧ (managed.routeTable 0).isSome = true ∧
    ({ managed with host := writeBytes [] 0 [16, 0] }.routeTable 0) = none ∧ lookup managed.module.atolls 1 = some 0 ∧
    lookup managed.module.atolls 2 = none ∧ (tenant .running).state.joinable = true ∧ (tenant .created).state.joinable = false ∧
    (tenant .running).joinOk = true ∧ (firstVd 0).joinOk = false ∧ joined.routeReady 3 = true ∧ managed.routeReady 3 = false := by
  decide +kernel

/-- The tenant command under service. -/
def served (st : VdState) (flags : BitVec 16) (p0 p1 p2 p3 p4 : Word) : State :=
  { managed with
    vds := [(1, tenant st)]
    tcmd := { TCmd.zero with vf := 1, flags := flags, p0 := p0, p1 := p1, p2 := p2, p3 := p3, p4 := p4 } }

/-- A write of 128 bytes from host memory under way, on a virtual device that holds frame 0. -/
def writing (pos : Nat) : VD :=
  { tenant .running with
    grants := [⟨6, 0, [0]⟩]
    transfer := some ⟨{ TCmd.zero with vf := 1, code := 0x41, p0 := 0x1000, p1 := 0x2000, p2 := 128 }, pos, none, none, false, []⟩ }

def moving (pos : Nat) : State := { served .running 0 0 0 0 0 0 with vds := [(1, writing pos)] }

theorem test_meets_tenant : (served .running 0 0x10000 0 64 1 0).Inv ∧
    (served .running 0 0x10000 0 64 1 0).vdAt 1 = some (tenant .running) ∧ (tenant .running).channel.sizeOk = true ∧
    (served .running 0 0x10000 0 64 1 0).holmServes = true ∧ (moving 0).holmServes = true ∧
    0 < (tenant .running).channel.room ∧ (tenant .locked).state ≠ .running ∧ (tenant .running).transfer = none ∧
    (tenant .running).windowAllows 0 (2 ^ 26) 1 = true ∧ (tenant .running).windowAllows (2 ^ 30) 64 2 = false ∧
    (tenant .running).windowAllows 0 0x10000 3 = true ∧ inFixedWindow (0x10000 + 64 - 1) = false ∧
    (match ((served .running 0 0x1000 0 0 0 0).submit (tenant .running) 4096 0x1000 12).1 with
      | .stop (.frame _) _ => true | _ => false) = true :=
  ⟨inv_of (by decide +kernel), by decide +kernel⟩

theorem test_meets_transfers : (moving 0).Inv ∧ (moving 0).vdAt 1 = some (writing 0) ∧
    (match (moving 0).writeVirt ⟨1, 4096, 0⟩ 0x1000 (readBytes (moving 0).host 0x2000 128) true true with
      | .ok _ => true | .error _ => false) = true ∧
    (match (moving 0).readVirt 1 4096 0x1000 128 true with | .ok _ => true | .error _ => false) = true ∧
    (match (moving 0).readVirt 1 4096 0x200000 128 true with | .error (.frame 1, _) => true | _ => false) = true ∧
    128 ≤ 0 + min 65536 (128 - 0) ∧ 0 + min 65536 (65600 - 0) < 65600 ∧
    (tenant .running).channel.runs = true ∧ 1 < (tenant .running).channel.room ∧
    managed.module.control.runs = true ∧ 0 + (tenant .paused).pol 0x54 4 * 1700000 ≤ 0 :=
  ⟨inv_of (by decide +kernel), by decide +kernel⟩

theorem test_meets_sessions : (tenant .locked).session.isSome = true ∧ managed.module.ready.getLsbD 0 = true ∧
    managed.module.halted = false ∧ (served .running 0 0 0 0 0 0).vdAt 1 = some (tenant .running) ∧
    { tenant .running with channel := { (tenant .running).channel with idle := true } }.channel.idle = true ∧
    (tenant .locked).state = .locked ∧ joined.module.dev ≠ some 3 ∧ joined.module.dev.isSome = true ∧
    { tenant .running with joins := [(3, 1)] }.joins = [(3, 1)] ∧ (tenant .locked).installs [] = false := by decide +kernel


/-! ### What the wider statements ask for -/

/-- A split that MTCSR changes, and one that it does not. -/
def splitting (v : Word) : State := super fun x => x.setS 7 v

theorem test_meets_split : (splitting 2).Issues ∧ (splitting 2).Inv ∧ (splitting 2).here.priv = true ∧ (user id).here.priv = false ∧
    max (((splitting 2).here.rs 7).toNat % 4) (7 - bits (theVd (splitting 2)).vdlim.toNat 38 36) ≠
      ((splitting 2).coreAt 1 0).l1size ∧
    max (((splitting 1).here.rs 7).toNat % 4) (7 - bits (theVd (splitting 1)).vdlim.toNat 38 36) =
      ((splitting 1).coreAt 1 0).l1size :=
  ⟨issues_of (by decide +kernel), inv_of (by decide +kernel), by decide +kernel⟩

theorem test_meets_conversions :
    ((vectors 4 4 4 0).here.rv 1).tag.toNat = (4 : Nat) % 32 ∧ tagWidth 4 < tagWidth 5 ∧
    ((vectors 7 4 4 0).here.rv 1).tag.toNat = (7 : Nat) % 32 ∧ ((vectors 8 8 4 0).here.rv 1).tag = 8 ∧
    ((vectors 8 8 4 0).here.rv 2).tag = 8 ∧ ((vectors 8 8 4 0).here.rv 0).tag = 0 ∧
    ((List.replicate 32 0x7FC00000).any notFinite = true) ∧ (∀ v ∈ List.replicate 32 0x80000000, v % 2 ^ 31 = 0) ∧
    isBlock (VVal.tag ((vectors 12 8 4 0).here.rv 1)).toNat = true := by decide +kernel

/-- The packets under delivery are late for no timeout and are held nowhere. -/
theorem test_meets_free_packets : replying.narrowDown (flight1 .vreply) = false ∧
    (counting w0 (.loadFull true)).late (flight1 (.access ⟨0x1000, 8, 255, .loadFull true, 7, 0, 8⟩ (here 0x1000))) = false ∧
    ((counting w0 (.loadFull true)).slotOf ⟨1, 0, 0⟩).opOf 1 = some op0 ∧
    (lone w0 (.transit (.access stored) (here 0x1000))).waiting (flight1 (.transit (.access stored) (here 0x1000))) = false ∧
    (flying barrier op0 (barPacket 0 false)).late (flight1 (barPacket 0 false)) = false ∧
    (flying (guarded 3) op0 (.sync (request false true false 0))).late (flight1 (.sync (request false true false 0))) = false ∧
    (loadAt (.window 0 8)).slabAt 1 (.window 0 8) = false ∧ (loadAt (here 0x1000)).slabAt 1 (here 0x1000) = false := by
  decide +kernel

theorem test_meets_unhurried_step : (State.nextMet { w0 with agenda := [], still := false }) = none ∧
    (State.descriptorWaits { w0 with agenda := [], still := false } ⟨1, 0, 0⟩ .nop) = false ∧ waitField 0x124#160 = none ∧
    (named 2).nextMet = none ∧ (named 2).descriptorWaits ⟨1, 0, 0⟩ (.vld waitingLoad) = false := by decide +kernel

/-- A graph of one node whose entry lies in no entry range, whose successor does not exist, or with an operand that names no
live region, and a graph of no nodes. -/
def badGraph (ctrl entry operand : Nat) : State :=
  onVd (bytesAt (bytesAt (asking 0x1000 0) 0x1000 (leBytes 16 (0x4E444752 + 2 ^ 32 + 0x1080 * 2 ^ 64))) 0x1080
    (leBytes 56 (entry + 0x40 * 2 ^ 64 + ctrl * 2 ^ 128 + operand * 2 ^ 384))) fun v => { v with entries := [(0, 0x100, 0)] }

/-- What its submission comes to. -/
def denial (s : State) : Nat × Nat :=
  match (s.submit (theVd s) 0 0x1000 11).1 with | .deny st r => (st, r) | _ => (0, 0)

theorem test_meets_bad_graphs : denial (badGraph 6 0 0) = (12, 7) ∧ denial (badGraph (2 ^ 16) 0 0) = (12, 7) ∧
    denial (badGraph 0 0x100 0) = (12, 2) ∧ denial (badGraph (2 ^ 40) 0 (5 + 2 ^ 12)) = (10, 7) ∧
    denial { badGraph 0 0 0 with vds := [(1, { theVd (badGraph 0 0 0) with
      graphs := (List.range 64).map fun i => ⟨i, 0, 0, [], false⟩ })] } = (11, 4) := by decide +kernel

/-- The line that a grant is asked for can be written, and WAYMASK is not zero. -/
theorem test_meets_grant : (match (flying sumHome opV (.grant 5 0 [(0, 1)] [] false)).linePlaces ⟨1, 0, 0⟩ 0x2000 .write with
      | .ok _ => true | .error _ => false) = true ∧ bits (theVd sumHome).vdlim.toNat 15 0 ≠ 0 ∧
    ((flying sumHome opV (.grant 5 0 [(0, 1)] [] false)).slotOf ⟨1, 0, 0⟩).opOf 1 = some opV := by decide +kernel

/-- A load of accumulator 0. -/
def accLoad : MatOp := { matOp .ald with f := lm 4 0 2 3 0 0 0, adim := Vector.replicate 4 0x404, sum := 0x2000 }

/-- A store of tile 2 to device memory. -/
def tileStore : MatOp := { tileLoad with kind := .tst }

/-- A drain of accumulator 0 to its core's scratchpad. -/
def accDrain : MatOp := { accLoad with kind := .adrain, adim := Vector.replicate 4 0x1000000404, sum := 0xF2000000000000 }

/-- The state in which an operation reads and writes. -/
def released (o : MatOp) : State := applyAll ((queuedOp o).release ⟨1, 0, 0⟩ 4 none) (queuedOp o)

theorem test_meets_matrix_moves :
    (∀ o ∈ [accLoad, tileStore, accDrain, matOp .mmas, matOp .mmar], (queuedOp o).readsLater ⟨1, 0, 0⟩ o.seq = false ∧ o.moved = 0 ∧
      o.got = [] ∧ o.done = false) ∧
    ((released accLoad).moveIn 1 0 false ((accLoad.pieces (accLoad.layout 0)).map (·.2))).2.2.isNone = true ∧
    ((released accLoad).moveIn 1 0 false ((accLoad.pieces (accLoad.layout 0)).map (·.2))).1.length =
      aRows (accLoad.ad 0) * (4 * aCols (accLoad.ad 0)) ∧ aRows (accLoad.ad 0) ≤ 64 ∧ aCols (accLoad.ad 0) ≤ 64 ∧
    isBlock (VVal.tag (vec 1)).toNat = false ∧ (((queuedOp tileStore).coreAt 1 0).tile 2).tag = 1 ∧
    tWidth (tileStore.td 2) ∈ [8, 16] ∧ tRows (tileStore.td 2) ≤ 64 ∧ tCols (tileStore.td 2) * tWidth (tileStore.td 2) ≤ 768 ∧
    (zeroBytes (tRows (tileStore.td 2) * (tCols (tileStore.td 2) * 1))).length = tRows (tileStore.td 2) * (tCols (tileStore.td 2) * 1) ∧
    (∀ r < tRows (tileStore.td 2), ∀ k < tCols (tileStore.td 2), (((queuedOp tileStore).coreAt 1 0).tile 2).el 8 r k = 0) ∧
    ((released tileStore).moveOut ⟨1, 0, 0⟩ false true [] (layOn ((tileStore.pieces (tileStore.layout 1)).map (·.2))
      (zeroBytes (tRows (tileStore.td 2) * tCols (tileStore.td 2))))).2 = none ∧
    (((queuedOp accDrain).coreAt 1 0).acc 0).tag = 4 ∧ aSm (accDrain.ad 0) = false ∧ aShift (accDrain.ad 0) = 0 ∧
    (∀ i < aRows (accDrain.ad 0), (windowOf (accDrain.raw (i * aStride (accDrain.ad 0))) 0).map (·.2) =
      some (i * aStride (accDrain.ad 0)) ∧ i * aStride (accDrain.ad 0) + 4 * aCols (accDrain.ad 0) ≤ ((queuedOp accDrain).coreAt 1 0).spSize) ∧
    4 * aCols (accDrain.ad 0) ≤ aStride (accDrain.ad 0) := by decide +kernel

/-- An exchange whose tiles have left and whose landing buffers are full. -/
def landed : State := onCore (queuedOp exchange) fun c => { c with la := some (1, 2), lb := some (3, 4) }

theorem test_meets_landed : landed.unsent 1 0 exchange = [] ∧ (landed.coreAt 1 0).la = some (1, 2) ∧ (landed.coreAt 1 0).halted = false ∧
    (landed.coreAt 1 0).lb = some (3, 4) ∧ exchange.f.sb ≠ exchange.f.sc ∧ (landed.coreAt 1 0).queue = [exchange] ∧
    exchange.exchange = some 0 ∧ landed.vdAt 1 = some (theVd landed) := by decide +kernel

/-- A job that an engine has begun and that has done nothing, its source at 0x4000. -/
def begun (k : JobKind) (len fmt fn : Nat) (desc : Nat) : Job :=
  { job0 k (.running 0) with
    src := 0x4000, len := len, desc := BitVec.ofNat 512 desc, f := lm (BitVec.ofNat 5 fmt) 2 3 4 5 0 (BitVec.ofNat 6 fn) }

/-- A transfer descriptor (Table 21.4) of one row of 16 elements of a type, its list at 0x4080, with a bound on its entries. -/
def rowDesc (st dt sh : Nat) : Nat :=
  1 + 16 * 2 ^ 16 + st * 2 ^ 32 + dt * 2 ^ 40 + 64 * 2 ^ 64 + 64 * 2 ^ 128 + sh * 2 ^ 320 + 0x4080 * 2 ^ 384 + 2 ^ 448

/-- A job begun on engine 0 of isle 0. -/
def Begun (j : Job) : Prop := (withJob w0 j).Inv ∧ (withJob w0 j).Runs 0 0 j

theorem begun_of {j : Job} (hi : (withJob w0 j).Inv) (h : (withJob w0 j).engineJob 0 0 = some j ∧
    j.state = .running 0 ∧ ((withJob w0 j).isleAt 0).job? j.key = some j ∧ j.begun = true ∧ j.cancels = [] ∧ j.pos = 0 ∧ j.spos = 0 ∧ j.wpos = 0 ∧ j.carry = [] ∧
    j.cells = [] ∧ j.staged = [] ∧ j.entries = []) : Begun j := ⟨hi, h⟩

/-- Bytes that a job reads whole. -/
def took (s : State) (ps : List (Nat × Nat)) (n : Nat) : Bool :=
  let (b, _, stop) := s.moveIn 1 0 false ps
  b.length == n && stop.isNone

theorem test_meets_copies :
    (∀ j ∈ [begun .cpy 64 0 0 0, begun .cred 4 4 0 0, begun .cpy2 0 0 0 (rowDesc 4 4 0), begun .cpy2 0 0 0 (rowDesc 7 8 0),
        begun .cgath 0 0 0 (rowDesc 4 4 4), begun .cscat 0 0 0 (rowDesc 4 4 4), begun .brdc 128 0 0 0, begun .brdx 128 0 0 0],
      (withJob w0 j).engineJob 0 0 = some j ∧ ((withJob w0 j).isleAt 0).job? j.key = some j ∧ j.src % 8 = 0 ∧
        j.dst % 8 = 0 ∧ inVregs j.dst = false ∧ inVregs (j.dst + 128) = false) ∧
    (let d := descOf (begun .cpy2 0 0 0 (rowDesc 4 4 0)).desc
     d.rows = 1 ∧ d.cols = 16 ∧ d.red = 0 ∧ d.t = false ∧ d.sm = false ∧ d.st = d.dt ∧ isBlock d.dt = false ∧
       tagWidth d.dt ∈ [8, 16, 32, 64] ∧ d.cols * (tagWidth d.dt / 8) ≤ 64 ∧ d.nl = 1 ∧ d.lform = false) ∧
    (let d := descOf (begun .cpy2 0 0 0 (rowDesc 7 8 0)).desc
     d.st = 7 ∧ d.dt = 8 ∧ d.cols ≤ 16 ∧ wrap64 (0x2000 + 0 * d.dst) + 64 ≤ 2 ^ 64) ∧
    elemBytes (begun .cred 4 4 0 0).f = 4 ∧
    took (withJob w0 (begun .cpy 64 0 0 0)) (piecesOf 0x4000 (upToUnit 0x4000 64)) (upToUnit 0x4000 64) = true ∧
    took (withJob w0 (begun .cpy2 0 0 0 (rowDesc 4 4 0))) ((List.range 8).map fun i => (0x4000 + 8 * i, 8)) 64 = true ∧
    took (withJob w0 (begun .brdx 128 0 0 0)) (piecesOf 0x4000 (upToUnit 0x4000 4)) (upToUnit 0x4000 4) = true ∧
    took (withJob w0 (begun .brdx 128 0 0 0)) (unread (piecesOf 0x4000 (upToUnit 0x4000 (4 + brdPayload 0))) 8)
      (upToUnit 0x4000 (4 + brdPayload 0) - 8) = true ∧ upToUnit 0x4000 4 = 8 ∧
    took (withJob w0 (begun .cgath 0 0 0 (rowDesc 4 4 4))) [(0x4080, 4)] 4 = true ∧ leNat (zeroBytes 4) < 4 ∧
    (descOf (begun .cgath 0 0 0 (rowDesc 4 4 0)).desc).sh ≤ leNat (zeroBytes 4) ∧
    ((withJob w0 (begun .cpy 64 0 0 0)).reach 1 0 0x2000 64 .write false).1 = .at (here 0x2000) false := by decide +kernel

theorem test_meets_begun : Begun (begun .cpy 64 0 0 0) :=
  begun_of (inv_of (by decide +kernel)) (by decide +kernel)

/-- The migration of page 1, which leads to page 0. -/
def movingPage (pos : Nat) : Job := { job0 .mig (.running 0) with dst := 0x10000, pos := pos, len := 0, priv := true }

theorem test_meets_page_moves :
    (∀ pos ∈ [0, 0x10000], let j := movingPage pos
      let s := withJob (migrating true) j
      s.engineJob 0 0 = some j ∧ (s.isleAt 0).job? j.key = some j ∧ j.staged = [] ∧ j.spos = 0 ∧ s.forwardsOf j.tid = [] ∧
        (match s.migEntry j with
          | (.entry p, es) => bit p.val 9 && bits p.val 104 100 == s.ownDev && (match (applyAll es s).vdAt 1 with
            | some v => (match (applyAll es s).placePte v ⟨p.val ||| 1, p.big⟩ (p.tpa 0x10000) 0x10000 .read true with
              | .at (.dram ..) _ => true | _ => false)
            | none => false)
          | _ => false) = true ∧
        (match s.lookRegion 1 0 0 with | .region r _ => (pageMap r).isSome | _ => false) = true) ∧
    (movingPage 0x10000).pageSize ≤ (movingPage 0x10000).pos ∧ (withJob (migrating true) (movingPage 0)).Inv :=
  ⟨by decide +kernel, by decide +kernel, inv_of (by decide +kernel)⟩

/-- The decode of a Group 4 stream of 8 bytes at 0x4000, a page of two rows of two pixels. -/
def decoding : Job :=
  { begun .cdec 0 0 0 (8 + 0x3000 * 2 ^ 64 + 2 ^ 192 + 2 ^ 208 + 2 ^ 224 + 2 * 2 ^ 256 + 2 * 2 ^ 272) with decoder := some 0 }

def decoderState : State := { withJob w0 decoding with module := { w0.module with ready := 2 ^ 34 + 1 } }

theorem test_meets_decodes : decoderState.Inv ∧ decoderState.decoderJob 0 0 = some (0, decoding) ∧
    (decoderState.isleAt 0).job? decoding.key = some decoding ∧ decoderState.module.ready.getLsbD 34 = true ∧
    (let d := decDescOf decoding.desc
     d.bad = false ∧ (imageOf d (zeroBytes 8)).map (fun x => (x.1, x.2.1, x.2.2.1)) = some (2, 2, false) ∧ d.patch = 14 ∧
       1 ≤ d.maxp ∧ d.ch = 1 ∧ d.ptab % 8 = 0 ∧ took decoderState (piecesOf decoding.src d.slen) 8 = true) :=
  ⟨inv_of (by decide +kernel), by decide +kernel⟩

theorem test_meets_more_commands : (writing 0).channel.room ≠ 0 ∧ State.ghostOf (served .running 0 0 0 0 0 0) 1 = none ∧
    (managed.ghostOf 1 = none) ∧ (⟨TCmd.zero, 0, none, none, true, []⟩ : Transfer).failed = true ∧
    State.pickFrames { managed with module := { managed.module with ready := 1 } }
      (State.stacksReady { managed with module := { managed.module with ready := 1 } }) (saveCount 1) = none ∧
    ((w0.coreAt 1 0).l1.all fun l => l.line != 0x3000 / 128) = true ∧ (0x3000 : Nat) % 64 = 0 := by decide +kernel


/-! ### What the statements ask for since the third review -/

/-- A slot in its handler whose tag 0 is busy. -/
def busyTrap : State := trapped.onSlot fun x => { x with tags := 1 }

theorem test_meets_busy_double_trap : busyTrap.Issues ∧ busyTrap.here.trapst.getLsbD 1 = true ∧ busyTrap.here.tags ≠ 0 ∧
    busyTrap.here.took = none := ⟨issues_of (by decide +kernel), by decide +kernel⟩

theorem test_meets_unassigned_csrs : ¬((0x007#12).toNat ≤ 6) ∧ 0x006 < (0x00F#12).toNat ∧ (0x00F#12).toNat < 0x010 ∧
    0x110 < (0xFFF#12).toNat ∧ (0x10D#12).toNat = 0x10D := by decide

theorem test_meets_page_faults : ∀ n ∈ [1, 2, 4, 8], ∀ k ∈ [AccKind.read, .write, .atomic],
    (mapped 0 0x10000 0).leads 0x10000 n k = .fault 2 ∧ 0x10000 % n = 0 := by decide +kernel

/-- The part of a flight comes to its place from a transit buffer that holds nothing else. -/
theorem comesLate_of {s : State} {w : Part} {p : Place} (hf : s.flights = [flight1 (.transit w p)])
    (hw : s.waiting (flight1 (.transit w p)) = false) :
    s.Comes (.transitEntryFree p.home 1) (flight1 (.transit w p)) w p := by
  refine .inr ⟨?_, rfl, hw, rfl, ?_⟩
  · simp [State.flightAt, hf, flight1]
  · intro g hg
    rw [hf, List.mem_singleton] at hg
    subst hg
    exact .inl (Nat.le_refl _)

/-- It comes delivered. -/
theorem comes_of {s : State} {a : Access} {p : Place} (h : s.delivering = some (flight1 (.access a p)) ∧
    s.throughTransit (flight1 (.access a p)) p = false) :
    s.Comes .memoryAccessAtPlace (flight1 (.access a p)) (.access a) p := .inl ⟨h.1, rfl, h.2, rfl⟩

/-- A transit entry of the thread, its operation outstanding. -/
def entered (s : State) (o : Op) (w : Part) : State := flying s o (.transit w (here 0x1000))

def part8 (op : AccOp) : Part := .access ⟨0x1000, 8, 255, op, 7, 0, 8⟩

theorem test_meets_comings :
    (∀ op ∈ [AccOp.loadS false, .storeFull, .setEmpty, .loadFull true], (entered wayless op0 (part8 op)).Comes
      (.transitEntryFree (here 0x1000).home 1) (flight1 (.transit (part8 op) (here 0x1000))) (part8 op) (here 0x1000)) ∧
    (lone wayless (.transit (part8 .store) (here 0x1000))).Comes (.transitEntryFree (here 0x1000).home 1)
      (flight1 (.transit (part8 .store) (here 0x1000))) (part8 .store) (here 0x1000) ∧
    (entered wayless op0 (.atomic addReq)).Comes (.transitEntryFree (here 0x1000).home 1)
      (flight1 (.transit (.atomic addReq) (here 0x1000))) (.atomic addReq) (here 0x1000) ∧
    (storing cached (here 0x1000)).Comes .memoryAccessAtPlace (flight1 (.access stored (here 0x1000))) (.access stored)
      (here 0x1000) := by
  refine ⟨?_, comesLate_of rfl (by decide +kernel), comesLate_of rfl (by decide +kernel), comes_of (by decide +kernel)⟩
  intro op h
  simp only [List.mem_cons, List.not_mem_nil, or_false] at h
  rcases h with rfl | rfl | rfl | rfl <;> exact comesLate_of rfl (by decide +kernel)

theorem test_meets_more_accesses : (loadAt (here 0x1000)).Inv ∧ (entered wayless op0 (part8 (.loadS false))).Inv ∧
    (∀ sg, addReq.scope ≠ 0 ∧ addReq.width = 64 ∧ addReq.code ≠ 9 ∧ { addReq with scope := sg }.scope = sg) ∧
    (flying cached op0 (.atomic { addReq with scope := 0 } (here 0x1000))).throughTransit
      (flight1 (.atomic { addReq with scope := 0 } (here 0x1000))) (here 0x1000) = false ∧
    (cached.coreAt 1 0).l1.find? (·.line == 0x1000 / 128) = some ⟨32, 0x1000, 0, 0, 0⟩ ∧
    w0.atTable 1 (here 0x1000) ((List.range 8).map fun n => (n, 0)) = false ∧
    (onVd w0 fun v => { v with rgntab := 0x40000 }).atTable 1 (here 0x40000) [(0, 0)] = true ∧
    (flying sumHome opV (.drain 5 0 0)).atTable 1 (.dram 0x2000 0 false false none) ((List.range 128).map fun i => (i, 0)) =
      false :=
  ⟨inv_of (by decide +kernel), inv_of (by decide +kernel), fun _ => ⟨by decide, by decide, by decide, rfl⟩, by decide +kernel⟩

/-- The addition of an EVSIG, whose operation returns nothing. -/
def signalling : State := flying w0 { op0 with s := [] } (.qsig 0 3 65535 (some (7, 0xABC)))

theorem test_meets_event_addition : signalling.Inv ∧
    signalling.delivering = some (flight1 (.qsig 0 3 65535 (some (7, 0xABC)))) ∧
    (signalling.slotOf ⟨1, 0, 0⟩).ops.find? (·.seq == 1) = some { op0 with s := [] } ∧ ({ op0 with s := [] } : Op).left = 1 :=
  ⟨inv_of (by decide +kernel), by decide +kernel⟩

/-- An arrive-and-wait whose timeout has expired on its way. -/
def tardy : State := { flying barrier { op0 with deadline := some 3 } (barPacket 0 false) with cycle := 5 }

theorem test_meets_tardy_arrival : tardy.overdue (flight1 (barPacket 0 false)) = true ∧
    tardy.late (flight1 (barPacket 0 false)) = false ∧ tardy.delivering = some (flight1 (barPacket 0 false)) ∧
    (waits w0 (.inbox 1) (some 0)).flights.all (fun f => !(waits w0 (.inbox 1) (some 0)).unlimited f) = true := by decide +kernel

/-- A graph whose node names a tile of handle 5's PLAIN region. -/
def strayGraph : State :=
  onVd (bytesAt (badGraph (2 ^ 40) 0 (5 + 2 ^ 16)) (0x40000 + 64 * 5) (leBytes 64 (regionWord 0x2000 0x1000 0 0 0).toNat))
    fun v => { v with rgntab := 0x40000 }

theorem test_meets_stray_operand : denial strayGraph = (12, 7) ∧
    (match strayGraph.operandRegion (theVd strayGraph) 0 5 with | .ok (some (some g)) => g.kind != 2 | _ => false) = true := by
  decide +kernel

theorem test_meets_table_write : Arriving w0 (.csr false (some 0x40000)) :=
  delivers_of (w := 0) (inv_of (by decide +kernel)) (by decide +kernel)

/-- A job that stands between two delivery boundaries, and one for which a CCANCEL waits. -/
def unevenJob : Job := { job0 .cpy (.running 0) with uneven := true }
def cancelled (st : JobState) : Job := { job0 .cpy st with cancels := [(0, 0, 1)] }

/-- A state in which the CCANCEL is outstanding. -/
def cancelling (st : JobState) : State := withJob (flying w0 op0 .vreply) (cancelled st)

theorem test_meets_cancels : (withJob (asking 0x10000 0) unevenJob).namedJob ⟨1, 0, 0⟩ 0x10000 = some unevenJob ∧
    unevenJob.uneven = true ∧ (job0 .cpy (.running 0)).uneven = false ∧
    { lone w0 .vreply with flights := [⟨1, (movingPage 0).tid, 0, 0, .forward 0x1000 0x1000 0 0x1000 [1] none⟩] }.forwardsOf
      (movingPage 0).tid ≠ [] ∧
    ((cancelling (.running 0)).isleAt 0).job? (cancelled (.running 0)).key = some (cancelled (.running 0)) ∧
    (cancelled .parked).live = true ∧ (cancelled .queued).cancels ≠ [] ∧
    ((cancelling .queued).slotOf ⟨1, 0, 0⟩).gen.toNat = 0 ∧
    ((cancelling .queued).slotOf ⟨1, 0, 0⟩).ops.find? (·.seq == 1) = some op0 ∧
    (withJob w0 (job0 .cfill .queued)).readsLater ⟨1, 0, 0⟩ 1 = false ∧
    (withJob (lone w0 (.access { stored with va := 0x1000 } (here 0x1000))) { job0 .cfill .queued with seq := 2 }).readsLater
      ⟨1, 0, 0⟩ 2 = true := by decide +kernel

theorem test_meets_quiet_ways : (noded [node1 (.placed 0)]).launchHeld (theVd (noded [node1 (.placed 0)])) 0 (node1 (.placed 0)) =
      false ∧
    (noded [node1 (.draining false)]).eventHeld (theVd (noded [node1 (.draining false)])) 4 0 (node1 (.draining false)) = false ∧
    w0.jobsRest 1 0 = true ∧ (theVd (faulting 0)).node ≠ 0 ∧ w0.narrowLost 0 0 = false ∧ (w0.slotOf ⟨1, 0, 0⟩).dying = false ∧
    managed.module.serving = 1 ∧ managed.usesJoin 1 3 = false ∧
    (lone managed (.route 3 lostPart (.remote 3 0x10000))).usesJoin 1 3 = true ∧
    { managed with module := { managed.module with serving := 2 } }.module.serving = 2 := by decide +kernel


/-! ### Words: one for each instruction, its fields at their places in Tables 14.1 to 14.8; those of the manual's own lines
(Tables 14.14, 15.6, 16.2 and the like in the later chapters) are its words -/

/-- Words in order, the first lowest. -/
def window (ws : List Nat) : Window := BitVec.ofNat 160 (ws.foldr (fun w n => w + 2 ^ 32 * n) 0)

/-- The words decode to the instruction. -/
def reads (ws : List Nat) (i : Instr) : Bool := match decode (window ws) with | .ok j => j == i | .error _ => false

theorem test_short_words_1 : ([
    ([0x011F0404], .add 1 30 17), ([0x011F0808], .sub 2 30 17), ([0x011F0C0C], .mul 3 30 17),
    ([0x011F1010], .mulh 4 30 17), ([0x011F1414], .mulhu 5 30 17), ([0x011F1818], .div 6 30 17),
    ([0x011F1C1C], .divu 7 30 17), ([0x011F2020], .rem 8 30 17), ([0x011F2424], .remu 9 30 17),
    ([0x011F2828], .and 10 30 17), ([0x011F2C2C], .or 11 30 17), ([0x011F3030], .xor 12 30 17),
    ([0x011F3434], .shl 13 30 17), ([0x011F3838], .shr 14 30 17), ([0x011F3C3C], .sra 15 30 17),
    ([0x011F4040], .min 16 30 17), ([0x011F4444], .max 17 30 17), ([0x011F4848], .minu 18 30 17),
    ([0x011F4C4C], .maxu 19 30 17), ([0x04B52450], .cmp 9 10 11 2), ([0x08628C54], .sel 3 5 6 4),
    ([0x0004D458], .clz 21 9), ([0x0004D45C], .ctz 21 9), ([0x0004D460], .popc 21 9), ([0x1CC41C64], .bfx 7 8 12 7),
    ([0xFCC41C68], .bfi 7 8 12 63), ([0x0662906C], .waddr 4 5 6 3), ([0x80131480], .addi 5 6 0x801),
    ([0x80131484], .andi 5 6 0x801), ([0x80131488], .ori 5 6 0x801), ([0x8013148C], .xori 5 6 0x801),
    ([0x03F31490], .shli 5 6 63), ([0x03F31494], .shri 5 6 63), ([0x03F31498], .srai 5 6 63),
    ([0x8000949C], .ldi 5 0x10001), ([0x000058A1, 0x00010000, 0x00F20000], .ldl 22 0x00F2000000010000),
    ([0x007104C0], .pand 1 2 7), ([0x007104C4], .por 1 2 7), ([0x007104C8], .pxor 1 2 7),
    ([0x007104CC], .pandn 1 2 7), ([0x002404D0], .plen 1 8 2), ([0x0201A4D4], .pcnt 9 3 1), ([0x0001A4D8], .pany 9 3),
    ([0x0401A4DC], .pfirst 9 3 2), ([0x010028E0], .mfcsr 10 0x010), ([0x108D00E4], .mtcsr 0 26 0x108)] :
    List (List Nat × Instr)).all (fun x => reads x.1 x.2) = true := by decide +kernel

theorem test_short_words_2 : ([
    ([0xFFD22100], .br 8 4 0x3FF4), ([0xFFFFFD04], .jmp 0x3FFFFF), ([0x00001508], .call 5), ([0x000F810C], .jr 31),
    ([0x0003FD10], .callr 31 7), ([0xFFF00114], .trap 0xFFF), ([0x00000118], .eret), ([0x0000011C], .halt),
    ([0x00000120], .yield), ([0x00000124], .nop), ([0x01002528], .sleep 9 16), ([0x0070012C], .brk 7),
    ([0x01002530], .mclaim 9 16), ([0x00000134], .mfree), ([0x00039938], .gsub 6 7), ([0xABC3993C], .evsig 6 7 0xABC),
    ([0x00310540], .fwake 1 2 3), ([0xFF8A2580], .ldb 9 20 4088), ([0xFF9A2584], .ldbu 9 20 4089),
    ([0xFFAA2588], .ldh 9 20 4090), ([0xFFBA258C], .ldhu 9 20 4091), ([0xFFCA2590], .ldw 9 20 4092),
    ([0xFFDA2594], .ldwu 9 20 4093), ([0xFFEA2598], .ldd 9 20 4094), ([0xFFFA259C], .stb 9 20 4095),
    ([0x008A25A0], .sth 9 20 8), ([0x008A25A4], .stw 9 20 8), ([0x008A25A8], .std 9 20 8),
    ([0x58AA25AC], .ldf 9 20 10 12 1), ([0x008A25B0], .stf 9 20 8), ([0x015A01B4], .feclr 20 21),
    ([0x615A25B8], .amo 9 20 21 0 3), ([0x075A25BC], .cas 9 20 21 3), ([0x003AADC0], .acqRead 11 21 3),
    ([0x0ABAB1C0], .acqWrite 12 21 3 10), ([0x001431C4], .rel 12 8 1), ([0x00BAADC4], .relYield 11 21 3),
    ([0x004001C8], .fence 4), ([0xFC0489CC], .pref 2 9 0xFC0), ([0x002081D0], .flush 1 2),
    ([0x002081D4], .inval 1 2)] :
    List (List Nat × Instr)).all (fun x => reads x.1 x.2) = true := by decide +kernel

theorem test_vector_words_1 : ([
    ([0x90000006, 0x00003F81, 0x000000A1], .vadd ⟨0, 0, 0, 0, 4, 1, 1, 62, 3, 0, 0, 1, 0, 2, 1, 0, 0⟩),
    ([0x2000000A, 0x00003081, 0x00000400], .vsub ⟨0, 0, 0, 0, 8, 0, 1, 2, 3, 0, 0, 0, 0, 0, 0, 4, 0⟩),
    ([0x2001000E, 0x00002001, 0x00000001], .vmul ⟨0, 0, 1, 0, 8, 0, 1, 0, 2, 0, 0, 1, 0, 0, 0, 0, 0⟩),
    ([0x20000812, 0x00081003, 0x000001A1], .vfma ⟨2, 0, 0, 0, 8, 0, 3, 0, 1, 2, 0, 1, 0, 2, 1, 1, 0⟩),
    ([0x18000016, 0x00081003, 0x00000000], .vfms ⟨0, 0, 0, 0, 6, 0, 3, 0, 1, 2, 0, 0, 0, 0, 0, 0, 0⟩),
    ([0x0400001A, 0x00006144, 0x00000000], .vmin ⟨0, 0, 0, 0, 1, 0, 4, 5, 6, 0, 0, 0, 0, 0, 0, 0, 0⟩),
    ([0x0400001E, 0x00006144, 0x00000000], .vmax ⟨0, 0, 0, 0, 1, 0, 4, 5, 6, 0, 0, 0, 0, 0, 0, 0, 0⟩),
    ([0x8C000022, 0x00000144, 0x00000000], .vabs ⟨0, 0, 0, 0, 3, 1, 4, 5, 0, 0, 0, 0, 0, 0, 0, 0, 0⟩),
    ([0x8C000026, 0x00000144, 0x00000000], .vneg ⟨0, 0, 0, 0, 3, 1, 4, 5, 0, 0, 0, 0, 0, 0, 0, 0, 0⟩),
    ([0x38001C2A, 0x00006144, 0x00000000], .vand ⟨7, 0, 0, 0, 14, 0, 4, 5, 6, 0, 0, 0, 0, 0, 0, 0, 0⟩),
    ([0x38001C2E, 0x00006144, 0x00000000], .vor ⟨7, 0, 0, 0, 14, 0, 4, 5, 6, 0, 0, 0, 0, 0, 0, 0, 0⟩),
    ([0x38001C32, 0x00006144, 0x00000000], .vxor ⟨7, 0, 0, 0, 14, 0, 4, 5, 6, 0, 0, 0, 0, 0, 0, 0, 0⟩),
    ([0x38001C36, 0x00006144, 0x00000000], .vandn ⟨7, 0, 0, 0, 14, 0, 4, 5, 6, 0, 0, 0, 0, 0, 0, 0, 0⟩),
    ([0x1400003A, 0x00006144, 0x00000000], .vshl ⟨0, 0, 0, 0, 5, 0, 4, 5, 6, 0, 0, 0, 0, 0, 0, 0, 0⟩),
    ([0x1400003E, 0x00006144, 0x00000000], .vshr ⟨0, 0, 0, 0, 5, 0, 4, 5, 6, 0, 0, 0, 0, 0, 0, 0, 0⟩),
    ([0x14000042, 0x00006144, 0x00000000], .vsra ⟨0, 0, 0, 0, 5, 0, 4, 5, 6, 0, 0, 0, 0, 0, 0, 0, 0⟩),
    ([0x14000046, 0x00006144, 0x00000000], .vmulh ⟨0, 0, 0, 0, 5, 0, 4, 5, 6, 0, 0, 0, 0, 0, 0, 0, 0⟩),
    ([0x1C00E04A, 0x00006144, 0x00000200], .vdiv ⟨0, 7, 0, 0, 7, 0, 4, 5, 6, 0, 0, 0, 0, 0, 0, 2, 0⟩),
    ([0x2000204E, 0x00000144, 0x00000300], .vsqrt ⟨0, 1, 0, 0, 8, 0, 4, 5, 0, 0, 0, 0, 0, 0, 0, 3, 0⟩),
    ([0x20002052, 0x00000144, 0x00000100], .vrcp ⟨0, 1, 0, 0, 8, 0, 4, 5, 0, 0, 0, 0, 0, 0, 0, 1, 0⟩),
    ([0x20004056, 0x00000144, 0x00000100], .vrsq ⟨0, 2, 0, 0, 8, 0, 4, 5, 0, 0, 0, 0, 0, 0, 0, 1, 0⟩),
    ([0x2000605A, 0x00000144, 0x00000100], .vexp2 ⟨0, 3, 0, 0, 8, 0, 4, 5, 0, 0, 0, 0, 0, 0, 0, 1, 0⟩),
    ([0x2000805E, 0x00000144, 0x00000100], .vlog2 ⟨0, 4, 0, 0, 8, 0, 4, 5, 0, 0, 0, 0, 0, 0, 0, 1, 0⟩),
    ([0x2000A062, 0x00000144, 0x00000100], .vsint ⟨0, 5, 0, 0, 8, 0, 4, 5, 0, 0, 0, 0, 0, 0, 0, 1, 0⟩),
    ([0x2000C066, 0x00000144, 0x00000100], .vcost ⟨0, 6, 0, 0, 8, 0, 4, 5, 0, 0, 0, 0, 0, 0, 0, 1, 0⟩),
    ([0x2000E06A, 0x00000144, 0x00000100], .vtanh ⟨0, 7, 0, 0, 8, 0, 4, 5, 0, 0, 0, 0, 0, 0, 0, 1, 0⟩),
    ([0x1000006E, 0x00006147, 0x00002800], .vcmp ⟨0, 0, 0, 0, 4, 0, 7, 5, 6, 0, 0, 0, 0, 0, 0, 0, 5⟩),
    ([0x28000072, 0x00006144, 0x00000003], .vsel ⟨0, 0, 0, 0, 10, 0, 4, 5, 6, 0, 0, 3, 0, 0, 0, 0, 0⟩)] :
    List (List Nat × Instr)).all (fun x => reads x.1 x.2) = true := by decide +kernel

theorem test_vector_words_2 : ([
    ([0x00400076, 0x00000FBF, 0x00000000], .vmov ⟨0, 0, 64, 0, 0, 0, 63, 62, 0, 0, 0, 0, 0, 0, 0, 0, 0⟩),
    ([0x1400007A, 0x00000284, 0x00000000], .vbcast ⟨0, 0, 0, 0, 5, 0, 4, 10, 0, 0, 0, 0, 0, 0, 0, 0, 0⟩),
    ([0x1800007E, 0x00010011, 0x00000000], .vextr ⟨0, 0, 0, 0, 6, 0, 17, 0, 16, 0, 0, 0, 0, 0, 0, 0, 0⟩),
    ([0x18000082, 0x000107D1, 0x00000000], .vins ⟨0, 0, 0, 0, 6, 0, 17, 31, 16, 0, 0, 0, 0, 0, 0, 0, 0⟩),
    ([0x1C000086, 0x00000105, 0x00014000], .vcvt ⟨0, 0, 0, 0, 7, 0, 5, 4, 0, 0, 0, 0, 0, 0, 0, 0, 40⟩),
    ([0x3400008A, 0x00003105, 0x00003800], .vqnt ⟨0, 0, 0, 0, 13, 0, 5, 4, 3, 0, 0, 0, 0, 0, 0, 0, 7⟩),
    ([0x2000008E, 0x00000105, 0x00003000], .vdq ⟨0, 0, 0, 0, 8, 0, 5, 4, 0, 0, 0, 0, 0, 0, 0, 0, 6⟩),
    ([0x3C000092, 0x00000105, 0x00000000], .vretag ⟨0, 0, 0, 0, 15, 0, 5, 4, 0, 0, 0, 0, 0, 0, 0, 0, 0⟩),
    ([0x04000096, 0x00083105, 0x00000000], .vperm ⟨0, 0, 0, 0, 1, 0, 5, 4, 3, 2, 0, 0, 0, 0, 0, 0, 0⟩),
    ([0x0400009A, 0x0001F105, 0x00000000], .vrotl ⟨0, 0, 0, 0, 1, 0, 5, 4, 31, 0, 0, 0, 0, 0, 0, 0, 0⟩),
    ([0x0400009E, 0x00003105, 0x00000800], .vzip ⟨0, 0, 0, 0, 1, 0, 5, 4, 3, 0, 0, 0, 0, 0, 0, 0, 1⟩),
    ([0x040000A2, 0x00003105, 0x00000800], .vunzip ⟨0, 0, 0, 0, 1, 0, 5, 4, 3, 0, 0, 0, 0, 0, 0, 0, 1⟩),
    ([0x200060A6, 0x00000006, 0x00000000], .vredadd ⟨0, 3, 0, 0, 8, 0, 6, 0, 0, 0, 0, 0, 0, 0, 0, 0, 0⟩),
    ([0x100040AA, 0x00000046, 0x00000000], .vredmax ⟨0, 2, 0, 0, 4, 0, 6, 1, 0, 0, 0, 0, 0, 0, 0, 0, 0⟩),
    ([0x100000AE, 0x00000046, 0x00000000], .vredmin ⟨0, 0, 0, 0, 4, 0, 6, 1, 0, 0, 0, 0, 0, 0, 0, 0, 0⟩),
    ([0x100000B2, 0x00000046, 0x00001000], .vscan ⟨0, 0, 0, 0, 4, 0, 6, 1, 0, 0, 0, 0, 0, 0, 0, 0, 2⟩),
    ([0x100440B6, 0x0024A008, 0x00003001], .vnzs ⟨0, 2, 4, 0, 4, 0, 8, 0, 10, 9, 0, 1, 0, 0, 0, 0, 6⟩),
    ([0x900000BA, 0x0024A048, 0x00000000], .vdot4 ⟨0, 0, 0, 0, 4, 1, 8, 1, 10, 9, 0, 0, 0, 0, 0, 0, 0⟩),
    ([0x0C0000BE, 0x00000048, 0x00000000], .vclz ⟨0, 0, 0, 0, 3, 0, 8, 1, 0, 0, 0, 0, 0, 0, 0, 0, 0⟩),
    ([0x0C0000C2, 0x00000048, 0x00000000], .vpopc ⟨0, 0, 0, 0, 3, 0, 8, 1, 0, 0, 0, 0, 0, 0, 0, 0, 0⟩),
    ([0x100000C6, 0x0001E7C8, 0x00000000], .vidx ⟨0, 0, 0, 0, 4, 0, 8, 31, 30, 0, 0, 0, 0, 0, 0, 0, 0⟩)] :
    List (List Nat × Instr)).all (fun x => reads x.1 x.2) = true := by decide +kernel

theorem test_long_words_1 : ([
    ([0x20002182, 0x00200007, 0x00000000], .vld ⟨0, 1, 0, 0, 8, 0, 7, 0, 0, 0, 1, 0, 0, 0, 0, 0, 0, 0, none⟩),
    ([0x00010187, 0x00220008, 0x00000000, 0x00000010, 0x00000000], .vst ⟨0, 0, 1, 0, 0, 0, 8, 0, 0, 4, 1, 0, 0, 0, 0, 0, 0, 0, some 16⟩),
    ([0x1080018A, 0x07A20C41, 0x00000000], .vlds ⟨0, 0, 0, 1, 4, 0, 1, 2, 3, 4, 5, 1, 3, 0, 0, 0, 0, 0, none⟩),
    ([0x1100018E, 0x02020C41, 0x00000000], .vsts ⟨0, 0, 0, 2, 4, 0, 1, 2, 3, 4, 0, 0, 1, 0, 0, 0, 0, 0, none⟩),
    ([0x20004192, 0x0022080A, 0x08000000], .vgath ⟨0, 2, 0, 0, 8, 0, 10, 0, 2, 4, 1, 0, 0, 0, 0, 0, 0, 2, none⟩),
    ([0x20000196, 0x0002080A, 0x0C000000], .vscat ⟨0, 0, 0, 0, 8, 0, 10, 0, 2, 4, 0, 0, 0, 0, 0, 0, 0, 3, none⟩),
    ([0x1400019A, 0x00020C01, 0xFC000000], .vldf ⟨0, 0, 0, 0, 5, 0, 1, 0, 3, 4, 0, 0, 0, 0, 0, 0, 0, 63, none⟩),
    ([0x1400019E, 0x00020001, 0x00000000], .vstf ⟨0, 0, 0, 0, 5, 0, 1, 0, 0, 4, 0, 0, 0, 0, 0, 0, 0, 0, none⟩),
    ([0x200001A2, 0x00021001, 0x24000000], .vamo ⟨0, 0, 0, 0, 8, 0, 1, 0, 4, 4, 0, 0, 0, 0, 0, 0, 0, 9, none⟩),
    ([0x000001C2, 0x00002400, 0x7C000105], .qwait ⟨0, 0, 0, 0, 0, 0, 0, 0, 9, 0, 0, 0, 0, 5, 1, 0, 0, 31, none⟩),
    ([0x000001C6, 0x00000C41, 0x10000000], .qsig ⟨0, 0, 0, 0, 0, 0, 1, 2, 3, 0, 0, 0, 0, 0, 0, 0, 0, 4, none⟩),
    ([0x000001CA, 0x000A6B21, 0x30000000], .barArriveWait ⟨0, 0, 0, 0, 0, 0, 1, 25, 26, 20, 0, 0, 0, 0, 0, 0, 0, 12, none⟩),
    ([0x000001CA, 0x00006B21, 0x44000000], .barArrive ⟨0, 0, 0, 0, 0, 0, 1, 25, 26, 0, 0, 0, 0, 0, 0, 0, 0, 17, none⟩),
    ([0x000001CA, 0x000FEB21, 0x08000000], .barWait ⟨0, 0, 0, 0, 0, 0, 1, 25, 26, 31, 0, 0, 0, 0, 0, 0, 0, 2, none⟩),
    ([0x000001CE, 0x001F8C01, 0x1C000000], .msend ⟨0, 0, 0, 0, 0, 0, 1, 0, 3, 63, 0, 0, 0, 0, 0, 0, 0, 7, none⟩),
    ([0x000001D2, 0x001F8C00, 0x7C000000], .mrecv ⟨0, 0, 0, 0, 0, 0, 0, 0, 3, 63, 0, 0, 0, 0, 0, 0, 0, 31, none⟩),
    ([0x00000202, 0x0002316A, 0x00000000], .mprobe ⟨0, 0, 0, 0, 0, 0, 10, 11, 12, 4, 0, 0, 0, 0, 0, 0, 0, 0, none⟩),
    ([0x00000606, 0x00023127, 0x00000000], .mins ⟨1, 0, 0, 0, 0, 0, 7, 9, 12, 4, 0, 0, 0, 0, 0, 0, 0, 0, none⟩),
    ([0x0000420A, 0x000231CA, 0x14000000], .mset ⟨0, 2, 0, 0, 0, 0, 10, 14, 12, 4, 0, 0, 0, 0, 0, 0, 0, 5, none⟩),
    ([0x0000020E, 0x000231E7, 0x00000000], .mrem ⟨0, 0, 0, 0, 0, 0, 7, 15, 12, 4, 0, 0, 0, 0, 0, 0, 0, 0, none⟩),
    ([0x00000212, 0x00423007, 0x00000000], .mprobev ⟨0, 0, 0, 0, 0, 0, 7, 0, 12, 4, 2, 0, 0, 0, 0, 0, 0, 0, none⟩),
    ([0x00000216, 0x001F3007, 0x20000000], .msetv ⟨0, 0, 0, 0, 0, 0, 7, 0, 12, 62, 0, 0, 0, 0, 0, 0, 0, 8, none⟩),
    ([0x0000221A, 0x00023007, 0x00000000], .mstat ⟨0, 1, 0, 0, 0, 0, 7, 0, 12, 4, 0, 0, 0, 0, 0, 0, 0, 0, none⟩),
    ([0x0000021E, 0x000231C7, 0x0C000000], .miter ⟨0, 0, 0, 0, 0, 0, 7, 14, 12, 4, 0, 0, 0, 0, 0, 0, 0, 3, none⟩),
    ([0x00000222, 0x00032414, 0x0040C000], .wfeed ⟨0, 0, 0, 0, 0, 0, 20, 0, 9, 6, 0, 0, 0, 0, 0, 3, 1, 0, none⟩),
    ([0x00000226, 0x00033006, 0x00000000], .wread ⟨0, 0, 0, 0, 0, 0, 6, 0, 12, 6, 0, 0, 0, 0, 0, 0, 0, 0, none⟩),
    ([0x0000022A, 0x000031E7, 0x00000000], .wlen ⟨0, 0, 0, 0, 0, 0, 7, 15, 12, 0, 0, 0, 0, 0, 0, 0, 0, 0, none⟩),
    ([0x1000022E, 0x0022B1E8, 0x00000000], .badd ⟨0, 0, 0, 0, 4, 0, 8, 15, 12, 5, 1, 0, 0, 0, 0, 0, 0, 0, none⟩),
    ([0x10000232, 0x0003B1E8, 0x00000000], .bload ⟨0, 0, 0, 0, 4, 0, 8, 15, 12, 7, 0, 0, 0, 0, 0, 0, 0, 0, none⟩),
    ([0x00000236, 0x00003000, 0x04000000], .bdrain ⟨0, 0, 0, 0, 0, 0, 0, 0, 12, 0, 0, 0, 0, 0, 0, 0, 0, 1, none⟩),
    ([0x2C000243, 0x0000D819, 0x00000000, 0x00000060, 0x00000000], .tld ⟨0, 0, 0, 0, 11, 0, 25, 0, 22, 1, 0, 0, 0, 0, 0, 0, 0, 0, some 96⟩),
    ([0x00000246, 0x0000D819, 0x0C000000], .tst ⟨0, 0, 0, 0, 0, 0, 25, 0, 22, 1, 0, 0, 0, 0, 0, 0, 0, 3, none⟩)] :
    List (List Nat × Instr)).all (fun x => reads x.1 x.2) = true := by decide +kernel

theorem test_long_words_2 : ([
    ([0x0000024A, 0x00010000, 0x04000000], .tzero ⟨0, 0, 0, 0, 0, 0, 0, 0, 0, 2, 0, 0, 0, 0, 0, 0, 0, 1, none⟩),
    ([0x2400024E, 0x00000400, 0x00000203], .mma ⟨0, 0, 0, 0, 9, 0, 0, 0, 1, 0, 0, 0, 0, 3, 2, 0, 0, 0, none⟩),
    ([0x24000252, 0x00018441, 0x0C418000], .mmas ⟨0, 0, 0, 0, 9, 0, 1, 2, 1, 3, 0, 0, 0, 0, 0, 6, 1, 3, none⟩),
    ([0x1C000256, 0x00000400, 0x00418000], .mmar ⟨0, 0, 0, 0, 7, 0, 0, 0, 1, 0, 0, 0, 0, 0, 0, 6, 1, 0, none⟩),
    ([0x2C00025A, 0x00005C18, 0x00408000], .adrain ⟨0, 0, 0, 0, 11, 0, 24, 0, 23, 0, 0, 0, 0, 0, 0, 2, 1, 0, none⟩),
    ([0x1000025E, 0x00018018, 0x00000000], .ald ⟨0, 0, 0, 0, 4, 0, 24, 0, 0, 3, 0, 0, 0, 0, 0, 0, 0, 0, none⟩),
    ([0x00000262, 0x00000000, 0x00410000], .msync ⟨0, 0, 0, 0, 0, 0, 0, 0, 0, 0, 0, 0, 0, 0, 0, 4, 1, 0, none⟩),
    ([0x00000283, 0x000036B6, 0x00404000, 0x00004000, 0x00000000], .cpy ⟨0, 0, 0, 0, 0, 0, 22, 21, 13, 0, 0, 0, 0, 0, 0, 1, 1, 0, some 16384⟩),
    ([0x00000282, 0x0004B6B6, 0x2C000000], .cpyBrdx ⟨0, 0, 0, 0, 0, 0, 22, 21, 13, 9, 0, 0, 0, 0, 0, 0, 0, 11, none⟩),
    ([0x00000282, 0x0004B6B6, 0x40000000], .cpyBrdc ⟨0, 0, 0, 0, 0, 0, 22, 21, 13, 9, 0, 0, 0, 0, 0, 0, 0, 16, none⟩),
    ([0x00000282, 0x00003416, 0x6C000000], .cpyMig ⟨0, 0, 0, 0, 0, 0, 22, 0, 13, 0, 0, 0, 0, 0, 0, 0, 0, 27, none⟩),
    ([0x00000286, 0x0005B956, 0x10000000], .cpy2 ⟨0, 0, 0, 0, 0, 0, 22, 10, 14, 11, 0, 0, 0, 0, 0, 0, 0, 4, none⟩),
    ([0x0000028A, 0x0005B956, 0x0C410000], .cgath ⟨0, 0, 0, 0, 0, 0, 22, 10, 14, 11, 0, 0, 0, 0, 0, 4, 1, 3, none⟩),
    ([0x0000028E, 0x0005B956, 0x00000000], .cscat ⟨0, 0, 0, 0, 0, 0, 22, 10, 14, 11, 0, 0, 0, 0, 0, 0, 0, 0, none⟩),
    ([0x1C000292, 0x0005BAB4, 0x0C408000], .cdec ⟨0, 0, 0, 0, 7, 0, 20, 21, 14, 11, 0, 0, 0, 0, 0, 2, 1, 3, none⟩),
    ([0x00000296, 0x0005BAB4, 0x00000000], .cfill ⟨0, 0, 0, 0, 0, 0, 20, 21, 14, 11, 0, 0, 0, 0, 0, 0, 0, 0, none⟩),
    ([0x2000029A, 0x0005BAB4, 0x40000000], .bxf ⟨0, 0, 0, 0, 8, 0, 20, 21, 14, 11, 0, 0, 0, 0, 0, 0, 0, 16, none⟩),
    ([0x0000029E, 0x0000400C, 0x00000000], .cpoll ⟨0, 0, 0, 0, 0, 0, 12, 0, 16, 0, 0, 0, 0, 0, 0, 0, 0, 0, none⟩),
    ([0x000002A2, 0x0000240D, 0x7C000000], .cwait ⟨0, 0, 0, 0, 0, 0, 13, 0, 9, 0, 0, 0, 0, 0, 0, 0, 0, 31, none⟩),
    ([0x000002A6, 0x0000400C, 0x00000000], .cwpos ⟨0, 0, 0, 0, 0, 0, 12, 0, 16, 0, 0, 0, 0, 0, 0, 0, 0, 0, none⟩),
    ([0x000002AA, 0x0000400C, 0x00000000], .ccancel ⟨0, 0, 0, 0, 0, 0, 12, 0, 16, 0, 0, 0, 0, 0, 0, 0, 0, 0, none⟩),
    ([0x200002AE, 0x000626B4, 0x10000000], .cred ⟨0, 0, 0, 0, 8, 0, 20, 21, 9, 12, 0, 0, 0, 0, 0, 0, 0, 4, none⟩)] :
    List (List Nat × Instr)).all (fun x => reads x.1 x.2) = true := by decide +kernel


/-! ### Well-formedness: for each check an ill-formed term, which it refuses -/

/-- The check refuses the term for this reason. -/
def refuses (b : Bad) (i : Instr) : Bool := check i == some b

/-- The check refuses the term, for whichever reason stands first. -/
def ill (i : Instr) : Bool := (check i).isSome

/-- A well-formed term of each vector instruction. -/
def lvRows1 : List ((LV → Instr) × LV) := [
    (.vadd, ⟨0, 0, 0, 0, 4, 1, 1, 62, 3, 0, 0, 1, 0, 2, 1, 0, 0⟩),
    (.vsub, ⟨0, 0, 0, 0, 8, 0, 1, 2, 3, 0, 0, 0, 0, 0, 0, 4, 0⟩),
    (.vmul, ⟨0, 0, 1, 0, 8, 0, 1, 0, 2, 0, 0, 1, 0, 0, 0, 0, 0⟩),
    (.vfma, ⟨2, 0, 0, 0, 8, 0, 3, 0, 1, 2, 0, 1, 0, 2, 1, 1, 0⟩),
    (.vfms, ⟨0, 0, 0, 0, 6, 0, 3, 0, 1, 2, 0, 0, 0, 0, 0, 0, 0⟩),
    (.vmin, ⟨0, 0, 0, 0, 1, 0, 4, 5, 6, 0, 0, 0, 0, 0, 0, 0, 0⟩),
    (.vmax, ⟨0, 0, 0, 0, 1, 0, 4, 5, 6, 0, 0, 0, 0, 0, 0, 0, 0⟩),
    (.vabs, ⟨0, 0, 0, 0, 3, 1, 4, 5, 0, 0, 0, 0, 0, 0, 0, 0, 0⟩),
    (.vneg, ⟨0, 0, 0, 0, 3, 1, 4, 5, 0, 0, 0, 0, 0, 0, 0, 0, 0⟩),
    (.vand, ⟨7, 0, 0, 0, 14, 0, 4, 5, 6, 0, 0, 0, 0, 0, 0, 0, 0⟩),
    (.vor, ⟨7, 0, 0, 0, 14, 0, 4, 5, 6, 0, 0, 0, 0, 0, 0, 0, 0⟩),
    (.vxor, ⟨7, 0, 0, 0, 14, 0, 4, 5, 6, 0, 0, 0, 0, 0, 0, 0, 0⟩),
    (.vandn, ⟨7, 0, 0, 0, 14, 0, 4, 5, 6, 0, 0, 0, 0, 0, 0, 0, 0⟩),
    (.vshl, ⟨0, 0, 0, 0, 5, 0, 4, 5, 6, 0, 0, 0, 0, 0, 0, 0, 0⟩),
    (.vshr, ⟨0, 0, 0, 0, 5, 0, 4, 5, 6, 0, 0, 0, 0, 0, 0, 0, 0⟩),
    (.vsra, ⟨0, 0, 0, 0, 5, 0, 4, 5, 6, 0, 0, 0, 0, 0, 0, 0, 0⟩),
    (.vmulh, ⟨0, 0, 0, 0, 5, 0, 4, 5, 6, 0, 0, 0, 0, 0, 0, 0, 0⟩),
    (.vdiv, ⟨0, 7, 0, 0, 7, 0, 4, 5, 6, 0, 0, 0, 0, 0, 0, 2, 0⟩),
    (.vsqrt, ⟨0, 1, 0, 0, 8, 0, 4, 5, 0, 0, 0, 0, 0, 0, 0, 3, 0⟩),
    (.vrcp, ⟨0, 1, 0, 0, 8, 0, 4, 5, 0, 0, 0, 0, 0, 0, 0, 1, 0⟩),
    (.vrsq, ⟨0, 2, 0, 0, 8, 0, 4, 5, 0, 0, 0, 0, 0, 0, 0, 1, 0⟩),
    (.vexp2, ⟨0, 3, 0, 0, 8, 0, 4, 5, 0, 0, 0, 0, 0, 0, 0, 1, 0⟩),
    (.vlog2, ⟨0, 4, 0, 0, 8, 0, 4, 5, 0, 0, 0, 0, 0, 0, 0, 1, 0⟩),
    (.vsint, ⟨0, 5, 0, 0, 8, 0, 4, 5, 0, 0, 0, 0, 0, 0, 0, 1, 0⟩)]

/-- The rest of them. -/
def lvRows2 : List ((LV → Instr) × LV) := [
    (.vcost, ⟨0, 6, 0, 0, 8, 0, 4, 5, 0, 0, 0, 0, 0, 0, 0, 1, 0⟩),
    (.vtanh, ⟨0, 7, 0, 0, 8, 0, 4, 5, 0, 0, 0, 0, 0, 0, 0, 1, 0⟩),
    (.vcmp, ⟨0, 0, 0, 0, 4, 0, 7, 5, 6, 0, 0, 0, 0, 0, 0, 0, 5⟩),
    (.vsel, ⟨0, 0, 0, 0, 10, 0, 4, 5, 6, 0, 0, 3, 0, 0, 0, 0, 0⟩),
    (.vmov, ⟨0, 0, 64, 0, 0, 0, 63, 62, 0, 0, 0, 0, 0, 0, 0, 0, 0⟩),
    (.vbcast, ⟨0, 0, 0, 0, 5, 0, 4, 10, 0, 0, 0, 0, 0, 0, 0, 0, 0⟩),
    (.vextr, ⟨0, 0, 0, 0, 6, 0, 17, 0, 16, 0, 0, 0, 0, 0, 0, 0, 0⟩),
    (.vins, ⟨0, 0, 0, 0, 6, 0, 17, 31, 16, 0, 0, 0, 0, 0, 0, 0, 0⟩),
    (.vcvt, ⟨0, 0, 0, 0, 7, 0, 5, 4, 0, 0, 0, 0, 0, 0, 0, 0, 40⟩),
    (.vqnt, ⟨0, 0, 0, 0, 13, 0, 5, 4, 3, 0, 0, 0, 0, 0, 0, 0, 7⟩),
    (.vdq, ⟨0, 0, 0, 0, 8, 0, 5, 4, 0, 0, 0, 0, 0, 0, 0, 0, 6⟩),
    (.vretag, ⟨0, 0, 0, 0, 15, 0, 5, 4, 0, 0, 0, 0, 0, 0, 0, 0, 0⟩),
    (.vperm, ⟨0, 0, 0, 0, 1, 0, 5, 4, 3, 2, 0, 0, 0, 0, 0, 0, 0⟩),
    (.vrotl, ⟨0, 0, 0, 0, 1, 0, 5, 4, 31, 0, 0, 0, 0, 0, 0, 0, 0⟩),
    (.vzip, ⟨0, 0, 0, 0, 1, 0, 5, 4, 3, 0, 0, 0, 0, 0, 0, 0, 1⟩),
    (.vunzip, ⟨0, 0, 0, 0, 1, 0, 5, 4, 3, 0, 0, 0, 0, 0, 0, 0, 1⟩),
    (.vredadd, ⟨0, 3, 0, 0, 8, 0, 6, 0, 0, 0, 0, 0, 0, 0, 0, 0, 0⟩),
    (.vredmax, ⟨0, 2, 0, 0, 4, 0, 6, 1, 0, 0, 0, 0, 0, 0, 0, 0, 0⟩),
    (.vredmin, ⟨0, 0, 0, 0, 4, 0, 6, 1, 0, 0, 0, 0, 0, 0, 0, 0, 0⟩),
    (.vscan, ⟨0, 0, 0, 0, 4, 0, 6, 1, 0, 0, 0, 0, 0, 0, 0, 0, 2⟩),
    (.vnzs, ⟨0, 2, 4, 0, 4, 0, 8, 0, 10, 9, 0, 1, 0, 0, 0, 0, 6⟩),
    (.vdot4, ⟨0, 0, 0, 0, 4, 1, 8, 1, 10, 9, 0, 0, 0, 0, 0, 0, 0⟩),
    (.vclz, ⟨0, 0, 0, 0, 3, 0, 8, 1, 0, 0, 0, 0, 0, 0, 0, 0, 0⟩),
    (.vpopc, ⟨0, 0, 0, 0, 3, 0, 8, 1, 0, 0, 0, 0, 0, 0, 0, 0, 0⟩),
    (.vidx, ⟨0, 0, 0, 0, 4, 0, 8, 31, 30, 0, 0, 0, 0, 0, 0, 0, 0⟩)]

/-- A well-formed term of each long memory, map, matrix and engine instruction. -/
def lmRows1 : List ((LM → Instr) × LM) := [
    (.vld, ⟨0, 1, 0, 0, 8, 0, 7, 0, 0, 0, 1, 0, 0, 0, 0, 0, 0, 0, none⟩),
    (.vst, ⟨0, 0, 1, 0, 0, 0, 8, 0, 0, 4, 1, 0, 0, 0, 0, 0, 0, 0, some 16⟩),
    (.vlds, ⟨0, 0, 0, 1, 4, 0, 1, 2, 3, 4, 5, 1, 3, 0, 0, 0, 0, 0, none⟩),
    (.vsts, ⟨0, 0, 0, 2, 4, 0, 1, 2, 3, 4, 0, 0, 1, 0, 0, 0, 0, 0, none⟩),
    (.vgath, ⟨0, 2, 0, 0, 8, 0, 10, 0, 2, 4, 1, 0, 0, 0, 0, 0, 0, 2, none⟩),
    (.vscat, ⟨0, 0, 0, 0, 8, 0, 10, 0, 2, 4, 0, 0, 0, 0, 0, 0, 0, 3, none⟩),
    (.vldf, ⟨0, 0, 0, 0, 5, 0, 1, 0, 3, 4, 0, 0, 0, 0, 0, 0, 0, 63, none⟩),
    (.vstf, ⟨0, 0, 0, 0, 5, 0, 1, 0, 0, 4, 0, 0, 0, 0, 0, 0, 0, 0, none⟩),
    (.vamo, ⟨0, 0, 0, 0, 8, 0, 1, 0, 4, 4, 0, 0, 0, 0, 0, 0, 0, 9, none⟩),
    (.qwait, ⟨0, 0, 0, 0, 0, 0, 0, 0, 9, 0, 0, 0, 0, 5, 1, 0, 0, 31, none⟩),
    (.qsig, ⟨0, 0, 0, 0, 0, 0, 1, 2, 3, 0, 0, 0, 0, 0, 0, 0, 0, 4, none⟩),
    (.barArriveWait, ⟨0, 0, 0, 0, 0, 0, 1, 25, 26, 20, 0, 0, 0, 0, 0, 0, 0, 12, none⟩),
    (.barArrive, ⟨0, 0, 0, 0, 0, 0, 1, 25, 26, 0, 0, 0, 0, 0, 0, 0, 0, 17, none⟩),
    (.barWait, ⟨0, 0, 0, 0, 0, 0, 1, 25, 26, 31, 0, 0, 0, 0, 0, 0, 0, 2, none⟩),
    (.msend, ⟨0, 0, 0, 0, 0, 0, 1, 0, 3, 63, 0, 0, 0, 0, 0, 0, 0, 7, none⟩),
    (.mrecv, ⟨0, 0, 0, 0, 0, 0, 0, 0, 3, 63, 0, 0, 0, 0, 0, 0, 0, 31, none⟩),
    (.mprobe, ⟨0, 0, 0, 0, 0, 0, 10, 11, 12, 4, 0, 0, 0, 0, 0, 0, 0, 0, none⟩),
    (.mins, ⟨1, 0, 0, 0, 0, 0, 7, 9, 12, 4, 0, 0, 0, 0, 0, 0, 0, 0, none⟩),
    (.mset, ⟨0, 2, 0, 0, 0, 0, 10, 14, 12, 4, 0, 0, 0, 0, 0, 0, 0, 5, none⟩),
    (.mrem, ⟨0, 0, 0, 0, 0, 0, 7, 15, 12, 4, 0, 0, 0, 0, 0, 0, 0, 0, none⟩),
    (.mprobev, ⟨0, 0, 0, 0, 0, 0, 7, 0, 12, 4, 2, 0, 0, 0, 0, 0, 0, 0, none⟩),
    (.msetv, ⟨0, 0, 0, 0, 0, 0, 7, 0, 12, 62, 0, 0, 0, 0, 0, 0, 0, 8, none⟩),
    (.mstat, ⟨0, 1, 0, 0, 0, 0, 7, 0, 12, 4, 0, 0, 0, 0, 0, 0, 0, 0, none⟩),
    (.miter, ⟨0, 0, 0, 0, 0, 0, 7, 14, 12, 4, 0, 0, 0, 0, 0, 0, 0, 3, none⟩),
    (.wfeed, ⟨0, 0, 0, 0, 0, 0, 20, 0, 9, 6, 0, 0, 0, 0, 0, 3, 1, 0, none⟩),
    (.wread, ⟨0, 0, 0, 0, 0, 0, 6, 0, 12, 6, 0, 0, 0, 0, 0, 0, 0, 0, none⟩),
    (.wlen, ⟨0, 0, 0, 0, 0, 0, 7, 15, 12, 0, 0, 0, 0, 0, 0, 0, 0, 0, none⟩)]

/-- The rest of them. -/
def lmRows2 : List ((LM → Instr) × LM) := [
    (.badd, ⟨0, 0, 0, 0, 4, 0, 8, 15, 12, 5, 1, 0, 0, 0, 0, 0, 0, 0, none⟩),
    (.bload, ⟨0, 0, 0, 0, 4, 0, 8, 15, 12, 7, 0, 0, 0, 0, 0, 0, 0, 0, none⟩),
    (.bdrain, ⟨0, 0, 0, 0, 0, 0, 0, 0, 12, 0, 0, 0, 0, 0, 0, 0, 0, 1, none⟩),
    (.tld, ⟨0, 0, 0, 0, 11, 0, 25, 0, 22, 1, 0, 0, 0, 0, 0, 0, 0, 0, some 96⟩),
    (.tst, ⟨0, 0, 0, 0, 0, 0, 25, 0, 22, 1, 0, 0, 0, 0, 0, 0, 0, 3, none⟩),
    (.tzero, ⟨0, 0, 0, 0, 0, 0, 0, 0, 0, 2, 0, 0, 0, 0, 0, 0, 0, 1, none⟩),
    (.mma, ⟨0, 0, 0, 0, 9, 0, 0, 0, 1, 0, 0, 0, 0, 3, 2, 0, 0, 0, none⟩),
    (.mmas, ⟨0, 0, 0, 0, 9, 0, 1, 2, 1, 3, 0, 0, 0, 0, 0, 6, 1, 3, none⟩),
    (.mmar, ⟨0, 0, 0, 0, 7, 0, 0, 0, 1, 0, 0, 0, 0, 0, 0, 6, 1, 0, none⟩),
    (.adrain, ⟨0, 0, 0, 0, 11, 0, 24, 0, 23, 0, 0, 0, 0, 0, 0, 2, 1, 0, none⟩),
    (.ald, ⟨0, 0, 0, 0, 4, 0, 24, 0, 0, 3, 0, 0, 0, 0, 0, 0, 0, 0, none⟩),
    (.msync, ⟨0, 0, 0, 0, 0, 0, 0, 0, 0, 0, 0, 0, 0, 0, 0, 4, 1, 0, none⟩),
    (.cpy, ⟨0, 0, 0, 0, 0, 0, 22, 21, 13, 0, 0, 0, 0, 0, 0, 1, 1, 0, some 16384⟩),
    (.cpyBrdx, ⟨0, 0, 0, 0, 0, 0, 22, 21, 13, 9, 0, 0, 0, 0, 0, 0, 0, 11, none⟩),
    (.cpyBrdc, ⟨0, 0, 0, 0, 0, 0, 22, 21, 13, 9, 0, 0, 0, 0, 0, 0, 0, 16, none⟩),
    (.cpyMig, ⟨0, 0, 0, 0, 0, 0, 22, 0, 13, 0, 0, 0, 0, 0, 0, 0, 0, 27, none⟩),
    (.cpy2, ⟨0, 0, 0, 0, 0, 0, 22, 10, 14, 11, 0, 0, 0, 0, 0, 0, 0, 4, none⟩),
    (.cgath, ⟨0, 0, 0, 0, 0, 0, 22, 10, 14, 11, 0, 0, 0, 0, 0, 4, 1, 3, none⟩),
    (.cscat, ⟨0, 0, 0, 0, 0, 0, 22, 10, 14, 11, 0, 0, 0, 0, 0, 0, 0, 0, none⟩),
    (.cdec, ⟨0, 0, 0, 0, 7, 0, 20, 21, 14, 11, 0, 0, 0, 0, 0, 2, 1, 3, none⟩),
    (.cfill, ⟨0, 0, 0, 0, 0, 0, 20, 21, 14, 11, 0, 0, 0, 0, 0, 0, 0, 0, none⟩),
    (.bxf, ⟨0, 0, 0, 0, 8, 0, 20, 21, 14, 11, 0, 0, 0, 0, 0, 0, 0, 16, none⟩),
    (.cpoll, ⟨0, 0, 0, 0, 0, 0, 12, 0, 16, 0, 0, 0, 0, 0, 0, 0, 0, 0, none⟩),
    (.cwait, ⟨0, 0, 0, 0, 0, 0, 13, 0, 9, 0, 0, 0, 0, 0, 0, 0, 0, 31, none⟩),
    (.cwpos, ⟨0, 0, 0, 0, 0, 0, 12, 0, 16, 0, 0, 0, 0, 0, 0, 0, 0, 0, none⟩),
    (.ccancel, ⟨0, 0, 0, 0, 0, 0, 12, 0, 16, 0, 0, 0, 0, 0, 0, 0, 0, 0, none⟩),
    (.cred, ⟨0, 0, 0, 0, 8, 0, 20, 21, 9, 12, 0, 0, 0, 0, 0, 0, 0, 4, none⟩)]

/-- A vector term. -/
def lv0 : LV := ⟨0, 0, 0, 0, 8, 0, 0, 0, 0, 0, 0, 0, 0, 0, 0, 0, 0⟩

/-- A long term. -/
def lm0 : LM := ⟨0, 0, 0, 0, 0, 0, 0, 0, 0, 0, 0, 0, 0, 0, 0, 0, 0, 0, none⟩

def lvRows : List ((LV → Instr) × LV) := lvRows1 ++ lvRows2
def lmRows : List ((LM → Instr) × LM) := lmRows1 ++ lmRows2

theorem test_the_rows_are_well_formed :
    (lvRows.all fun r => (check (r.1 r.2)).isNone) = true ∧ (lmRows.all fun r => (check (r.1 r.2)).isNone) = true := by
  decide +kernel

theorem test_vector_terms_refused :
    (lvRows.all fun r => refuses .hint (r.1 { r.2 with hint := 3 })) = true ∧
    (lvRows.all fun r => refuses .reserved (r.1 { r.2 with e := 1 })) = true ∧
    (lvRows.all fun r => refuses .guard (r.1 { r.2 with pa := 0, paInv := 1 })) = true ∧
    (lvRows.all fun r => refuses .guard (r.1 { r.2 with pb := 0, pbInv := 1 })) = true ∧
    (lvRows.all fun r => refuses .fmt (r.1 { r.2 with fmt := 31 })) = true ∧
    (lvRows.all fun r => refuses .rounding (r.1 { r.2 with rm := 5 })) = true ∧
    (lvRows.all fun r => ill (r.1 { r.2 with fn := 0x1FFFFF })) = true := by decide +kernel

theorem test_long_terms_refused :
    (lmRows.all fun r => refuses .hint (r.1 { r.2 with hint := 3 })) = true ∧
    (lmRows.all fun r => refuses .fmt (r.1 { r.2 with fmt := 31 })) = true ∧
    (lmRows.all fun r => refuses .guard (r.1 { r.2 with pg := 0, pgInv := 1 })) = true ∧
    (lmRows.all fun r => refuses .semaphore (r.1 { r.2 with wt := 0, wq := 1 })) = true ∧
    (lmRows.all fun r => refuses .semaphore (r.1 { r.2 with gv := 0, gq := 1 })) = true := by decide +kernel

theorem test_fields_refused :
    refuses .tag (.vadd { lv0 with ta := 1 }) = true ∧ refuses .tag (.mma { lm0 with ta := 1, fmt := 9 }) = true ∧
    refuses .saturation (.vadd { lv0 with sat := 1 }) = true ∧ refuses .guard (.vextr { lv0 with pa := 1 }) = true ∧
    refuses .register (.vcmp { lv0 with d := 8 }) = true ∧ refuses .register (.vmov { lv0 with fmt := 0, b := 1 }) = true ∧
    refuses .sub (.vcvt { lv0 with fn := 8 }) = true ∧ refuses .sub (.vcvt { lv0 with fmt := 7, fn := 0x48 }) = true ∧
    refuses .sub (.vqnt { lv0 with fmt := 11, fn := 4 }) = true ∧ refuses .sub (.vnzs { lv0 with fmt := 4, fn := 1 }) = true ∧
    refuses .length (.mma { lm0 with fmt := 9, lit := some 0 }) = true ∧
    refuses .length (.vld { lm0 with fmt := 8, sb := 1, lit := some 0 }) = true ∧
    refuses .length (.vlds { lm0 with fmt := 4, mode := 2, lit := some 0 }) = true ∧
    refuses .length (.cpy { lm0 with v := 1, lit := some 0 }) = true ∧
    refuses .saturation (.tst { lm0 with sat := 1 }) = true ∧ refuses .guard (.mprobe { lm0 with pg := 1 }) = true ∧
    refuses .mode (.mprobe { lm0 with mode := 1 }) = true ∧ refuses .guard (.vld { lm0 with fmt := 11, pg := 1 }) = true ∧
    refuses .mode (.vld { lm0 with fmt := 11, mode := 1 }) = true ∧
    refuses .sub (.qwait lm0) = true ∧ refuses .sub (.qsig { lm0 with fn := 5 }) = true ∧
    refuses .register (.barWait { lm0 with v := 32, fn := 2 }) = true ∧
    refuses .register (.msetv { lm0 with v := 1 }) = true ∧ refuses .sub (.mprobe { lm0 with sb := 1, fn := 1 }) = true ∧
    refuses .sub (.miter lm0) = true ∧ refuses .sub (.miter { lm0 with sb := 2, sc := 3, fn := 1 }) = true ∧
    refuses .register (.mma { lm0 with fmt := 9, sa := 4 }) = true ∧ refuses .sub (.tld { lm0 with fmt := 6, fn := 9 }) = false ∧
    refuses .sub (.tld { lm0 with fmt := 11, fn := 6 }) = true ∧ refuses .sub (.tld { lm0 with fmt := 6, sc := 1 }) = true ∧
    refuses .sub (.adrain { lm0 with fmt := 8, fn := 3 }) = true ∧ refuses .sub (.adrain { lm0 with fmt := 6, fn := 1 }) = true ∧
    refuses .sub (.bxf { lm0 with fmt := 8 }) = true ∧ refuses .sub (.cred { lm0 with fmt := 8, fn := 8 }) = true ∧
    refuses .sub (.vamo { lm0 with fmt := 8 }) = true ∧ refuses .register (.vamo { lm0 with fmt := 4, sc := 5 }) = true := by
  decide +kernel

theorem test_short_terms_refused :
    refuses .sub (.cmp 1 2 3 10) = true ∧ refuses .sub (.waddr 1 2 3 4) = true ∧ refuses .reserved (.waddr 1 2 3 1) = true ∧
    refuses .sub (.shli 1 2 64) = true ∧ refuses .sub (.shri 1 2 64) = true ∧ refuses .sub (.srai 1 2 64) = true ∧
    refuses .register (.pand 8 1 2) = true ∧ refuses .register (.por 1 8 2) = true ∧
    refuses .register (.pxor 1 2 8) = true ∧ refuses .register (.pandn 31 1 2) = true ∧
    refuses .register (.plen 8 1 0) = true ∧ refuses .sub (.plen 1 1 5) = true ∧
    refuses .register (.pcnt 1 8 0) = true ∧ refuses .sub (.pcnt 1 1 4) = true ∧ refuses .register (.pany 1 8) = true ∧
    refuses .register (.pfirst 1 8 0) = true ∧ refuses .sub (.pfirst 1 1 4) = true ∧
    refuses .register (.br 8 6 0) = true ∧ refuses .register (.ldf 1 2 1 0 0) = true ∧
    refuses .sub (.amo 1 2 3 9 0) = true ∧ refuses .sub (.amo 1 2 3 0 5) = true ∧ refuses .sub (.cas 1 2 3 5) = true ∧
    refuses .sub (.acqRead 1 2 5) = true ∧ refuses .sub (.acqWrite 1 2 5 0) = true ∧ refuses .sub (.rel 1 2 5) = true ∧
    refuses .sub (.relYield 1 2 5) = true ∧ refuses .sub (.fence 5) = true ∧ refuses .sub (.pref 3 1 0) = true ∧
    check (.cmp 1 2 3 9) = none ∧ check (.br 8 5 0) = none ∧ check (.ldf 0 2 0 0 0) = none := by decide +kernel

/-- The words decode to no instruction, for this reason. -/
def rejects (b : Bad) (ws : List Nat) : Bool := match decode (window ws) with | .ok _ => false | .error e => e == b

theorem test_words_refused :
    rejects .unassigned [0] = true ∧ rejects .permanent [0x3E0] = true ∧ rejects .unassigned [0x2, 0, 0] = true ∧
    rejects .length [0x407, 0, 0, 0, 0] = true ∧ rejects .reserved [0x80000124] = true ∧ rejects .guard [0x2000000E, 0, 8] = true := by
  decide +kernel

/-! ### Single steps: results the manual states (Table 15.7) and the word's advance of the counter -/

/-- Two operands in s1 and s2. -/
def two (a b : Word) : State := user fun x => (x.setS 1 a).setS 2 b

/-- What the instruction writes to s3. -/
def writes (i : Instr) (s : State) : Option Word := match exec i s with | .next t => some (t.here.rs 3) | _ => none

theorem test_table_15_7 :
    writes (.div 3 1 2) (two 7 (-2)) = some (-3) ∧ writes (.rem 3 1 2) (two 7 (-2)) = some 1 ∧
    writes (.div 3 1 2) (two (-7) 2) = some (-3) ∧ writes (.rem 3 1 2) (two (-7) 2) = some (-1) ∧
    writes (.mulh 3 1 2) (two (-1) (-1)) = some 0 ∧ writes (.mulhu 3 1 2) (two (-1) (-1)) = some (-2) ∧
    writes (.sra 3 1 2) (two 0x8000000000000000 63) = some (-1) ∧ writes (.shl 3 1 2) (two 1 65) = some 2 ∧
    writes (.clz 3 1) (two 0 0) = some 64 := by decide +kernel

theorem test_table_15_3 :
    writes (.div 3 1 2) (two 5 0) = some (-1) ∧ writes (.remu 3 1 2) (two 5 0) = some 5 ∧
    writes (.div 3 1 2) (two 0x8000000000000000 (-1)) = some 0x8000000000000000 ∧
    writes (.rem 3 1 2) (two 0x8000000000000000 (-1)) = some 0 ∧
    writes (.divu 3 1 2) (two 0x8000000000000000 (-1)) = some 0 := by decide +kernel

/-- The counter of the issuing thread after the instruction, with whether it stands in S mode. -/
def goes (i : Instr) (s : State) : Option (Word × Bool) :=
  match exec i s with | .next t => some (t.here.pc, t.here.priv) | _ => none

theorem test_counter :
    goes .nop w0 = some (4, false) ∧ goes (.ldl 1 5) w0 = some (12, false) ∧ goes (.jmp 2) w0 = some (8, false) ∧
    goes (.trap 7) (user id) = some (0x100, true) ∧ goes .eret (user id) = some (0x100, true) := by decide +kernel

/-- R213, Table 11.2: an integer beyond E4M3 is the NaN 0x7F, and with `.sat` 448 of its sign (0x7E). -/
theorem test_e4m3_of_an_integer : (convertF 3 9 0 false 1000).1 = 0x7F ∧ (convertF 3 9 0 true 1000).1 = 0x7E ∧
    (convertF 3 9 0 true (2 ^ 16 - 1000)).1 = 0xFE := by decide +kernel

/-- R399: red of the equations of JFIF, worked by hand: 76 + 1.402 × 127 = 254.05, 76 + 0.344136 × 43 − 0.714136 × 127 = 0.10,
and 76 − 1.772 × 43 = −0.20, clamped. -/
theorem test_jfif : jfif 0 76 85 255 = 254 ∧ jfif 1 76 85 255 = 0 ∧ jfif 2 76 85 255 = 0 := by decide +kernel

/-- R398, T.6: a white line by V0, then three white and five black pixels by the horizontal mode, and an EOFB before the third
row. -/
theorem test_group4 : group4 8 3 [0x98, 0x30, 0x01, 0x00, 0x10] =
    [List.replicate 8 false, List.replicate 3 false ++ List.replicate 5 true] := by decide +kernel

/-- R398, T.81: one grey block whose scan holds the category 3 with 101, a difference of 5, and the end of the block. -/
theorem test_jpeg : (jpegOf ([0xFF, 0xD8, 0xFF, 0xDB, 0, 67, 0] ++ List.replicate 64 (1 : Byte) ++
    [0xFF, 0xC0, 0, 11, 8, 0, 8, 0, 8, 1, 1, 0x11, 0, 0xFF, 0xC4, 0, 20, 0, 1] ++ List.replicate 15 (0 : Byte) ++
    [3, 0xFF, 0xC4, 0, 20, 0x10, 1] ++ List.replicate 15 (0 : Byte) ++
    [0, 0xFF, 0xDA, 0, 8, 1, 1, 0, 0, 63, 0, 0x57, 0xFF, 0xD9])).map (fun x => x.2.map (·.1)) =
    some [[some (5 :: List.replicate 63 0)]] := by decide +kernel

/-! ### The hypotheses of SelectsAndPredicateLogicFollowTheirRules -/

theorem test_meets_selects : w0.Issues ∧ (user id).Issues ∧ (user id).CanTrap ∧ (0x124#32).extractLsb' 0 2 = 0#2 ∧
    ([([0x08628C54], 0x15#8), ([0xC8628C54], 0x15#8), ([0x007104C0], 0x30#8), ([0x007104C4], 0x31#8),
      ([0x007104C8], 0x32#8), ([0x007104CC], 0x33#8), ([0x008104C0], 0x30#8), ([0x027104C0], 0x30#8)] :
      List (List Nat × BitVec 8)).all (fun x =>
        (window x.1).extractLsb' 0 2 == 0#2 && (window x.1).extractLsb' 2 8 == x.2) = true :=
  ⟨test_w0.2.1, test_w0.2.2.2.1, test_w0.2.2.2.2.2, rfl, by decide +kernel⟩

theorem test_selects_at_the_edge :
    rejects .reserved [0xC8628C54] = true ∧ rejects .register [0x008104C0] = true ∧
    rejects .reserved [0x027104C0] = true := by decide +kernel

end Sys2Proof.Tests
end

section
/-! PROOFS. The branches, calls and jumps of chapter 15 (R253, R288, R289, Table 14.3). -/

namespace Sys2Proof.Machine

/-! ### The sign of a word -/

/-- A word is zero as a signed number exactly where it is the zero word. -/
theorem toInt_eq_zero_iff (v : Word) : v.toInt = 0 ↔ v = 0 := by
  rw [← BitVec.toInt_inj, show (0 : Word).toInt = 0 from rfl]

/-- A word is negative as a signed number exactly where its top bit is set. -/
theorem toInt_neg_iff_msb (v : Word) : v.toInt < 0 ↔ v.msb = true := by
  rw [BitVec.msb_eq_toInt, decide_eq_true_iff]

theorem toInt_nonneg_iff_msb (v : Word) : 0 ≤ v.toInt ↔ v.msb = false := by
  rw [← Bool.not_eq_true, ← toInt_neg_iff_msb, not_lt]

/-! ### The branch conditions (Table 14.3) -/

section
variable (x : Slot) (a : SReg)

theorem brTaken_eqz : brTaken x a 0#3 = true ↔ x.rs a = 0 :=
  beq_iff_eq.trans (toInt_eq_zero_iff _)

theorem brTaken_nez : brTaken x a 1#3 = true ↔ x.rs a ≠ 0 :=
  bne_iff_ne.trans (toInt_eq_zero_iff _).not

theorem brTaken_ltz : brTaken x a 2#3 = true ↔ (x.rs a).msb = true :=
  decide_eq_true_iff.trans (toInt_neg_iff_msb _)

theorem brTaken_gez : brTaken x a 3#3 = true ↔ (x.rs a).msb = false :=
  decide_eq_true_iff.trans (toInt_nonneg_iff_msb _)

theorem brTaken_gtz : brTaken x a 4#3 = true ↔ (x.rs a).msb = false ∧ x.rs a ≠ 0 := by
  have h : brTaken x a 4#3 = true ↔ 0 < (x.rs a).toInt := decide_eq_true_iff
  rw [h, lt_iff_le_and_ne, toInt_nonneg_iff_msb, ne_comm, Ne, toInt_eq_zero_iff]

theorem brTaken_lez : brTaken x a 5#3 = true ↔ (x.rs a).msb = true ∨ x.rs a = 0 := by
  have h : brTaken x a 5#3 = true ↔ (x.rs a).toInt ≤ 0 := decide_eq_true_iff
  rw [h, le_iff_lt_or_eq, toInt_neg_iff_msb, toInt_eq_zero_iff]

theorem brTaken_pany : brTaken x a 6#3 = true ↔ x.rp (a.setWidth 3) ≠ 0 := bne_iff_ne

theorem brTaken_pnone : brTaken x a 7#3 = true ↔ x.rp (a.setWidth 3) = 0 := beq_iff_eq

end

/-! ### Branches, JMP and CALL -/

section
variable (s : State) (h : s.Issues)
include h

/-- BR goes to its target or to the next word, and does nothing else (R288). -/
theorem exec_br (a : SReg) (cc : BitVec 3) (off : BitVec 14) :
    exec (.br a cc off) s =
      .next (s.retired (if brTaken s.here a cc then target s.here.pc off else s.here.after 1) id) :=
  run_issuing s h _

/-- Both outcomes of a branch whose condition is `taken`. -/
theorem exec_br_of_condition (a : SReg) (cc : BitVec 3) (off : BitVec 14) (taken : Prop)
    (hc : brTaken s.here a cc = true ↔ taken) :
    (taken → exec (.br a cc off) s = .next (s.retired (target s.here.pc off) id)) ∧
      (¬taken → exec (.br a cc off) s = .next (s.retired (s.here.after 1) id)) := by
  rw [exec_br s h]
  exact ⟨fun ht => by rw [if_pos (hc.2 ht)], fun hn => by rw [if_neg fun hb => hn (hc.1 hb)]⟩

theorem exec_jmp (off : BitVec 22) : exec (.jmp off) s = .next (s.retired (target s.here.pc off) id) :=
  run_issuing s h _

theorem exec_call (off : BitVec 22) :
    exec (.call off) s = .next (s.retired (target s.here.pc off) fun z => z.setS 31 (s.here.after 1)) :=
  run_issuing s h _

/-! ### Jumps to a register -/

/-- A jump to a register makes its two checks in order, and goes to the word held before the link is written (R289). -/
theorem run_jumpReg (link : Option SReg) (a : SReg) :
    run (jumpReg s link a) s = .next (applyAll
      (if (s.here.rs a).toNat % 4 ≠ 0 then trap s s.cur cMISALIGN (s.here.rs a) 1
        else if 2 ^ 56 ≤ (s.here.rs a).toNat then trap s s.cur cADDR (s.here.rs a) 1
        else [.slot s.cur fun z => (link.elim z fun d => z.setS d (s.here.after 1)).advance (s.here.rs a)]) s) := by
  cases link <;> exact run_issuing s h _

theorem jumpReg_goes (link : Option SReg) (a : SReg) (aligned : (s.here.rs a).toNat % 4 = 0)
    (reached : (s.here.rs a).toNat < 2 ^ 56) :
    run (jumpReg s link a) s =
      .next (s.retired (s.here.rs a) fun z => link.elim z fun d => z.setS d (s.here.after 1)) := by
  rw [run_jumpReg s h, if_neg (not_not_intro aligned), if_neg (not_le_of_gt reached)]
  rfl

theorem jumpReg_misaligned (link : Option SReg) (a : SReg) (misaligned : (s.here.rs a).toNat % 4 ≠ 0) :
    run (jumpReg s link a) s = .next (applyAll (trap s s.cur cMISALIGN (s.here.rs a) 1) s) := by
  rw [run_jumpReg s h, if_pos misaligned]

theorem jumpReg_beyond (link : Option SReg) (a : SReg) (aligned : (s.here.rs a).toNat % 4 = 0)
    (beyond : 2 ^ 56 ≤ (s.here.rs a).toNat) :
    run (jumpReg s link a) s = .next (applyAll (trap s s.cur cADDR (s.here.rs a) 1) s) := by
  rw [run_jumpReg s h, if_neg (not_not_intro aligned), if_pos beyond]

omit h in
/-- JR and CALLR are the two jumps to a register, without and with a link. -/
theorem exec_jump_register (d a : SReg) (i : Instr) (hi : i ∈ [Instr.jr a, .callr d a]) :
    ∃ link, exec i s = run (jumpReg s link a) s := by
  rcases List.mem_pair.1 hi with rfl | rfl
  · exact ⟨none, rfl⟩
  · exact ⟨some d, rfl⟩

/-- An instruction that answers with a trap enters the handler and changes nothing outside its slot. -/
theorem completes_trapped (hc : s.CanTrap) (i : Instr) (cause : Nat) (val : Word) (ilen : Nat)
    (he : exec i s = .next (applyAll (trap s s.cur cause val ilen) s)) :
    Completes i s fun t => Trapped s t cause val ilen ∧ s.Elsewhere t :=
  ⟨_, he, trap_trapped s h hc cause val ilen⟩

end

/-- Settles O7: each condition of Table 14.3 by the sign of the word or by the predicate, and a jump to a register by the
two checks of R289 in their order. -/
theorem branchesCallsAndJumpsGoToTheirTarget : Obligations.BranchesCallsAndJumpsGoToTheirTarget := by
  unfold Obligations.BranchesCallsAndJumpsGoToTheirTarget
  constructor
  · intro s d a off far h
    have br := fun cc taken => exec_br_of_condition s h a cc off taken
    exact ⟨br _ _ (brTaken_eqz ..), br _ _ (brTaken_nez ..), br _ _ (brTaken_ltz ..), br _ _ (brTaken_gez ..),
      br _ _ (brTaken_gtz ..), br _ _ (brTaken_lez ..), br _ _ (brTaken_pany ..), br _ _ (brTaken_pnone ..),
      exec_jmp s h far, exec_call s h far, fun aligned reached =>
        ⟨jumpReg_goes s h none a aligned reached, jumpReg_goes s h (some d) a aligned reached⟩⟩
  · intro s d a i h hc hi
    obtain ⟨link, he⟩ := exec_jump_register s d a i hi
    exact ⟨fun misaligned => completes_trapped s h hc i 3 _ 1 (he.trans (jumpReg_misaligned s h link a misaligned)),
      fun aligned beyond => completes_trapped s h hc i 7 _ 1 (he.trans (jumpReg_beyond s h link a aligned beyond))⟩

end Sys2Proof.Machine
end

section
/-! PROOFS. Division (R276, Table 15.3), SEL (R278) and the predicate operations (R282) of chapter 15. -/

namespace Sys2Proof.Machine

/-! ### Division as the library has it -/

theorem divUnsigned_eq_udiv (x y : Word) (hy : y ≠ 0) : divUnsigned x y = x / y := by
  rw [divUnsigned, if_neg hy, BitVec.udiv_def]

theorem remUnsigned_eq_umod (x y : Word) (hy : y ≠ 0) : remUnsigned x y = x % y := by
  rw [remUnsigned, if_neg hy, BitVec.umod_def]

theorem divSigned_eq_sdiv (x y : Word) (hy : y ≠ 0) : divSigned x y = x.sdiv y :=
  BitVec.eq_of_toInt_eq (by rw [divSigned, if_neg hy, BitVec.toInt_ofInt, BitVec.toInt_sdiv])

theorem remSigned_eq_srem (x y : Word) (hy : y ≠ 0) : remSigned x y = x.srem y := by
  rw [remSigned, if_neg hy, ← BitVec.toInt_srem, BitVec.ofInt_toInt]

/-! ### Table 15.3 and the other cases -/

/-- The row of Table 15.3 for a division by zero. -/
theorem division_by_zero (x : Word) :
    divSigned x 0 = BitVec.allOnes 64 ∧ remSigned x 0 = x ∧ divUnsigned x 0 = BitVec.allOnes 64 ∧ remUnsigned x 0 = x :=
  ⟨if_pos rfl, if_pos rfl, if_pos rfl, if_pos rfl⟩

/-- The row of Table 15.3 for −2^63 by −1. -/
theorem division_overflow :
    divSigned 0x8000000000000000#64 0xFFFFFFFFFFFFFFFF#64 = 0x8000000000000000#64 ∧
      remSigned 0x8000000000000000#64 0xFFFFFFFFFFFFFFFF#64 = 0 ∧
      divUnsigned 0x8000000000000000#64 0xFFFFFFFFFFFFFFFF#64 = 0 ∧
      remUnsigned 0x8000000000000000#64 0xFFFFFFFFFFFFFFFF#64 = 0x8000000000000000#64 := by decide

theorem unsigned_division (x y : Word) (hy : y ≠ 0) :
    x.toNat = (divUnsigned x y).toNat * y.toNat + (remUnsigned x y).toNat ∧
      (remUnsigned x y).toNat < y.toNat := by
  have hpos : 0 < y.toNat := Nat.pos_of_ne_zero fun h => hy (BitVec.eq_of_toNat_eq h)
  rw [divUnsigned_eq_udiv x y hy, remUnsigned_eq_umod x y hy, BitVec.toNat_udiv, BitVec.toNat_umod]
  exact ⟨(Nat.div_add_mod' ..).symm, Nat.mod_lt _ hpos⟩

/-- The remainder of a truncating division is zero or has the dividend's sign. -/
theorem tmod_zero_or_sign (m n : Int) : m.tmod n = 0 ∨ (m.tmod n < 0 ↔ m < 0) := by
  by_cases hd : n ∣ m
  · exact .inl (Int.tmod_eq_zero_of_dvd hd)
  · right
    rw [← Int.sign_eq_neg_one_iff_neg, Int.sign_tmod, if_neg hd, Int.sign_eq_neg_one_iff_neg]

theorem signed_division (x y : Word) (hy : y ≠ 0)
    (ho : ¬(x = 0x8000000000000000#64 ∧ y = 0xFFFFFFFFFFFFFFFF#64)) :
    x.toInt = (divSigned x y).toInt * y.toInt + (remSigned x y).toInt ∧
      (remSigned x y).toInt.natAbs < y.toInt.natAbs ∧
      (remSigned x y = 0 ∨ ((remSigned x y).toInt < 0 ↔ x.toInt < 0)) := by
  have hpos : 0 < y.toInt.natAbs := Int.natAbs_pos.2 ((toInt_eq_zero_iff y).not.2 hy)
  rw [← toInt_eq_zero_iff, divSigned_eq_sdiv x y hy, remSigned_eq_srem x y hy, BitVec.toInt_srem,
    BitVec.toInt_sdiv_of_ne_or_ne x y (not_and_or.1 ho), Int.natAbs_tmod]
  exact ⟨(Int.tdiv_mul_add_tmod ..).symm, Nat.mod_lt _ hpos, tmod_zero_or_sign ..⟩

/-- Settles O2: the four operations write what `divSigned` and its three companions give, and each clause is a lemma about
those. -/
theorem divisionNeverTraps : Obligations.DivisionNeverTraps := by
  unfold Obligations.DivisionNeverTraps
  intro s d a b h x y done
  refine ⟨divSigned x y, remSigned x y, divUnsigned x y, remUnsigned x y, scalarD_next s h .., scalarD_next s h ..,
    scalarD_next s h .., scalarD_next s h .., ?_, ?_, unsigned_division x y, signed_division x y⟩
  · intro hy
    rw [hy]
    exact division_by_zero x
  · intro hx hy
    rw [hx, hy]
    exact division_overflow

/-! ### Words of opcodes 0x15 and 0x30 to 0x33 -/

/-- A word holds an instruction where it parses to one that passes Table 14.9. -/
theorem decode_eq_ok_iff (w : Window) (i : Instr) : decode w = .ok i ↔ parse w = .ok i ∧ check i = none := by
  cases hp : parse w with
  | error b => simp [decode, hp]
  | ok j =>
    cases hj : check j with
    | none => simpa [decode, hp, hj] using fun e : j = i => e ▸ hj
    | some b => simpa [decode, hp, hj] using fun e : j = i => e ▸ hj ▸ Option.some_ne_none b

theorem sr_eq_ok_iff (w : Window) (mk : SReg → SReg → SReg → Instr) (i : Instr) :
    sr w mk = .ok i ↔ fFn w = 0#7 ∧ i = mk (fD w) (fA w) (fB w) := by
  by_cases hf : fFn w = 0#7 <;> simp [sr, hf, eq_comm]

theorem allOk_singleton_iff (ok : Bool) (b : Bad) : allOk [(ok, b)] = none ↔ ok = true := by
  cases ok <;> simp [allOk, firstBad]

theorem decode_sel_iff (w : Window) (i : Instr) (hl : w.extractLsb' 0 2 = 0#2) (ho : w.extractLsb' 2 8 = 0x15#8) :
    decode w = .ok i ↔ w.extractLsb' 30 2 = 0#2 ∧ i = .sel (fD w) (fA w) (fB w) (w.extractLsb' 25 5) := by
  have hp : parse w = if w.extractLsb' 30 2 = 0#2 then .ok (.sel (fD w) (fA w) (fB w) (w.extractLsb' 25 5))
      else .error .reserved := Laws.Encoding.parse_short w _ hl ho (by decide)
  rw [decode_eq_ok_iff, hp]
  by_cases hz : w.extractLsb' 30 2 = 0#2
  · rw [if_pos hz]
    constructor
    · rintro ⟨h, -⟩
      exact ⟨hz, (Except.ok.inj h).symm⟩
    · rintro ⟨-, rfl⟩
      exact ⟨rfl, rfl⟩
  · simp [hz]

/-- A predicate operation `mk` is held by the words of its opcode whose fn7 is zero and whose registers are predicates
(R274, R282). -/
theorem decode_predicate_iff (w : Window) (i : Instr) (mk : SReg → SReg → SReg → Instr) (hp : parse w = sr w mk)
    (hc : ∀ d a b, check (mk d a b) = allOk [(predOk d && predOk a && predOk b, .register)]) :
    decode w = .ok i ↔
      fFn w = 0#7 ∧ (fD w).toNat < 8 ∧ (fA w).toNat < 8 ∧ (fB w).toNat < 8 ∧ i = mk (fD w) (fA w) (fB w) := by
  have hk : ∀ d a b, check (mk d a b) = none ↔ d.toNat < 8 ∧ a.toNat < 8 ∧ b.toNat < 8 := fun d a b => by
    rw [hc, allOk_singleton_iff]
    simp [predOk, and_assoc]
  rw [decode_eq_ok_iff, hp, sr_eq_ok_iff]
  constructor
  · rintro ⟨⟨hf, rfl⟩, hn⟩
    obtain ⟨hd, ha, hb⟩ := (hk ..).1 hn
    exact ⟨hf, hd, ha, hb, rfl⟩
  · rintro ⟨hf, hd, ha, hb, rfl⟩
    exact ⟨⟨hf, rfl⟩, (hk ..).2 ⟨hd, ha, hb⟩⟩

/-- The four predicate operations by their opcodes. -/
theorem decode_predicate_row (w : Window) (i : Instr) (hl : w.extractLsb' 0 2 = 0#2) (row : BitVec 8 × Instr)
    (hrow : row ∈ [(0x30#8, .pand (fD w) (fA w) (fB w)), (0x31#8, .por (fD w) (fA w) (fB w)),
      (0x32#8, .pxor (fD w) (fA w) (fB w)), (0x33#8, .pandn (fD w) (fA w) (fB w))])
    (ho : w.extractLsb' 2 8 = row.1) :
    decode w = .ok i ↔
      fFn w = 0#7 ∧ (fD w).toNat < 8 ∧ (fA w).toNat < 8 ∧ (fB w).toNat < 8 ∧ i = row.2 := by
  have hp := Laws.Encoding.parse_short w row.1 hl ho
  simp only [List.mem_cons, List.not_mem_nil, or_false] at hrow
  obtain rfl | rfl | rfl | rfl := hrow
  · exact decode_predicate_iff w i .pand (hp (by simp)) fun _ _ _ => rfl
  · exact decode_predicate_iff w i .por (hp (by simp)) fun _ _ _ => rfl
  · exact decode_predicate_iff w i .pxor (hp (by simp)) fun _ _ _ => rfl
  · exact decode_predicate_iff w i .pandn (hp (by simp)) fun _ _ _ => rfl

/-! ### What SEL, the predicate operations and a word that is no instruction do -/

section
variable (s : State) (h : s.Issues)
include h

theorem exec_sel (d a b c : SReg) :
    exec (.sel d a b c) s = .next (s.retired (s.here.after 1) fun z =>
      z.setS d (if s.here.rs c ≠ 0 then s.here.rs a else s.here.rs b)) :=
  scalarD_next s h ..

/-- PAND with p0, which reads all true, copies a predicate (R282). -/
theorem exec_pand_p0 (d a : SReg) :
    exec (.pand d a 0) s = .next (s.retired (s.here.after 1) fun z => z.setP (predReg d) (s.here.rp (predReg a))) := by
  have hn : exec (.pand d a 0) s = .next (s.retired (s.here.after 1) fun z =>
      z.setP (predReg d) (s.here.rp (predReg a) &&& s.here.rp 0)) := predDAB_next s h ..
  rw [hn, Slot.rp_zero, BitVec.and_allOnes]

/-- A short word that is no instruction raises ILLEGAL with itself in TRAPVAL (R261). -/
theorem completes_nonInstruction_short (hc : s.CanTrap) (word0 : BitVec 32) (hl : word0.extractLsb' 0 2 = 0#2) :
    Completes (.nonInstruction word0) s fun t => Trapped s t 1 (word0.setWidth 64) 1 ∧ s.Elsewhere t := by
  have hw : wordCount word0 = 1 := by rw [wordCount, hl]; rfl
  have he : exec (.nonInstruction word0) s =
      .next (applyAll (trap s s.cur cILLEGAL (word0.setWidth 64) (wordCount word0)) s) := run_issuing s h _
  rw [hw] at he
  exact completes_trapped s h hc _ cILLEGAL _ 1 he

end

/-- Settles O3: the results by the rules of the two shared operations, the words by their parse and Table 14.9, and the
others by the trap of a word that is no instruction. -/
theorem selectsAndPredicateLogicFollowTheirRules : Obligations.SelectsAndPredicateLogicFollowTheirRules := by
  unfold Obligations.SelectsAndPredicateLogicFollowTheirRules
  refine ⟨fun s d a b c h => exec_sel s h d a b c, ?_, ?_,
    fun s word0 h hc hl => completes_nonInstruction_short s h hc word0 hl⟩
  · intro s d a b h _ _ _
    exact ⟨predDAB_next s h .., predDAB_next s h .., predDAB_next s h .., predDAB_next s h .., exec_pand_p0 s h d a⟩
  · intro w i hl
    exact ⟨decode_sel_iff w i hl, decode_predicate_row w i hl⟩

end Sys2Proof.Machine
end
